-- ==== Sys2Proof/Word.lean ====
section
/-! DEFINITION. The word types of the Yalxus and their plainest arithmetic (R2, R8). -/

namespace Sys2Proof

/-- One byte of memory (R2). -/
abbrev Byte := BitVec 8

/-- A 32-bit thread register or instruction word (R11, R294). -/
abbrev Word := BitVec 32

/-- A 64-bit value: an even-odd register pair, a uniform register, an address (R93). -/
abbrev DWord := BitVec 64

/-- A 128-byte line, byte 0 in bits 7:0 (R2, R123). -/
abbrev Line := BitVec 1024

/-- `bits(x, hi, lo)` of R8 on a natural number. -/
def bitsOf (x hi lo : Nat) : Nat := x / 2 ^ lo % 2 ^ (hi + 1 - lo)

/-- `wrap(x, n)` of R8 on an integer: the n-bit word of x mod 2^n. -/
def wrapTo (n : Nat) (x : Int) : BitVec n := BitVec.ofInt n x

/-- `sat(x, lo, hi)` of R8. -/
def satTo (x lo hi : Int) : Int := if x < lo then lo else if hi < x then hi else x

/-- The even-odd pair of R93: the even register holds bits 31:0. -/
def pairOf (lo hi : Word) : DWord := hi ++ lo

/-- Bits 31:0 of a pair (R93). -/
def pairLo (x : DWord) : Word := x.extractLsb' 0 32

/-- Bits 63:32 of a pair (R93). -/
def pairHi (x : DWord) : Word := x.extractLsb' 32 32

/-- A truth value as a bit. -/
def bitOf (b : Bool) : Nat := if b then 1 else 0

end Sys2Proof
end

