-- ==== Sys2Proof/Config.lean ====
section
/-! DEFINITION. The free values of the model: constants without a body, for what the manual leaves open or names without
giving the bits. Nothing can be proved of the value of any of them. -/

namespace Sys2Proof

/-- The six forms of R336 that meet an error bound, by name. -/
inductive SpecialFn where | frsq | fexp2 | flog2 | fsin | fcos | ftanh
  deriving DecidableEq, Repr

/-- The F32 encoding an approximated form delivers for an encoding and a value of FTZ, before the bounds of R336 are put
on it (log entry 20): one fixed value for given x and FTZ (R334). -/
opaque Config.special : SpecialFn → Bool → Word → Word

/-- The bytes a read returns through a mapping whose CMPSIDE and SIDX disagree with the page's (R124, log entry 21), drawn
by a counter of State and the byte's address. -/
opaque Config.freeByte : Nat → Nat → Byte

/-- The ML-DSA-44 signature of R290 under the device key, 2,420 bytes (log entry 22). -/
opaque Config.sign : List Byte → BitVec 19360

/-- The CRC-16 of R260 over bits 63:16 of a control word and the 64 bytes of a flit: the manual names no polynomial
(log entry 78). -/
opaque Config.crc16 : Nat → BitVec 512 → BitVec 16

/-- The KIND code of a flit of a message, and the 64 bytes of a header flit for its kind, destination and address (R260): the manual
gives neither the codes nor the layouts (log entry 78). -/
opaque Config.flitKind : Nat → Nat
opaque Config.flitHeader : Nat → Nat → Nat → BitVec 512
/-- The 64 bytes of an audit, acknowledgement or replay-request flit for its kind and numbers, and the numbers a receiver reads from
such a flit (R260 to R262): the manual gives no layouts (log entry 78). -/
opaque Config.flitControl : Nat → List Nat → BitVec 512
opaque Config.controlRead : BitVec 512 → List Nat

end Sys2Proof
end

