-- ==== Sys2Proof/Syntax.lean ====
section
/-! DEFINITION. The syntax of the Yalxus: the operand alphabets of the instruction words (R294 to R299) and the ONE
inductive `Instr`, with a constructor for every row of spec/opcode_table.json: 173 instruction words and 93 steps of the
part that no word starts (host commands, engine, memory and network events). Register operands are natural numbers,
because a REP steps them past 127 (R36); `WellFormed` bounds them. -/

namespace Sys2Proof

/-- `.S` or `.Z` forms of an integer instruction (R295, R347). -/
inductive Sgn where | s | z
  deriving DecidableEq, Repr

/-- 32-bit or 64-bit form (R93). -/
inductive Width where | w32 | w64
  deriving DecidableEq, Repr

/-- Conditions of ISET (R351). -/
inductive ICmp where | eq | ne | ltS | leS | ltZ | leZ
  deriving DecidableEq, Repr

/-- Conditions of FCMP (R333). -/
inductive FCmp where | eq | ne | lt | le | un
  deriving DecidableEq, Repr

/-- The element kinds of R92 by the codes of R298. -/
inductive Kind where
  | s8 | s16 | s32 | s64 | z8 | z16 | z32 | z64
  | f32 | f16 | bf16 | e4m3 | e5m2 | e2m3 | e3m2 | e2m1
  | b2 | b3 | b4 | b5 | b6 | b7 | b8
  deriving DecidableEq, Repr

/-- Overflow policies of R104 and R105. -/
inductive Policy where | sat | inf | nan | trap
  deriving DecidableEq, Repr

/-- Packed integer kinds (R92). -/
inductive VInt where | s8x4 | s16x2
  deriving DecidableEq, Repr

/-- Packed float kinds (R92). -/
inductive VFloat where | f16x2 | bf16x2
  deriving DecidableEq, Repr

/-- Load kinds of major 16 and 18 (R358); `d64` serves .S64 and .Z64. -/
inductive LdKind where | s8 | s16 | s32 | d64 | z8 | z16 | z32
  deriving DecidableEq, Repr

/-- Store sizes of major 17 and 19 (R379). -/
inductive StKind where | b1 | b2 | b4 | b8
  deriving DecidableEq, Repr

/-- Scopes (R297). -/
inductive Scope where | grp | clu | pkg | pod | sys
  deriving DecidableEq, Repr

/-- Orders of atomics and accesses (R297). -/
inductive Order where | rlx | acq | rel | ar
  deriving DecidableEq, Repr

/-- Orders of FENCE (R296). -/
inductive FenceOrder where | acq | rel | ar
  deriving DecidableEq, Repr

/-- Atomic operations by the function codes of R309. -/
inductive AtomOp where
  | add32 | add64 | addF32 | minS32 | minZ32 | minS64 | minZ64 | minF32
  | maxS32 | maxZ32 | maxS64 | maxZ64 | maxF32 | and32 | or32 | xor32
  | xchg32 | xchg64 | cas32 | cas64
  deriving DecidableEq, Repr

/-- Votes of XVOTE (R401). -/
inductive Vote where | all | any | eq
  deriving DecidableEq, Repr

/-- Operators of XRED and XSCAN (R402, R403). -/
inductive XOp where
  | add | minS | maxS | minZ | maxZ | and | or | xor | addF | minF | maxF
  deriving DecidableEq, Repr

/-- The special registers of R299, numbers 0 to 21. -/
inductive SReg where
  | tidx | crew | gidx | gsize | ngrp | pbase | slim | scrb | wbase | repc | prio
  | fmode | fflags | mprg | trapc | trappc | trapva | trapdepth | tblo | tbhi | cyc | seed
  deriving DecidableEq, Repr

/-- A failed unit of the self-test: FAILCODE, FAILKIND, FAILUNIT of R289. -/
structure UnitFail where
  code : Nat
  kind : Nat
  unit : Nat
  deriving DecidableEq, Repr

/-- A soft-repair or trim value of the image, for a unit by kind and number (R286, R289). -/
structure RepairValue where
  kind : Nat
  unit : Nat
  value : DWord
  deriving DecidableEq, Repr
/-- What phase REPAIR writes from the image in use (R286): the die identities, the soft-repair and the trim values. -/
structure ImageValues where
  ids : List (BitVec 256)
  repair : List RepairValue
  trim : List RepairValue
  deriving DecidableEq, Repr

/-- A pod-link flit (R260): the control word's channel, kind, sequence number, reserved bits and CRC-16, and the 64 payload bytes. -/
structure Flit where
  vc : Nat
  kind : Nat
  seq : Nat
  reserved : Nat
  payload : BitVec 512
  crc : BitVec 16
  deriving DecidableEq, Repr

/-- What a window-audit flit carries (R262): the credits of each channel and the lowest outstanding sequence number. -/
structure Audit where
  credits : List Nat
  lowest : Nat
  deriving DecidableEq, Repr

/-- What a soft error strikes (R292, R262). -/
inductive SoftError where
  /-- the package's copy of a line, in a number of the 8-bit symbols that CHECK covers -/
  | line (line symbols : Nat)
  /-- a frame tag -/
  | frame (frame : Nat)
  /-- a directory entry -/
  | dirEntry (dset index : Nat)
  /-- data held under parity that a resident group's thread or engine will consume -/
  | held (g t : Nat)
  /-- one credit of a channel of a port -/
  | credit (port vc : Nat)
  /-- one sequence slot of a port's replay buffer -/
  | slot (port seq : Nat)
  deriving DecidableEq, Repr

/-- The instructions and steps of the Yalxus, one constructor per row of spec/opcode_table.json. In the rows that no word
encodes, `p` is a package, `fn` a PCI Express function (0 the physical function, n + 1 virtual function n), `g` a group
instance, `t` a TIDX, `x` the number of an item in flight; these operands are the model's naming of the step's subject. -/
inductive Instr where
  /-- IADD (R347): 32-bit integer add of two registers with wrap-around. -/
  | iadd (d a b : Nat)
  /-- IADD_64 (R347): 64-bit integer add of two register pairs. -/
  | iadd64 (d a b : Nat)
  /-- IADD_IMM (R347): 32-bit add of a register and a sign-extended 12-bit immediate. -/
  | iaddImm (d a : Nat) (imm : BitVec 12)
  /-- ISUB (R347): 32-bit integer subtract. -/
  | isub (d a b : Nat)
  /-- ISUB_64 (R347): 64-bit integer subtract on pairs. -/
  | isub64 (d a b : Nat)
  /-- IMUL (R347): Low 32 bits of an integer product. -/
  | imul (d a b : Nat)
  /-- IMUL_64 (R347): Low 64 bits of a 64-bit integer product. -/
  | imul64 (d a b : Nat)
  /-- IMULH_S32 (R347): High half of the signed 64-bit product of two 32-bit values. -/
  | imulhS32 (d a b : Nat)
  /-- IMULH_Z32 (R347): High half of the unsigned 64-bit product of two 32-bit values. -/
  | imulhZ32 (d a b : Nat)
  /-- IMAD (R349): 32-bit multiply-add using v[d] as the addend. -/
  | imad (d a b : Nat)
  /-- IMAD_64 (R349): 64-bit multiply-add on pairs. -/
  | imad64 (d a b : Nat)
  /-- IDIV (R348): 32-bit signed or unsigned division, with defined results for zero divisors. -/
  | idiv (sg : Sgn) (d a b : Nat)
  /-- IREM (R348): 32-bit signed or unsigned remainder. -/
  | irem (sg : Sgn) (d a b : Nat)
  /-- IMIN (R347): 32-bit signed or unsigned minimum. -/
  | imin (sg : Sgn) (d a b : Nat)
  /-- IMIN_64 (R347): 64-bit signed or unsigned minimum. -/
  | imin64 (sg : Sgn) (d a b : Nat)
  /-- IMAX (R347): 32-bit signed or unsigned maximum. -/
  | imax (sg : Sgn) (d a b : Nat)
  /-- IMAX_64 (R347): 64-bit signed or unsigned maximum. -/
  | imax64 (sg : Sgn) (d a b : Nat)
  /-- IABS (R347): 32-bit absolute value with wrap. -/
  | iabs (d a : Nat)
  /-- IABS_64 (R347): 64-bit absolute value with wrap. -/
  | iabs64 (d a : Nat)
  /-- INEG (R347): 32-bit negation with wrap. -/
  | ineg (d a : Nat)
  /-- INEG_64 (R347): 64-bit negation with wrap. -/
  | ineg64 (d a : Nat)
  /-- AND (R313): 32-bit bitwise and. -/
  | and (d a b : Nat)
  /-- AND_64 (R313): 64-bit bitwise and on pairs. -/
  | and64 (d a b : Nat)
  /-- ANDN (R313): 32-bit and with the complement of v[b]. -/
  | andn (d a b : Nat)
  /-- ANDN_64 (R313): 64-bit and-not on pairs. -/
  | andn64 (d a b : Nat)
  /-- OR (R369): 32-bit bitwise or. -/
  | or (d a b : Nat)
  /-- OR_64 (R369): 64-bit bitwise or on pairs. -/
  | or64 (d a b : Nat)
  /-- XOR (R405): 32-bit bitwise exclusive or. -/
  | xor (d a b : Nat)
  /-- XOR_64 (R405): 64-bit exclusive or on pairs. -/
  | xor64 (d a b : Nat)
  /-- SHL (R369): 32-bit shift left by a register count. -/
  | shl (d a b : Nat)
  /-- SHL_64 (R369): 64-bit shift left. -/
  | shl64 (d a b : Nat)
  /-- SHR (R369): 32-bit logical shift right. -/
  | shr (d a b : Nat)
  /-- SHR_64 (R369): 64-bit logical shift right. -/
  | shr64 (d a b : Nat)
  /-- SAR (R369): 32-bit arithmetic shift right. -/
  | sar (d a b : Nat)
  /-- SAR_64 (R369): 64-bit arithmetic shift right. -/
  | sar64 (d a b : Nat)
  /-- ROT (R369): 32-bit rotate left. -/
  | rot (d a b : Nat)
  /-- ROT_64 (R369): 64-bit rotate left. -/
  | rot64 (d a b : Nat)
  /-- CLZ (R321): Count leading zero bits of a 32-bit value. -/
  | clz (d a : Nat)
  /-- POPC (R369): Count the set bits of a 32-bit value. -/
  | popc (d a : Nat)
  /-- BREV (R321): Reverse the bits of a 32-bit value. -/
  | brev (d a : Nat)
  /-- ISET (R351): Integer compare writing a whole predicate. -/
  | iset (w : Width) (c : ICmp) (p a b : Nat)
  /-- ISEL (R350): Select one of two registers by bit 0 of a predicate. -/
  | isel (n d a b : Nat)
  /-- LEA (R362): Add a 12-bit byte offset to an address pair without memory access. -/
  | lea (d a : Nat) (imm : BitVec 12)
  /-- FADD (R331): FP32 add rounded once by RM. -/
  | fadd (d a b : Nat)
  /-- FSUB (R331): FP32 subtract. -/
  | fsub (d a b : Nat)
  /-- FMUL (R331): FP32 multiply. -/
  | fmul (d a b : Nat)
  /-- FFMA (R331): FP32 fused multiply-add with v[d] as addend. -/
  | ffma (d a b : Nat)
  /-- FMIN (R332): FP32 minimum with canonical NaN and -0 below +0. -/
  | fmin (d a b : Nat)
  /-- FMAX (R332): FP32 maximum. -/
  | fmax (d a b : Nat)
  /-- FRCP (R334): Correctly rounded FP32 reciprocal. -/
  | frcp (d a : Nat)
  /-- FRSQ (R336): Approximate FP32 reciprocal square root. -/
  | frsq (d a : Nat)
  /-- FSQRT (R334): Correctly rounded FP32 square root. -/
  | fsqrt (d a : Nat)
  /-- FEXP2 (R336): Approximate FP32 power of two. -/
  | fexp2 (d a : Nat)
  /-- FLOG2 (R336): Approximate FP32 base-2 logarithm. -/
  | flog2 (d a : Nat)
  /-- FSIN (R336): Approximate FP32 sine. -/
  | fsin (d a : Nat)
  /-- FCOS (R336): Approximate FP32 cosine. -/
  | fcos (d a : Nat)
  /-- FTANH (R336): Approximate FP32 hyperbolic tangent. -/
  | ftanh (d a : Nat)
  /-- FCMP (R333): FP32 compare writing a whole predicate. -/
  | fcmp (c : FCmp) (p a b : Nat)
  /-- CVT (R326): Exact conversion between element kinds. -/
  | cvt (dst src : Kind) (d a : Nat)
  /-- CVTD (R327): Down-conversion with rounding, overflow policy and stochastic draws. -/
  | cvtd (dst src : Kind) (pol : Policy) (d a : Nat)
  /-- VADD_INT (R392): Packed integer add of .S8X4 or .S16X2 sub-elements. -/
  | vaddInt (t : VInt) (d a b : Nat)
  /-- VSUB_INT (R392): Packed integer subtract. -/
  | vsubInt (t : VInt) (d a b : Nat)
  /-- VMUL_INT (R392): Packed integer multiply. -/
  | vmulInt (t : VInt) (d a b : Nat)
  /-- VMIN_INT (R392): Packed signed minimum. -/
  | vminInt (t : VInt) (d a b : Nat)
  /-- VMAX_INT (R392): Packed signed maximum. -/
  | vmaxInt (t : VInt) (d a b : Nat)
  /-- VDOT4 (R392): Four-way signed byte dot product accumulated into v[d]. -/
  | vdot4 (d a b : Nat)
  /-- VADD_FLOAT (R393): Packed F16 or BF16 add. -/
  | vaddFloat (t : VFloat) (d a b : Nat)
  /-- VSUB_FLOAT (R393): Packed F16 or BF16 subtract. -/
  | vsubFloat (t : VFloat) (d a b : Nat)
  /-- VMUL_FLOAT (R393): Packed F16 or BF16 multiply. -/
  | vmulFloat (t : VFloat) (d a b : Nat)
  /-- VMIN_FLOAT (R393): Packed F16 or BF16 minimum. -/
  | vminFloat (t : VFloat) (d a b : Nat)
  /-- VMAX_FLOAT (R393): Packed F16 or BF16 maximum. -/
  | vmaxFloat (t : VFloat) (d a b : Nat)
  /-- VFMA (R393): Packed F16 or BF16 fused multiply-add. -/
  | vfma (t : VFloat) (d a b : Nat)
  /-- VSEL (R394): Bytewise select by a predicate. -/
  | vsel (n d a b : Nat)
  /-- VPACK (R394): Saturating pack into .S8X4 or .S16X2. -/
  | vpack (t : VInt) (d a b : Nat)
  /-- VUNPK (R394): Sign-extending unpack of bytes or halves. -/
  | vunpk (t : VInt) (d a b : Nat)
  /-- PAND (R370): Predicate and. -/
  | pand (d a b : Nat)
  /-- POR (R370): Predicate or. -/
  | por (d a b : Nat)
  /-- PXOR (R370): Predicate exclusive or. -/
  | pxor (d a b : Nat)
  /-- PNOT (R370): Predicate complement. -/
  | pnot (d a : Nat)
  /-- PMOV_PRED (R370): Copy one predicate to another. -/
  | pmovPred (d a : Nat)
  /-- PMOV_FROM_V (R370): Set a predicate from the low byte of a register. -/
  | pmovFromV (d v : Nat)
  /-- PMOV_TO_V (R370): Write a predicate zero-extended into a register. -/
  | pmovToV (a v : Nat)
  /-- LD (R359): Relaxed load of 1 to 8 bytes, deferring on a translation miss. -/
  | ld (k : LdKind) (d b : Nat) (o : BitVec 9)
  /-- LDREF (R204): Relaxed 8-byte load that copies the word's reference tag. -/
  | ldref (d b : Nat) (o : BitVec 9)
  /-- ST (R380): Relaxed store of 1 to 8 bytes. -/
  | st (k : StKind) (s b : Nat) (o : BitVec 9)
  /-- STREF (R381): Relaxed store of a tagged reference with escape and tag checks. -/
  | stref (s b : Nat) (o : BitVec 9)
  /-- LDS (R360): Relaxed scratchpad load. -/
  | lds (k : LdKind) (d b : Nat) (o : BitVec 9)
  /-- STS (R382): Relaxed scratchpad store. -/
  | sts (k : StKind) (s b : Nat) (o : BitVec 9)
  /-- LDPV (R361): Load one or two private words with stack-limit check. -/
  | ldpv (w : Width) (d b : Nat) (o : BitVec 9)
  /-- STPV (R383): Store one or two private words with stack-limit check. -/
  | stpv (w : Width) (s b : Nat) (o : BitVec 9)
  /-- LD_ACQ (R359): Acquire load of 32 or 64 bits at a scope. -/
  | ldAcq (w : Width) (d a : Nat) (sc : Scope)
  /-- LDREF_ACQ (R204): Acquire reference load. -/
  | ldrefAcq (d a : Nat) (sc : Scope)
  /-- ST_REL_32 (R380): 32-bit release store at a scope. -/
  | stRel32 (d a : Nat) (sc : Scope)
  /-- ST_REL_64 (R380): 64-bit release store at a scope. -/
  | stRel64 (d a : Nat) (sc : Scope)
  /-- STREF_REL (R381): Release store of a reference, without offset. -/
  | strefRel (d a : Nat) (sc : Scope)
  /-- LDS_ACQ (R360): Acquire scratchpad load of 32 or 64 bits. -/
  | ldsAcq (w : Width) (d a : Nat) (sc : Scope)
  /-- STS_REL (R382): Release scratchpad store of 32 or 64 bits. -/
  | stsRel (w : Width) (d a : Nat) (sc : Scope)
  /-- ATOM (R310): Atomic read-modify-write at the home slice, host bridge or bank. -/
  | atom (op : AtomOp) (d a : Nat) (ord : Order) (sc : Scope) (noret : Bool)
  /-- ATOMS (R310): Atomic on a scratchpad offset. -/
  | atoms (op : AtomOp) (d a : Nat) (ord : Order) (sc : Scope) (noret : Bool)
  /-- KLD (R355): Load 8 bytes of memory into a uniform register, holding the thread on a miss. -/
  | kld (n b : Nat) (o : BitVec 9)
  /-- KST (R355): Store a uniform register to 8 bytes of memory. -/
  | kst (n b : Nat) (o : BitVec 9)
  /-- OINIT (R203): Initialise a private object header and mint a tagged reference. -/
  | oinit (d a b : Nat)
  /-- LAUNCH (R357): Read a launch record and send it to the bench for a device-fed queue, as a SYS release. -/
  | launch (d a q : Nat)
  /-- PREF (R371): Prefetch a line for reading without ordering or faults. -/
  | pref (a : Nat)
  /-- WBR (R396): Write back the dirty SWM bytes of a range to their true homes. -/
  | wbr (a b : Nat)
  /-- INVR (R352): Write back and drop the die's copies of an SWM range. -/
  | invr (a b : Nat)
  /-- CPT (R322): Copy rows from global memory into scratchpad. -/
  | cpt (h k : Nat)
  /-- CPS (R322): Copy rows from scratchpad to global memory. -/
  | cps (h k : Nat)
  /-- CPG (R322): Gather indexed global rows into scratchpad. -/
  | cpg (h k a : Nat)
  /-- CPSC (R322): Scatter scratchpad rows to indexed global rows. -/
  | cpsc (h k a : Nat)
  /-- CPB (R322): Bulk copy between global locations on a bulk engine. -/
  | cpb (h k a : Nat)
  /-- CPZ (R322): Fill rows with a 32-bit pattern. -/
  | cpz (h k a : Nat)
  /-- CPR (R223): Rotate a tile one step around the cluster scratchpad ring. -/
  | cpr (h k a : Nat)
  /-- MMA (R232): Accumulate NKB K-blocks of A times B into a tile. -/
  | mma (h k z : Nat)
  /-- MMAS (R232): Matrix multiply-accumulate from a given start block. -/
  | mmas (h k a z : Nat)
  /-- MZ (R238): Zero an accumulator tile. -/
  | mz (h z : Nat)
  /-- MST (R238): Convert and store an accumulator tile. -/
  | mst (h k z : Nat)
  /-- MLDA (R238): Load and widen a 64 by 128 tile into an accumulator. -/
  | mlda (h k z : Nat)
  /-- SCACC (R237): Scale a partial tile by block scales and add into an accumulator. -/
  | scacc (h k p z : Nat)
  /-- SCN (R244): Enqueue a scan over a tile of inputs on the scan engine. -/
  | scn (h k : Nat)
  /-- SCOP (R243): Load an operator program into a slot of the scan operator table. -/
  | scop (h a s : Nat)
  /-- PUB (R208): Start a publication walk from a root reference at a scope. -/
  | pub (h : Nat) (sc : Scope) (a : Nat)
  /-- HWAIT (R342): Block until a handle is EMPTY or DONE. -/
  | hwait (h : Nat)
  /-- HTEST (R342): Write a predicate from a handle's state without blocking. -/
  | htest (h p : Nat)
  /-- HCAN (R343): Cancel the operation a handle names. -/
  | hcan (h : Nat)
  /-- HMOV (R344): Copy a handle's operation to another handle register. -/
  | hmov (h s : Nat)
  /-- HST (R346): Store a handle token to scratchpad, taking a registry entry. -/
  | hst (h a : Nat)
  /-- HLD (R346): Load a handle token from scratchpad into a handle. -/
  | hld (h a : Nat)
  /-- SWARM (R226): Set a sync word's TARGET and apply a zero-byte arrival. -/
  | swarm (a b : Nat)
  /-- SWADD (R226): Apply an arrival to a sync word as a group release. -/
  | swadd (a b : Nat)
  /-- SWAIT (R226): Block until a sync word's generation moves, as a group acquire. -/
  | swait (a b : Nat)
  /-- RJOIN (R248): Join the share to a carry-rail chain. -/
  | rjoin (a : Nat)
  /-- BRZ (R318): Branch when a register is zero. -/
  | brz (a : Nat) (o : BitVec 16)
  /-- BNZ (R318): Branch when a register is non-zero. -/
  | bnz (a : Nat) (o : BitVec 16)
  /-- BRP (R318): Branch on bit 0 of a predicate. -/
  | brp (p : Nat) (o : BitVec 16)
  /-- JMP (R354): Unconditional PC-relative jump. -/
  | jmp (o : BitVec 16)
  /-- CALL (R320): PC-relative call pushing the return stack, spilling when full. -/
  | call (o : BitVec 16)
  /-- BR (R319): Jump to the address in a register pair. -/
  | br (a : Nat)
  /-- CALL_REG (R320): Call through a register pair. -/
  | callReg (a : Nat)
  /-- NOP (R367): No operation. -/
  | nop
  /-- EXIT (R329): End the thread after its operand log empties; the last exit starts the group's drain. -/
  | exit
  /-- YIELD (R406): Put a priority demotion in force for the thread. -/
  | yield
  /-- RSYNC (R250): Rail-chain synchronisation at package scope. -/
  | rsync
  /-- RLEAVE (R250): End the share's rail membership. -/
  | rleave
  /-- TRET (R390): Return from a trap handler to TRAPPC. -/
  | tret
  /-- TRAP (R389): Raise a software trap with CAUSE 0x0C. -/
  | trap (c : BitVec 16)
  /-- BKPT (R317): Halt the group under ATTACH, otherwise trap with CAUSE 0x0A. -/
  | bkpt
  /-- HALT (R339): Request a debugger halt of the issuing group. -/
  | halt
  /-- FENCE (R338): Order the thread's accesses at a scope, closing a release phase when wide enough. -/
  | fence (sc : Scope) (ord : FenceOrder)
  /-- BAR (R314): Arrive at the group barrier and wait for its generation. -/
  | bar
  /-- TMARK (R388): Write a code 10 trace record. -/
  | tmark (a : Nat)
  /-- PRIO (R372): Set the thread's stored PRIO. -/
  | prio (n : BitVec 3)
  /-- REP (R36): Repeat the next instruction an immediate count of times with register strides. -/
  | rep (sd sa sb n : Nat)
  /-- REP_REG (R36): Repeat the next instruction a count taken from a register. -/
  | repReg (sd sa sb c : Nat)
  /-- WINB (R397): Move the register window base. -/
  | winb (b : Nat)
  /-- RET (R375): Return through the return stack, refilling spills. -/
  | ret
  /-- WAITC (R395): Block until the four outstanding-operation counters fall to given limits. -/
  | waitc (l s c t : Nat)
  /-- MOVI (R365): Load a sign-extended 19-bit immediate. -/
  | movi (d : Nat) (imm : BitVec 19)
  /-- MOVH (R365): Replace bits 31:13 of a register with an immediate. -/
  | movh (d : Nat) (imm : BitVec 19)
  /-- MOV (R365): Copy a 32-bit register, clearing the pair tag. -/
  | mov (d a : Nat)
  /-- MOV_64 (R365): Copy a register pair with its reference tag. -/
  | mov64 (d a : Nat)
  /-- KMOV_FROM_K (R355): Copy a uniform register into a thread register pair. -/
  | kmovFromK (d n : Nat)
  /-- KMOV_TO_K (R356): Write a thread register pair into a uniform register. -/
  | kmovToK (n a : Nat)
  /-- SRD (R384): Read a special register. -/
  | srd (d : Nat) (r : SReg)
  /-- SWR (R385): Write a writable special register. -/
  | swr (r : SReg) (a : Nat)
  /-- BFX (R316): Extract a bit field with sign or zero extension. -/
  | bfx (sg : Sgn) (d a b : Nat)
  /-- BFI (R316): Insert a bit field into v[d]. -/
  | bfi (d a b : Nat)
  /-- XSHF (R399): Crew shuffle of a 32- or 64-bit value by crew index. -/
  | xshf (w : Width) (d a b : Nat)
  /-- XBAL (R400): Crew ballot of a predicate into a 32-bit mask. -/
  | xbal (d p : Nat)
  /-- XVOTE (R401): Crew vote ALL, ANY or EQ into a predicate. -/
  | xvote (v : Vote) (p a : Nat)
  /-- XIDX (R404): Report the remapping-table entry for a crew index. -/
  | xidx (d a : Nat)
  /-- XRED (R402): Crew reduction over active members. -/
  | xred (op : XOp) (d a : Nat)
  /-- XSCAN (R403): Crew inclusive prefix scan. -/
  | xscan (op : XOp) (d a : Nat)
  /-- INVALIDATE_DONE (R129): An accepted invalidate completes and INVDONE advances. -/
  | invalidateDone (p : Nat)
  /-- WINDOW_READ (R259): Host read through BAR 2 performed at the page's home slice. -/
  | windowRead (p fn off size : Nat)
  /-- WINDOW_WRITE (R259): Host write through BAR 2 performed as a relaxed store at the home slice. -/
  | windowWrite (p fn off size : Nat) (v : DWord)
  /-- STEP_WAIT_END (R281): A stepped blocking instruction passes and the step ends by itself. -/
  | stepWaitEnd (p fn : Nat)
  /-- DUMP (R284): Mailbox command halting, dumping and resuming a group or region. -/
  | dump (p fn : Nat)
  /-- GROUP_STOP (R279): Every thread of a halting group has stopped, so STOPPED is set and a code 8 record written. -/
  | groupStop (g : Nat)
  /-- ATTESTATION_SIGNED (R290): The attestation response is complete and ATTSTAT VALID is set. -/
  | attestationSigned (p : Nat)
  /-- IMAGE_PHASE_END (R286): Image verification ends, entering REPAIR or SAFE. -/
  | imagePhaseEnd (p : Nat) (ok0 ok1 : Bool) (ver0 ver1 : BitVec 32) (slot0 slot1 : List Byte)
  /-- REPAIR_PHASE_END (R286): Repair and trim writes end, entering SELFTEST or SAFE. -/
  | repairPhaseEnd (p : Nat) (fail : Option UnitFail) (values : ImageValues)
  /-- SELFTEST_END (R286): Self-test ends, entering READY or SAFE. -/
  | selftestEnd (p : Nat) (fails : List UnitFail)
  /-- THROTTLE_RAISE (R293): The 10 microsecond check raises the throttle level on excess power or heat. -/
  | throttleRaise (p power temp : Nat)
  /-- THROTTLE_LOWER (R293): After 100 microseconds below limits the throttle level falls by one. -/
  | throttleLower (p power temp : Nat)
  /-- HOLDOVER_ENTER (R264): The timebase loses its PTP master and runs free. -/
  | holdoverEnter (p : Nat)
  /-- HOLDOVER_LEAVE (R264): A PTP master returns and holdover ends. -/
  | holdoverLeave (p : Nat)
  /-- PTP_MESSAGE (R264): A PTP message disciplines the timebase by slewing. -/
  | ptpMessage (p : Nat) (offset : Int)
  /-- BUNDLING_ROUND (R23): Every 4 cycles the bundler forms up to 4 bundles for one resident group. -/
  | bundlingRound (p c : Nat)
  /-- PRIORITY_PROMOTION (R25): A ready thread not issued for 64 rounds of its group takes effective priority 7. -/
  | priorityPromotion (g t : Nat)
  /-- YIELD_DEMOTION_END (R26): A YIELD demotion expires after 64 bundling rounds. -/
  | yieldDemotionEnd (g t : Nat)
  /-- RECORD_TAKE (R53): The sequencer takes a queue's head record and checks it. -/
  | recordTake (p blk q : Nat)
  /-- DEPENDENCE_RECHECK (R57): Every 10 microseconds the sequencer re-reads every pending dependence. -/
  | dependenceRecheck (p : Nat)
  /-- GROUP_HAND_OUT (R56): The sequencer hands at most one group per cycle to a die. -/
  | groupHandOut (p : Nat)
  /-- SAVE_DONE (R75): A group's save completes, its context written and resources released. -/
  | saveDone (g : Nat)
  /-- GROUP_PLACE (R62): A distributor places a group's shares on cores with room. -/
  | groupPlace (p die : Nat)
  /-- CLUSTER_MODE_CHANGE (R170): An empty cluster writes back and drops its L1s to change fused mode before a placement. -/
  | clusterModeChange (p c : Nat) (fused : Bool)
  /-- DRAIN_END (R43): A draining group's started operations are acknowledged and it releases its slot and scratchpad. -/
  | drainEnd (g : Nat)
  /-- CLUSTER_REPORT (R66): A cluster reports that its share of a fully handed-out launch is complete. -/
  | clusterReport (p c l : Nat)
  /-- LAUNCH_ENQUEUE (R357): A LAUNCH request reaches the bench and is written to the queue or refused. -/
  | launchEnqueue (x : Nat)
  /-- FAULT_POST (R83): The part writes a fault-queue entry, waiting while the ring is full. -/
  | faultPost (p regid : Nat)
  /-- ACCESS_REPLAY (R84): A deferred access replays after its resolution, completing or trapping. -/
  | accessReplay (g t : Nat)
  /-- ENGINE_FAILURE_TRAP (R85): A failed engine operation traps its issuing thread at its next boundary with ENGINE = 1. -/
  | engineFailureTrap (g t : Nat)
  /-- TRANSLATION_WALK_DONE (R121): A translation walk ends, installing a translation or posting a fault. -/
  | translationWalkDone (x : Nat)
  /-- HOME_READ_REQUEST (R165): A load miss reaches the home, which recalls owned words and registers the sharer. -/
  | homeReadRequest (x : Nat)
  /-- OWNERSHIP_REQUEST (R165): A store asks the home for word ownership, invalidating sharers. -/
  | ownershipRequest (x : Nat)
  /-- FORWARDED_READ (R167): A forwarded read reaches an owner, answered from its write-back buffer if needed. -/
  | forwardedRead (x : Nat)
  /-- WRITE_BACK_ARRIVAL (R167): An L1 write-back arrives at the home and is merged and acknowledged. -/
  | writeBackArrival (x : Nat)
  /-- ATOMIC_AT_HOME (R171): An atomic arrives at its home and is performed in arrival order. -/
  | atomicAtHome (x : Nat)
  /-- RELEASE_COMPLETION (R174): All slices report their epoch counts and the release completes. -/
  | releaseCompletion (p c : Nat)
  /-- ROUTER_POWER_DOWN (R177): A router powers down after 256 idle cycles. -/
  | routerPowerDown (p r : Nat)
  /-- ROUTER_WAKE (R177): A packet reaches a powered-down router and waits for its wake. -/
  | routerWake (p r : Nat)
  /-- CLIMBING_MISS (R144): A page miss climbs the location directory to a holder. -/
  | climbingMiss (x : Nat)
  /-- PAGE_MOVE_DONE (R144): The last line of a moving page arrives and the FILLING frame becomes usable. -/
  | pageMoveDone (x : Nat)
  /-- UPGRADE (R146): A write to a non-sole page serialises, invalidates replicas and moves the master mark. -/
  | upgrade (x : Nat)
  /-- MARK_ARRIVAL (R146): The master mark reaches the requester, which becomes MASTER-SOLE. -/
  | markArrival (x : Nat)
  /-- INJECTION_OFFER (R152): A candidate or reserve way is offered an injected page and accepts or refuses. -/
  | injectionOffer (x : Nat)
  /-- INJECTION_CONFIRM (R152): The receiver confirms every line and the INJECTING frame becomes INVALID. -/
  | injectionConfirm (x : Nat)
  /-- HOLDER_REPORT (R156): An UNLISTED holder reports a change to its directory node, which decrements EVC. -/
  | holderReport (p page level : Nat)
  /-- WINDOW_END (R140): At each 2^20-cycle window end frames apply memory-side return and clear counts. -/
  | windowEnd (p : Nat)
  /-- FLIT_RECEIVE (R261): A pod-link flit arrives and is checked, accepted or discarded with a replay request. -/
  | flitReceive (p port : Nat) (f : Flit)
  /-- LINK_REPLAY_REQUEST (R261): A replay request makes the sender resend from its replay buffer. -/
  | linkReplayRequest (p port n : Nat)
  /-- ACK_CREDIT_RETURN (R261): An acknowledgement and credit flit frees replay buffer and restores credit. -/
  | ackCreditReturn (p port ack : Nat) (cr : List Nat)
  /-- WINDOW_AUDIT_SEND (R262): After every 4,096 flits a side sends a window-audit flit. -/
  | windowAuditSend (p port : Nat)
  /-- WINDOW_AUDIT_RECEIVE (R262): An audit arrives and lost credits or sequence slots are repaired. -/
  | windowAuditReceive (p port : Nat) (a : Audit)
  /-- COPY_ARRIVAL (R225): A copy piece of at most 128 bytes is moved and its sync-word arrival applied. -/
  | copyArrival (x : Nat)
  /-- COPY_COMPLETE (R323): A copy operation completes and its handle becomes DONE. -/
  | copyComplete (x : Nat)
  /-- K_BLOCK_DONE (R232): The matrix engine finishes one K-block and advances MPRG. -/
  | kBlockDone (x : Nat)
  /-- MATRIX_COMPLETE (R363): A matrix command completes, its handle DONE and flags merged. -/
  | matrixComplete (x : Nat)
  /-- SCAN_START (R245): An SCN starts on the scan engine and its programmed-slot checks run. -/
  | scanStart (x : Nat)
  /-- CARRY_ARRIVAL (R249): A rail carry reaches a member's inbox. -/
  | carryArrival (x : Nat)
  /-- SCAN_COMPLETE (R247): A scan command completes, writing outputs and merging flags. -/
  | scanComplete (x : Nat)
  /-- WALK_START (R421): A scribe becomes free and takes the next queued publication walk. -/
  | walkStart (p die : Nat)
  /-- WALK_COMPLETE (R214): A walk completes as a release at its scope and its handle becomes DONE. -/
  | walkComplete (x : Nat)
  /-- TIMESERIES_TICK (R273): At each 2^K ns tick every counter is latched and a snapshot appended. -/
  | timeseriesTick (p : Nat)
  /-- OBJECT_MARK (R209): The write-back of a visited object is acknowledged, and the walk marks the object PUBLISHED and sets the VIS of its lines. -/
  | objectMark (x : Nat)
  /-- ACCESS_COMPLETION (R42): The reply to a thread's load, store or atomic reaches the core, writing the loaded value, clearing the pending mark and retiring the access from its counter class. -/
  | accessCompletion (x : Nat)
  /-- SCRUB (R292): A scrub reads stored lines, correcting errors or poisoning lines that hold uncorrectable mismatches. -/
  | scrub (p line : Nat)
  /-- LINK_TRAINING_DONE (R261): A pod-link port completes training or retraining, with firmware setting its per-channel credit counts. -/
  | linkTrainingDone (p port : Nat) (cr : List Nat)
  /-- REFRESH (R49): Control-BAR command making a region block's changes take effect and setting its STATE. -/
  | refresh (p fn : Nat)
  /-- INVALIDATE (R129): Control-BAR command dropping translations of a tenant range or the whole tenant. -/
  | invalidate (p fn : Nat)
  /-- DOMAIN_RESET (R91): Control-BAR command ending a frozen fault domain. -/
  | domainReset (p fn : Nat)
  /-- LOSS (R157): Control-BAR command declaring a package lost and repairing directory entries. -/
  | loss (p fn : Nat)
  /-- RELEASE_LOST (R158): Control-BAR command releasing a LOST page entry. -/
  | releaseLost (p fn : Nat)
  /-- RESOLVE (R84): Write of FAULTID and action resolving a fault-queue entry. -/
  | resolve (p fn : Nat) (v : DWord)
  /-- FQHEAD_WRITE (R258): Report of consumed fault-queue entries, judged against the written count. -/
  | fqheadWrite (p fn : Nat) (v : DWord)
  /-- REGISTER_WRITE (R255): Write to a control or mailbox register that has no behaviour of its own. -/
  | registerWrite (p fn bar off size : Nat) (v : DWord)
  /-- QUEUE_TAIL_DOORBELL (R257): 64-bit doorbell write setting TAIL of a leaf queue. -/
  | queueTailDoorbell (p fn off size : Nat) (v : DWord)
  /-- DEBUG_HALT (R279): Mailbox HALT command stopping every thread of the target group. -/
  | debugHalt (p fn : Nat)
  /-- HALT_REGION (R279): Mailbox command halting every resident group of a subtree. -/
  | haltRegion (p fn : Nat)
  /-- RESUME (R280): Mailbox command letting a halted group issue again. -/
  | resume (p fn : Nat)
  /-- STEP (R281): Mailbox command issuing one thread of a halted group alone. -/
  | step (p fn : Nat)
  /-- READ_CONTEXT (R283): Mailbox command writing a halted group's contexts to the dump area. -/
  | readContext (p fn : Nat)
  /-- WRITE_CONTEXT (R283): Mailbox command reading changed contexts back into a halted group. -/
  | writeContext (p fn : Nat)
  /-- DUMP_PAGE (R284): Mailbox command dumping a frame tag and line metadata. -/
  | dumpPage (p fn : Nat)
  /-- ATTACH (R413): Mailbox command attaching the debugger to a region. -/
  | attach (p fn : Nat)
  /-- DETACH (R280): Mailbox command ending the ATTACH, disabling slots and resuming halted groups. -/
  | detach (p fn : Nat)
  /-- BREAKPOINT_SLOT_WRITE (R276): Write to a breakpoint slot, with the enabled-slot limit checked on EN. -/
  | breakpointSlotWrite (p fn i w : Nat) (v : DWord)
  /-- WATCHPOINT_SLOT_WRITE (R277): Write to a watchpoint slot, with the limit checked on EN. -/
  | watchpointSlotWrite (p fn i w : Nat) (v : DWord)
  /-- TSK_WRITE (R273): Write of TSK starting, changing or stopping the counter time series. -/
  | tskWrite (p fn : Nat) (v : DWord)
  /-- TRRD_WRITE (R268): Write of a trace buffer's TRRD, taken only when it lies in the written part of the ring. -/
  | trrdWrite (p blk : Nat) (v : Word)
  /-- ATTESTATION_REQUEST (R290): Attestation request by ATTREQ or over MCTP, signing the nonce and state. -/
  | attestationRequest (p : Nat) (mctp : Bool) (nonce : BitVec 256)
  /-- POWER_LOSS (R288): Power is removed from the module, discarding all state; this is the only way out of SAFE. -/
  | powerLoss (p : Nat)
  /-- SOFT_ERROR (R292): A soft error corrupts stored data, a check bit, a link credit or a sequence slot. -/
  | softError (p : Nat) (e : SoftError)
  /-- LINK_FAILURE (R157): A pod-link port fails, and firmware's routing tables steer traffic to other ports without declaring any package lost. -/
  | linkFailure (p port : Nat)
  /-- POWER_GOOD (R286): Power becomes good and the management controller begins phase IMAGE. -/
  | powerGood (p : Nat)
  deriving DecidableEq, Repr

end Sys2Proof
end

