-- ==== Sys2Proof/WellFormed.lean ====
section
/-! DEFINITION. Well-formed instructions: the field rules of R295 to R299 and R325 (step 2 of R300) and the ranges of the
operands of the rows that no word encodes (R13). -/

namespace Sys2Proof

/-- A field that names a thread register (R294). -/
def reg (i : Nat) : Bool := decide (i < 128)

/-- A field that names an even-odd pair by its even register (R93, R295). -/
def pr (i : Nat) : Bool := decide (i < 128) && decide (i % 2 = 0)

/-- A register of a 32-bit form or a pair of a 64-bit form. -/
def wreg (w : Width) (i : Nat) : Bool := if w = .w64 then pr i else reg i

/-- The width of a kind in bits (R92). -/
def Kind.width : Kind → Nat
  | .s8 | .z8 | .e4m3 | .e5m2 | .b8 => 8
  | .s16 | .z16 | .f16 | .bf16 => 16
  | .s32 | .z32 | .f32 => 32
  | .s64 | .z64 => 64
  | .e2m3 | .e3m2 | .b6 => 6
  | .e2m1 | .b4 => 4
  | .b2 => 2 | .b3 => 3 | .b5 => 5 | .b7 => 7

/-- A register of a scalar of the kind: a pair for the 64-bit kinds (R324). -/
def kreg (k : Kind) (i : Nat) : Bool := if k.width = 64 then pr i else reg i

/-- The width b of a block-integer kind, 0 for the others (R97). -/
def Kind.blockBits : Kind → Nat
  | .b2 => 2 | .b3 => 3 | .b4 => 4 | .b5 => 5 | .b6 => 6 | .b7 => 7 | .b8 => 8
  | _ => 0

/-- The pairs that CVT admits in major 9 (R298, R325): targets of codes 0 to 15 only. -/
def cvtAdmits (dst src : Kind) : Bool :=
  let bl (hi : Nat) : Bool := decide (2 ≤ src.blockBits) && decide (src.blockBits ≤ hi)
  match dst with
  | .s8 => decide (src = .s8) || bl 8
  | .s16 => decide (src ∈ [.s16, .s8, .z8]) || bl 8
  | .s32 => decide (src ∈ [.s32, .s8, .s16, .z8, .z16]) || bl 8
  | .s64 => decide (src ∈ [.s64, .s8, .s16, .s32, .z8, .z16, .z32]) || bl 8
  | .z8 => decide (src = .z8)
  | .z16 => decide (src ∈ [.z16, .z8])
  | .z32 => decide (src ∈ [.z32, .z8, .z16])
  | .z64 => decide (src ∈ [.z64, .z8, .z16, .z32])
  | .f32 => decide (src ∈ [.f32, .s8, .s16, .z8, .z16, .f16, .bf16, .e4m3, .e5m2, .e2m3, .e3m2, .e2m1]) || bl 8
  | .f16 => decide (src ∈ [.f16, .s8, .z8, .e4m3, .e5m2, .e2m3, .e3m2, .e2m1]) || bl 8
  | .bf16 => decide (src ∈ [.bf16, .s8, .z8, .e4m3, .e5m2, .e2m3, .e3m2, .e2m1]) || bl 8
  | .e4m3 => decide (src ∈ [.e4m3, .e2m3, .e3m2, .e2m1]) || bl 5
  | .e5m2 => decide (src ∈ [.e5m2, .e3m2, .e2m1]) || bl 4
  | .e2m3 => decide (src ∈ [.e2m3, .e2m1]) || bl 3
  | .e3m2 => decide (src ∈ [.e3m2, .e2m1]) || bl 4
  | .e2m1 => decide (src = .e2m1) || bl 3
  | _ => false

/-- The units of a part by FAILKIND (R13, R289): 1 core, 2 cluster crossbar or ring, 3 slice, 4 die, 5 HBM4E stack, 6 pod-link port,
7 bulk copy engine, 8 scribe, 9 power stage, 10 bench. -/
def unitInPart (kind unit : Nat) : Bool := decide (unit < [0, 384, 48, 256, 8, 16, 24, 128, 64, 64, 1].getD kind 0)
def UnitFail.inPart (u : UnitFail) : Bool := unitInPart u.kind u.unit
/-- A failure of the self-test (R286, R289): 3 an SRAM of any unit, 4 a die's butterflies, 5 its bridge, 6 a stack, 7 a port, 8 a power
stage. -/
def UnitFail.ofSelftest (u : UnitFail) : Bool :=
  u.inPart && match u.code with | 3 => true | 4 | 5 => decide (u.kind = 4) | 6 => decide (u.kind = 5) | 7 => decide (u.kind = 6)
                                | 8 => decide (u.kind = 9) | _ => false

/-- The size in bytes of an atomic (R310). -/
def AtomOp.size : AtomOp → Nat
  | .add64 | .minS64 | .minZ64 | .maxS64 | .maxZ64 | .xchg64 | .cas64 => 8
  | _ => 4

/-- The operations that ATOMS has (R309). -/
def atomsOp : AtomOp → Bool
  | .add32 | .addF32 | .minS32 | .maxS32 | .and32 | .or32 | .xor32 | .xchg32 | .cas32 => true
  | _ => false

/-- Field d of an atomic (R297, R309). -/
def atomReg (op : AtomOp) (d : Nat) : Bool :=
  match op with
  | .cas32 => pr d
  | .cas64 => reg d && decide (d % 4 = 0)
  | .add64 | .minS64 | .minZ64 | .maxS64 | .maxZ64 | .xchg64 => pr d
  | _ => reg d

/-- NORET is reserved with XCHG and CAS (R297). -/
def atomNoret (op : AtomOp) (noret : Bool) : Bool :=
  match op with
  | .xchg32 | .xchg64 | .cas32 | .cas64 => !noret
  | _ => true

/-- Special registers of 64 bits (R299). -/
def SReg.is64 : SReg → Bool
  | .pbase | .trappc | .trapva | .cyc => true
  | _ => false

/-- Special registers that SWR writes (R299). -/
def SReg.writable : SReg → Bool
  | .wbase | .prio | .fmode | .fflags | .trapc | .trappc | .trapva | .seed => true
  | _ => false

/-- Operators that XSCAN has (R403). -/
def XOp.hasScan : XOp → Bool
  | .and | .or | .xor => false
  | _ => true

/-- Well-formedness: the word rows satisfy R295 to R299; the other rows name units that exist (R11, R13, R254). -/
def Instr.wf : Instr → Bool
  | .iadd d a b => reg d && reg a && reg b
  | .iadd64 d a b => pr d && pr a && pr b
  | .iaddImm d a _ => reg d && reg a
  | .isub d a b => reg d && reg a && reg b
  | .isub64 d a b => pr d && pr a && pr b
  | .imul d a b => reg d && reg a && reg b
  | .imul64 d a b => pr d && pr a && pr b
  | .imulhS32 d a b => reg d && reg a && reg b
  | .imulhZ32 d a b => reg d && reg a && reg b
  | .imad d a b => reg d && reg a && reg b
  | .imad64 d a b => pr d && pr a && pr b
  | .idiv _ d a b => reg d && reg a && reg b
  | .irem _ d a b => reg d && reg a && reg b
  | .imin _ d a b => reg d && reg a && reg b
  | .imin64 _ d a b => pr d && pr a && pr b
  | .imax _ d a b => reg d && reg a && reg b
  | .imax64 _ d a b => pr d && pr a && pr b
  | .iabs d a => reg d && reg a
  | .iabs64 d a => pr d && pr a
  | .ineg d a => reg d && reg a
  | .ineg64 d a => pr d && pr a
  | .and d a b => reg d && reg a && reg b
  | .and64 d a b => pr d && pr a && pr b
  | .andn d a b => reg d && reg a && reg b
  | .andn64 d a b => pr d && pr a && pr b
  | .or d a b => reg d && reg a && reg b
  | .or64 d a b => pr d && pr a && pr b
  | .xor d a b => reg d && reg a && reg b
  | .xor64 d a b => pr d && pr a && pr b
  | .shl d a b => reg d && reg a && reg b
  | .shl64 d a b => pr d && pr a && reg b
  | .shr d a b => reg d && reg a && reg b
  | .shr64 d a b => pr d && pr a && reg b
  | .sar d a b => reg d && reg a && reg b
  | .sar64 d a b => pr d && pr a && reg b
  | .rot d a b => reg d && reg a && reg b
  | .rot64 d a b => pr d && pr a && reg b
  | .clz d a => reg d && reg a
  | .popc d a => reg d && reg a
  | .brev d a => reg d && reg a
  | .iset w _ p a b => decide (p < 16) && (if w = .w64 then pr a && pr b else reg a && reg b)
  | .isel n d a b => decide (n < 8) && reg d && reg a && reg b
  | .lea d a _ => pr d && pr a
  | .fadd d a b => reg d && reg a && reg b
  | .fsub d a b => reg d && reg a && reg b
  | .fmul d a b => reg d && reg a && reg b
  | .ffma d a b => reg d && reg a && reg b
  | .fmin d a b => reg d && reg a && reg b
  | .fmax d a b => reg d && reg a && reg b
  | .frcp d a => reg d && reg a
  | .frsq d a => reg d && reg a
  | .fsqrt d a => reg d && reg a
  | .fexp2 d a => reg d && reg a
  | .flog2 d a => reg d && reg a
  | .fsin d a => reg d && reg a
  | .fcos d a => reg d && reg a
  | .ftanh d a => reg d && reg a
  | .fcmp _ p a b => decide (p < 16) && reg a && reg b
  | .cvt dst src d a => cvtAdmits dst src && kreg dst d && kreg src a
  | .cvtd dst src _ d a => kreg dst d && kreg src a
  | .vaddInt _ d a b => reg d && reg a && reg b
  | .vsubInt _ d a b => reg d && reg a && reg b
  | .vmulInt _ d a b => reg d && reg a && reg b
  | .vminInt _ d a b => reg d && reg a && reg b
  | .vmaxInt _ d a b => reg d && reg a && reg b
  | .vdot4 d a b => reg d && reg a && reg b
  | .vaddFloat _ d a b => reg d && reg a && reg b
  | .vsubFloat _ d a b => reg d && reg a && reg b
  | .vmulFloat _ d a b => reg d && reg a && reg b
  | .vminFloat _ d a b => reg d && reg a && reg b
  | .vmaxFloat _ d a b => reg d && reg a && reg b
  | .vfma _ d a b => reg d && reg a && reg b
  | .vsel n d a b => decide (n < 8) && reg d && reg a && reg b
  | .vpack _ d a b => reg d && reg a && reg b
  | .vunpk _ d a b => reg d && reg a && reg b
  | .pand d a b => decide (d < 16) && decide (a < 16) && decide (b < 16)
  | .por d a b => decide (d < 16) && decide (a < 16) && decide (b < 16)
  | .pxor d a b => decide (d < 16) && decide (a < 16) && decide (b < 16)
  | .pnot d a => decide (d < 16) && decide (a < 16)
  | .pmovPred d a => decide (d < 16) && decide (a < 16)
  | .pmovFromV d v => decide (d < 16) && reg v
  | .pmovToV a v => decide (a < 16) && reg v
  | .ld k d b _ => (if k = .d64 then pr d else reg d) && pr b
  | .ldref d b _ => pr d && pr b
  | .st k s b _ => (if k = .b8 then pr s else reg s) && pr b
  | .stref s b _ => pr s && pr b
  | .lds k d b _ => (if k = .d64 then pr d else reg d) && reg b
  | .sts k s b _ => (if k = .b8 then pr s else reg s) && reg b
  | .ldpv w d b _ => wreg w d && reg b
  | .stpv w s b _ => wreg w s && reg b
  | .ldAcq w d a _ => wreg w d && pr a
  | .ldrefAcq d a _ => pr d && pr a
  | .stRel32 d a _ => reg d && pr a
  | .stRel64 d a _ => pr d && pr a
  | .strefRel d a _ => pr d && pr a
  | .ldsAcq w d a _ => wreg w d && reg a
  | .stsRel w d a _ => wreg w d && reg a
  | .atom op d a _ _ noret => atomReg op d && pr a && atomNoret op noret
  | .atoms op d a _ _ noret => atomsOp op && atomReg op d && pr a && atomNoret op noret
  | .kld n b _ => decide (n < 64) && pr b
  | .kst n b _ => decide (n < 64) && pr b
  | .oinit d a b => pr d && pr a && reg b
  | .launch d a q => reg d && pr a && decide (q < 16)
  | .pref a => pr a
  | .wbr a b => pr a && reg b
  | .invr a b => pr a && reg b
  | .cpt h k => decide (h < 16) && decide (k < 64)
  | .cps h k => decide (h < 16) && decide (k < 64)
  | .cpg h k a => decide (h < 16) && decide (k < 64) && reg a
  | .cpsc h k a => decide (h < 16) && decide (k < 64) && reg a
  | .cpb h k a => decide (h < 16) && decide (k < 64) && reg a
  | .cpz h k a => decide (h < 16) && decide (k < 64) && reg a
  | .cpr h k a => decide (h < 16) && decide (k < 64) && reg a
  | .mma h k z => decide (h < 16) && decide (k < 64) && decide (z < 4)
  | .mmas h k a z => decide (h < 16) && decide (k < 64) && reg a && decide (z < 4)
  | .mz h z => decide (h < 16) && decide (z < 4)
  | .mst h k z => decide (h < 16) && decide (k < 64) && decide (z < 4)
  | .mlda h k z => decide (h < 16) && decide (k < 64) && decide (z < 4)
  | .scacc h k p z => decide (h < 16) && decide (k < 64) && decide (p < 4) && decide (z < 4)
  | .scn h k => decide (h < 16) && decide (k < 64)
  | .scop h a s => decide (h < 16) && reg a && decide (s < 4)
  | .pub h sc a => decide (h < 16) && decide (sc ≠ .grp) && pr a
  | .hwait h => decide (h < 16)
  | .htest h p => decide (h < 16) && decide (p < 16)
  | .hcan h => decide (h < 16)
  | .hmov h s => decide (h < 16) && decide (s < 16)
  | .hst h a => decide (h < 16) && reg a
  | .hld h a => decide (h < 16) && reg a
  | .swarm a b => reg a && reg b
  | .swadd a b => reg a && reg b
  | .swait a b => reg a && reg b
  | .rjoin a => reg a
  | .brz a _ => reg a
  | .bnz a _ => reg a
  | .brp p _ => decide (p < 16)
  | .jmp _ => true
  | .call _ => true
  | .br a => pr a
  | .callReg a => pr a
  | .nop => true
  | .exit => true
  | .yield => true
  | .rsync => true
  | .rleave => true
  | .tret => true
  | .trap _ => true
  | .bkpt => true
  | .halt => true
  | .fence _ _ => true
  | .bar => true
  | .tmark a => reg a
  | .prio _ => true
  | .rep sd sa sb n => decide (sd < 4) && decide (sa < 4) && decide (sb < 4) && decide (n < 16384)
  | .repReg sd sa sb c => decide (sd < 4) && decide (sa < 4) && decide (sb < 4) && reg c
  | .winb b => decide (b < 512)
  | .ret => true
  | .waitc l s c t => decide (l < 64) && decide (s < 64) && decide (c < 64) && decide (t < 64)
  | .movi d _ => reg d
  | .movh d _ => reg d
  | .mov d a => reg d && reg a
  | .mov64 d a => pr d && pr a
  | .kmovFromK d n => pr d && decide (n < 64)
  | .kmovToK n a => decide (n < 64) && pr a
  | .srd d r => if r.is64 then pr d else reg d
  | .swr r a => r.writable && (if r.is64 then pr a else reg a)
  | .bfx _ d a b => reg d && reg a && reg b
  | .bfi d a b => reg d && reg a && reg b
  | .xshf w d a b => wreg w d && wreg w a && reg b
  | .xbal d p => reg d && decide (p < 16)
  | .xvote _ p a => decide (p < 16) && decide (a < 16)
  | .xidx d a => reg d && reg a
  | .xred _ d a => reg d && reg a
  | .xscan op d a => reg d && reg a && op.hasScan
  | .refresh p fn => decide (p < 4096) && decide (fn < 65)
  | .invalidate p fn => decide (p < 4096) && decide (fn < 65)
  | .invalidateDone p => decide (p < 4096)
  | .domainReset p fn => decide (p < 4096) && decide (fn < 65)
  | .loss p fn => decide (p < 4096) && decide (fn < 65)
  | .releaseLost p fn => decide (p < 4096) && decide (fn < 65)
  | .resolve p fn _ => decide (p < 4096) && decide (fn < 65)
  | .fqheadWrite p fn _ => decide (p < 4096) && decide (fn < 65)
  | .registerWrite p fn _ _ size _ => decide (p < 4096) && decide (fn < 66) && decide (size ∈ [1, 2, 4, 8])
  | .queueTailDoorbell p fn _ size _ => decide (p < 4096) && decide (fn < 65) && decide (size ∈ [1, 2, 4, 8])
  | .windowRead p fn _ size => decide (p < 4096) && decide (fn < 65) && decide (size ∈ [1, 2, 4, 8])
  | .windowWrite p fn _ size _ => decide (p < 4096) && decide (fn < 65) && decide (size ∈ [1, 2, 4, 8])
  | .debugHalt p fn => decide (p < 4096) && decide (fn < 66)
  | .haltRegion p fn => decide (p < 4096) && decide (fn < 65)
  | .resume p fn => decide (p < 4096) && decide (fn < 65)
  | .step p fn => decide (p < 4096) && decide (fn < 65)
  | .stepWaitEnd p fn => decide (p < 4096) && decide (fn < 65)
  | .readContext p fn => decide (p < 4096) && decide (fn < 66)
  | .writeContext p fn => decide (p < 4096) && decide (fn < 65)
  | .dump p fn => decide (p < 4096) && decide (fn < 66)
  | .dumpPage p fn => decide (p < 4096) && decide (fn < 66)
  | .attach p fn => decide (p < 4096) && decide (fn < 65)
  | .detach p fn => decide (p < 4096) && decide (fn < 65)
  | .groupStop _ => true
  | .breakpointSlotWrite p fn i w _ => decide (p < 4096) && decide (fn < 65) && decide (i < 64) && decide (w < 2)
  | .watchpointSlotWrite p fn i w _ => decide (p < 4096) && decide (fn < 65) && decide (i < 32) && decide (w < 4)
  | .tskWrite p fn _ => decide (p < 4096) && decide (fn < 65)
  | .trrdWrite p _ _ => decide (p < 4096)
  | .attestationRequest p _ _ => decide (p < 4096)
  | .attestationSigned p => decide (p < 4096)
  | .powerGood p => decide (p < 4096)
  | .imagePhaseEnd p _ _ _ _ _ _ => decide (p < 4096)
  | .repairPhaseEnd p f v => decide (p < 4096) && (f.all UnitFail.inPart) && decide (v.ids.length ≤ 8) &&
      v.repair.all (fun r => unitInPart r.kind r.unit) && v.trim.all (fun r => unitInPart r.kind r.unit)
  | .selftestEnd p fs => decide (p < 4096) && fs.all UnitFail.ofSelftest
  | .throttleRaise p _ _ => decide (p < 4096)
  | .throttleLower p _ _ => decide (p < 4096)
  | .holdoverEnter p => decide (p < 4096)
  | .holdoverLeave p => decide (p < 4096)
  | .ptpMessage p _ => decide (p < 4096)
  | .bundlingRound p c => decide (p < 4096) && decide (c < 384)
  | .priorityPromotion _ _ => true
  | .yieldDemotionEnd _ _ => true
  | .recordTake p _ q => decide (p < 4096) && decide (q < 16)
  | .dependenceRecheck p => decide (p < 4096)
  | .groupHandOut p => decide (p < 4096)
  | .saveDone _ => true
  | .groupPlace p die => decide (p < 4096) && decide (die < 8)
  | .clusterModeChange p c _ => decide (p < 4096) && decide (c < 48)
  | .drainEnd _ => true
  | .clusterReport p c _ => decide (p < 4096) && decide (c < 48)
  | .launchEnqueue _ => true
  | .faultPost p _ => decide (p < 4096)
  | .accessReplay _ _ => true
  | .engineFailureTrap _ _ => true
  | .translationWalkDone _ => true
  | .homeReadRequest _ => true
  | .ownershipRequest _ => true
  | .forwardedRead _ => true
  | .writeBackArrival _ => true
  | .atomicAtHome _ => true
  | .releaseCompletion p c => decide (p < 4096) && decide (c < 384)
  | .routerPowerDown p _ => decide (p < 4096)
  | .routerWake p _ => decide (p < 4096)
  | .climbingMiss _ => true
  | .pageMoveDone _ => true
  | .upgrade _ => true
  | .markArrival _ => true
  | .injectionOffer _ => true
  | .injectionConfirm _ => true
  | .holderReport p _ level => decide (p < 4096) && decide (level < 3)
  | .windowEnd p => decide (p < 4096)
  | .flitReceive p port _ => decide (p < 4096) && decide (port < 24)
  | .linkReplayRequest p port _ => decide (p < 4096) && decide (port < 24)
  | .ackCreditReturn p port _ _ => decide (p < 4096) && decide (port < 24)
  | .windowAuditSend p port => decide (p < 4096) && decide (port < 24)
  | .windowAuditReceive p port _ => decide (p < 4096) && decide (port < 24)
  | .copyArrival _ => true
  | .copyComplete _ => true
  | .kBlockDone _ => true
  | .matrixComplete _ => true
  | .scanStart _ => true
  | .carryArrival _ => true
  | .scanComplete _ => true
  | .walkStart p die => decide (p < 4096) && decide (die < 8)
  | .walkComplete _ => true
  | .timeseriesTick p => decide (p < 4096)
  | .objectMark _ => true
  | .accessCompletion _ => true
  | .powerLoss p => decide (p < 4096)
  | .softError p _ => decide (p < 4096)
  | .scrub p _ => decide (p < 4096)
  | .linkFailure p port => decide (p < 4096) && decide (port < 24)
  | .linkTrainingDone p port _ => decide (p < 4096) && decide (port < 24)

end Sys2Proof
end

