-- ==== Sys2Proof/Machine/Fp.lean ====
section
/-! DEFINITION. Floating point and conversions, computed exactly and rounded once (R92 to R113, R324 to R336). -/

namespace Sys2Proof.Machine

/-- How a kind treats its top exponent (R95): infinities and NaN, NaN only, or neither. -/
inductive Special where | ieee | nanOnly | none
  deriving DecidableEq, Repr

/-- A floating-point kind of R95: exponent bits, mantissa bits, bias, specials. -/
structure Fmt where
  e : Nat
  m : Nat
  bias : Nat
  sp : Special
  deriving DecidableEq, Repr

/-- The table of R95. -/
def Fmt.of : Kind → Option Fmt
  | .f32 => some ⟨8, 23, 127, .ieee⟩
  | .f16 => some ⟨5, 10, 15, .ieee⟩
  | .bf16 => some ⟨8, 7, 127, .ieee⟩
  | .e4m3 => some ⟨4, 3, 7, .nanOnly⟩
  | .e5m2 => some ⟨5, 2, 15, .ieee⟩
  | .e2m3 => some ⟨2, 3, 1, .none⟩
  | .e3m2 => some ⟨3, 2, 3, .none⟩
  | .e2m1 => some ⟨2, 1, 1, .none⟩
  | _ => none

/-- FP32 (R95). -/
def fmt32 : Fmt := ⟨8, 23, 127, .ieee⟩

/-- The value of an encoding: NaN (signalling or not), an infinity, or (-1)^neg × m × 2^e exactly. -/
inductive FVal where
  | nan (signalling : Bool)
  | inf (neg : Bool)
  | fin (neg : Bool) (m : Nat) (e : Int)
  deriving DecidableEq, Repr

/-- A result with its flags: bit 0 IV, 1 DZ, 2 OF, 3 UF, 4 NX (R107). -/
structure FRes where
  bits : Nat
  flags : Nat
  deriving DecidableEq, Repr

def flagIV : Nat := 1
def flagDZ : Nat := 2
def flagOF : Nat := 4
def flagUF : Nat := 8
def flagNX : Nat := 16

/-- The exponent of the smallest normal, 1 - bias (R95). -/
def Fmt.emin (f : Fmt) : Int := 1 - (f.bias : Int)

/-- The sign bit of a kind. -/
def Fmt.signBit (f : Fmt) (neg : Bool) : Nat := if neg then 2 ^ (f.e + f.m) else 0

/-- The encoding of infinity of a sign. -/
def Fmt.infBits (f : Fmt) (neg : Bool) : Nat := f.signBit neg + (2 ^ f.e - 1) * 2 ^ f.m

/-- The canonical NaN of R95; kinds without NaN give +0 (R106). -/
def Fmt.nanBits (f : Fmt) : Nat :=
  match f.sp with
  | .ieee => (2 ^ f.e - 1) * 2 ^ f.m + 2 ^ (f.m - 1)
  | .nanOnly => 2 ^ (f.e + f.m) - 1
  | .none => 0

/-- The largest finite encoding of R95, without its sign. -/
def Fmt.maxBits (f : Fmt) : Nat :=
  match f.sp with
  | .ieee => (2 ^ f.e - 1) * 2 ^ f.m - 1
  | .nanOnly => 2 ^ (f.e + f.m) - 2
  | .none => 2 ^ (f.e + f.m) - 1

/-- The value of an encoding (R95, R96). -/
def Fmt.decode (f : Fmt) (x : Nat) : FVal :=
  let m := x % 2 ^ f.m
  let e := x / 2 ^ f.m % 2 ^ f.e
  let neg := decide (x / 2 ^ (f.e + f.m) % 2 = 1)
  if e = 2 ^ f.e - 1 && f.sp = .ieee then
    if m = 0 then .inf neg else .nan (decide (m < 2 ^ (f.m - 1)))
  else if e = 2 ^ f.e - 1 && m = 2 ^ f.m - 1 && f.sp = .nanOnly then .nan false
  else if e = 0 then .fin neg m (f.emin - f.m)
  else .fin neg (2 ^ f.m + m) ((e : Int) - f.bias - f.m)

/-- The kinds FTZ acts on: FP32, FP16, BF16 (R103). -/
def Fmt.flushes (f : Fmt) : Bool := decide (f.sp = .ieee) && decide (7 ≤ f.m)

/-- Reading an input under FTZ: a subnormal reads as a zero of its sign (R103). -/
def Fmt.read (f : Fmt) (ftz : Bool) (x : Nat) : FVal :=
  match f.decode x with
  | .fin neg m e => if ftz && f.flushes && decide (m < 2 ^ f.m) then .fin neg 0 e else .fin neg m e
  | v => v

/-- The rounding mode of every instruction that is no down-conversion: 4 acts as 0 (R100). -/
def rmOf (fmode : Nat) : Nat := if fmode % 8 = 4 then 0 else fmode % 8

/-- FTZ of FMODE (R99). -/
def ftzOf (fmode : Nat) : Bool := decide (fmode / 8 % 2 = 1)

/-- Round m × 2^e (plus something positive below 2^e when `sticky`) to a multiple n × 2^q: n and whether it is inexact.
Modes as RM of R99; mode 4 is the stochastic rounding of R101 with its draw. -/
def roundGrid (neg : Bool) (m : Nat) (e : Int) (sticky : Bool) (q : Int) (mode draw : Nat) : Nat × Bool :=
  if q ≤ e then (m * 2 ^ (e - q).toNat, sticky)
  else
    let k := (q - e).toNat
    let n := m / 2 ^ k
    let r := m % 2 ^ k
    let inexact := decide (r ≠ 0) || sticky
    let half := 2 ^ (k - 1)
    let up :=
      match mode with
      | 1 => false
      | 2 => inexact && neg
      | 3 => inexact && !neg
      | 4 => decide (draw < r * 2 ^ 32 / 2 ^ k)
      | _ => decide (half < r) || (decide (r = half) && (sticky || decide (n % 2 = 1)))
    (if up then n + 1 else n, inexact)

/-- The grid of a kind at a magnitude: M bits below the leading one, not below the subnormal grid (R100). -/
def Fmt.grid (f : Fmt) (m : Nat) (e : Int) : Int := max (e + (Nat.log2 m : Int) - f.m) (f.emin - f.m)

/-- The encoding of n × 2^q, a value of the kind's grid that does not overflow. -/
def Fmt.encode (f : Fmt) (neg : Bool) (n : Nat) (q : Int) : Nat :=
  if n = 0 then f.signBit neg
  else
    let n' := if 2 ^ (f.m + 1) ≤ n then n / 2 else n
    let q' := if 2 ^ (f.m + 1) ≤ n then q + 1 else q
    if n' < 2 ^ f.m then f.signBit neg + n'
    else f.signBit neg + (q' + f.m + f.bias).toNat * 2 ^ f.m + (n' - 2 ^ f.m)

/-- m × 2^e is below 2^k. -/
def belowPow (m : Nat) (e k : Int) : Bool := decide (m = 0) || decide (e + (Nat.log2 m : Int) < k)

/-- The largest finite value, as (m, e) (R95). -/
def Fmt.maxVal (f : Fmt) : Nat × Int :=
  match f.decode f.maxBits with
  | .fin _ m e => (m, e)
  | _ => (0, 0)

/-- n × 2^q exceeds the largest finite value (R104). -/
def Fmt.over (f : Fmt) (n : Nat) (q : Int) : Bool :=
  let (m, e) := f.maxVal
  if q ≤ e then decide (m * 2 ^ (e - q).toNat < n) else decide (m < n * 2 ^ (q - e).toNat)

/-- The overflow of an arithmetic form, by its rounding mode (R331). -/
def Fmt.overflow (f : Fmt) (neg : Bool) (mode : Nat) : FRes :=
  let toInf := match mode with | 1 => false | 2 => neg | 3 => !neg | _ => true
  ⟨if toInf && f.sp = .ieee then f.infBits neg else f.signBit neg + f.maxBits, flagOF + flagNX⟩

/-- `round_to` of R8 on (-1)^neg × (m × 2^e + sticky), m ≠ 0: rounded once, overflow by R331, UF by R107, FTZ by R103. -/
def Fmt.roundTo (f : Fmt) (ftz : Bool) (mode : Nat) (neg : Bool) (m : Nat) (e : Int) (sticky : Bool) : FRes :=
  if m = 0 then ⟨f.signBit neg, 0⟩
  else
    let q := f.grid m e
    let (n, inexact) := roundGrid neg m e sticky q mode 0
    if f.over n q then f.overflow neg mode
    else if ftz && f.flushes && decide (n ≠ 0) && decide (n < 2 ^ f.m) then ⟨f.signBit neg, flagUF + flagNX⟩
    else ⟨f.encode neg n q, if inexact then flagNX + (if belowPow m e f.emin then flagUF else 0) else 0⟩

/-- A signed dyadic: num × 2^e. -/
structure Dy where
  num : Int
  e : Int
  deriving DecidableEq, Repr

def Dy.ofFin (neg : Bool) (m : Nat) (e : Int) : Dy := ⟨if neg then -(m : Int) else m, e⟩

/-- The exact sum of two dyadics. -/
def Dy.add (x y : Dy) : Dy :=
  let q := min x.e y.e
  ⟨x.num * 2 ^ (x.e - q).toNat + y.num * 2 ^ (y.e - q).toNat, q⟩

/-- The sign of an exact zero sum (R96): all addends zeros of one sign keep it, otherwise +0 but -0 toward minus infinity. -/
def zeroSumNeg (allNeg allPos : Bool) (mode : Nat) : Bool :=
  if allNeg then true else if allPos then false else decide (mode = 2)

/-- Round an exact sum; `an`, `ap`: every addend is a zero of sign minus, of sign plus. -/
def Fmt.roundSum (f : Fmt) (ftz : Bool) (mode : Nat) (x : Dy) (an ap : Bool) : FRes :=
  if x.num = 0 then ⟨f.signBit (zeroSumNeg an ap mode), 0⟩
  else f.roundTo ftz mode (decide (x.num < 0)) x.num.natAbs x.e false

/-- Some input is a signalling NaN. -/
def FVal.snan : FVal → Bool | .nan s => s | _ => false
def FVal.isNan : FVal → Bool | .nan _ => true | _ => false

/-- a + b, rounded once (R331). -/
def Fmt.add (f : Fmt) (ftz : Bool) (mode : Nat) (a b : FVal) : FRes :=
  let iv := if a.snan || b.snan then flagIV else 0
  match a, b with
  | .nan _, _ => ⟨f.nanBits, iv⟩
  | _, .nan _ => ⟨f.nanBits, iv⟩
  | .inf x, .inf y => if x = y then ⟨f.infBits x, 0⟩ else ⟨f.nanBits, flagIV⟩
  | .inf x, .fin .. => ⟨f.infBits x, 0⟩
  | .fin .., .inf y => ⟨f.infBits y, 0⟩
  | .fin na ma ea, .fin nb mb eb =>
    f.roundSum ftz mode (Dy.add (Dy.ofFin na ma ea) (Dy.ofFin nb mb eb)) (decide (ma = 0) && decide (mb = 0) && na && nb)
      (decide (ma = 0) && decide (mb = 0) && !na && !nb)

/-- The opposite of a value. -/
def FVal.neg : FVal → FVal
  | .inf x => .inf (!x)
  | .fin n m e => .fin (!n) m e
  | v => v

/-- The exact product of two values; `none` for 0 × ∞ (R107). -/
def FVal.mul (a b : FVal) : Option FVal :=
  match a, b with
  | .nan x, .nan y => some (.nan (x || y))
  | .nan x, _ => some (.nan x)
  | _, .nan y => some (.nan y)
  | .inf x, .inf y => some (.inf (xor x y))
  | .inf x, .fin y m _ => if m = 0 then none else some (.inf (xor x y))
  | .fin x m _, .inf y => if m = 0 then none else some (.inf (xor x y))
  | .fin x m e, .fin y n g => some (.fin (xor x y) (m * n) (e + g))

/-- a × b, rounded once (R331). -/
def Fmt.mul (f : Fmt) (ftz : Bool) (mode : Nat) (a b : FVal) : FRes :=
  match FVal.mul a b with
  | none => ⟨f.nanBits, flagIV⟩
  | some (.nan _) => ⟨f.nanBits, if a.snan || b.snan then flagIV else 0⟩
  | some (.inf x) => ⟨f.infBits x, 0⟩
  | some (.fin n m e) => f.roundTo ftz mode n m e false

/-- a × b + c, exact and rounded once; 0 × ∞ is invalid even with a NaN addend (R331). -/
def Fmt.fma (f : Fmt) (ftz : Bool) (mode : Nat) (a b c : FVal) : FRes :=
  let iv := if a.snan || b.snan || c.snan then flagIV else 0
  match FVal.mul a b with
  | none => ⟨f.nanBits, flagIV⟩
  | some p => if p.isNan || c.isNan then ⟨f.nanBits, iv⟩ else f.add ftz mode p c

/-- Is a below b, with -0 below +0 (R332)? -/
def FVal.ltTotal (a b : FVal) : Bool :=
  match a, b with
  | .inf x, .inf y => x && !y
  | .inf x, _ => x
  | _, .inf y => !y
  | .fin na ma ea, .fin nb mb eb =>
    let d := (Dy.add (Dy.ofFin na ma ea) (Dy.ofFin (!nb) mb eb)).num
    decide (d < 0) || (decide (d = 0) && decide (ma = 0) && na && !nb)
  | _, _ => false

/-- The encoding of a value already on the kind's grid. -/
def Fmt.exact (f : Fmt) (v : FVal) : Nat :=
  match v with
  | .nan _ => f.nanBits
  | .inf x => f.infBits x
  | .fin n m e => (f.roundTo false 1 n m e false).bits

/-- FMIN and FMAX (R332). -/
def Fmt.minMax (f : Fmt) (isMax : Bool) (a b : FVal) : FRes :=
  if a.isNan || b.isNan then ⟨f.nanBits, if a.snan || b.snan then flagIV else 0⟩
  else ⟨f.exact (if isMax then (if a.ltTotal b then b else a) else (if b.ltTotal a then b else a)), 0⟩

/-- The comparisons of FCMP (R333): the truth of the condition and the flags. -/
def fcompare (c : FCmp) (a b : FVal) : Bool × Nat :=
  let nan := a.isNan || b.isNan
  let iv := if a.snan || b.snan then flagIV else 0
  let eq := !nan && !a.ltTotal b && !b.ltTotal a
  let zeros := match a, b with | .fin _ 0 _, .fin _ 0 _ => true | _, _ => false
  match c with
  | .eq => (!nan && (eq || zeros), iv)
  | .ne => (nan || !(eq || zeros), iv)
  | .lt => (!nan && a.ltTotal b && !zeros, if nan then flagIV else 0)
  | .le => (!nan && (a.ltTotal b || eq || zeros), if nan then flagIV else 0)
  | .un => (nan, iv)

/-- Integer square root, bit by bit from bit `k`. -/
def isqrtFrom : Nat → Nat → Nat → Nat
  | 0, _, r => r
  | k + 1, n, r =>
    let t := r + 2 ^ k
    isqrtFrom k n (if t * t ≤ n then t else r)

/-- The floor of the square root. -/
def isqrt (n : Nat) : Nat := isqrtFrom (Nat.log2 n / 2 + 1) n 0

/-- 1 / x, correctly rounded (R334, R335). -/
def frcp (ftz : Bool) (mode : Nat) (x : FVal) : FRes :=
  match x with
  | .nan s => ⟨fmt32.nanBits, if s then flagIV else 0⟩
  | .inf n => ⟨fmt32.signBit n, 0⟩
  | .fin n m e =>
    if m = 0 then ⟨fmt32.infBits n, flagDZ⟩
    else
      let k := Nat.log2 m + 30
      fmt32.roundTo ftz mode n (2 ^ k / m) (-(k : Int) - e) (decide (2 ^ k % m ≠ 0))

/-- The square root, correctly rounded (R334, R335). -/
def fsqrt (ftz : Bool) (mode : Nat) (x : FVal) : FRes :=
  match x with
  | .nan s => ⟨fmt32.nanBits, if s then flagIV else 0⟩
  | .inf n => if n then ⟨fmt32.nanBits, flagIV⟩ else ⟨fmt32.infBits false, 0⟩
  | .fin n m e =>
    if m = 0 then ⟨fmt32.signBit n, 0⟩
    else if n then ⟨fmt32.nanBits, flagIV⟩
    else
      let odd := decide (e % 2 ≠ 0)
      let m' := (if odd then 2 * m else m) * 2 ^ 64
      let e' := (if odd then e - 1 else e) - 64
      let r := isqrt m'
      fmt32.roundTo ftz mode false r (e' / 2) (decide (r * r ≠ m'))

/-- Fixed-point precision of the approximations below: 2^-fx. -/
def fx : Nat := 160

/-- ln 2 in fixed point, as the sum of 1 / (k 2^k). -/
def ln2Sum : Nat → Nat
  | 0 => 0
  | k + 1 => 2 ^ fx / ((k + 1) * 2 ^ (k + 1)) + ln2Sum k

/-- exp of a fixed-point y in [0, 1): the Taylor sum from term k, t the term. -/
def expSum : Nat → Nat → Nat → Nat → Nat
  | 0, _, _, _ => 0
  | n + 1, y, k, t => t + expSum n y (k + 1) (t * y / 2 ^ fx / (k + 1))

/-- e^y for a fixed-point y in [0, 1). -/
def expFx (y : Nat) : Nat := expSum 48 y 0 (2 ^ fx)

/-- 2^f for a fixed-point f in [0, 1). -/
def exp2Fx (f : Nat) : Nat := expFx (f * ln2Sum 170 / 2 ^ fx)

/-- The next bits of log2 of z in [1, 2), by repeated squaring. -/
def log2Bits : Nat → Nat → Nat → Nat
  | 0, _, r => r
  | n + 1, z, r =>
    let s := z * z / 2 ^ fx
    if 2 ^ (fx + 1) ≤ s then log2Bits n (s / 2) (2 * r + 1) else log2Bits n s (2 * r)

/-- sin or cos of a fixed-point angle below 2π: the alternating sum from term k. -/
def sinSum : Nat → Nat → Nat → Int → Int
  | 0, _, _, _ => 0
  | n + 1, y2, k, t => t + sinSum n y2 (k + 2) (-(t * y2 / 2 ^ fx / ((k + 1) * (k + 2))))

/-- A 128-bit value of π (R336): its leading 128 bits, over 2^126 (PRESUMED, log entry 7). -/
def pi128 : Nat := 0xC90FDAA22168C234C4C6628B80DC1CD1

/-- |x| reduced modulo 2π in fixed point, with the 128-bit π (R336). -/
def reduceAngle (m : Nat) (e : Int) : Nat :=
  let c := 2 * pi128
  if -126 ≤ e then m * 2 ^ (e + 126).toNat % c * 2 ^ (fx - 126)
  else m * 2 ^ fx / 2 ^ (-e).toNat % (c * 2 ^ (fx - 126))

/-- The computed value of an approximated form at a positive or signed finite argument, as a dyadic close to the exact
result, far within the bounds of R336. Arguments that R335 or the exact cases decide do not reach it. -/
def approx (fn : SpecialFn) (n : Bool) (m : Nat) (e : Int) : Dy :=
  match fn with
  | .frsq =>
    let odd := decide (e % 2 ≠ 0)
    let m' := if odd then 2 * m else m
    let e' := if odd then e - 1 else e
    ⟨isqrt (2 ^ 128 / m'), -64 - e' / 2⟩
  | .fexp2 =>
    let y : Int := if 0 ≤ e then m * 2 ^ (e + fx).toNat else ((m * 2 ^ fx / 2 ^ (-e).toNat : Nat) : Int)
    let y := if n then -y else y
    let i := y / 2 ^ fx
    ⟨exp2Fx (y - i * 2 ^ fx).toNat, i - fx⟩
  | .flog2 =>
    let l := Nat.log2 m
    ⟨(e + l) * 2 ^ 60 + log2Bits 60 (m * 2 ^ (fx - l)) 0, -60⟩
  | .fsin => let y := reduceAngle m e; ⟨(if n then -1 else 1) * sinSum 40 (y * y / 2 ^ fx) 1 y, -(fx : Int)⟩
  | .fcos => let y := reduceAngle m e; ⟨sinSum 40 (y * y / 2 ^ fx) 0 (2 ^ fx), -(fx : Int)⟩
  | .ftanh =>
    let y := if 0 ≤ e then m * 2 ^ (e.toNat + fx + 1) else m * 2 ^ (fx + 1) / 2 ^ (-e).toNat
    let q := y * 2 ^ fx / ln2Sum 170
    let i := q / 2 ^ fx
    let p := exp2Fx (q % 2 ^ fx) * 2 ^ i
    let t := (p - 2 ^ fx) * 2 ^ fx / (p + 2 ^ fx)
    ⟨if n then -(t : Int) else t, -(fx : Int)⟩

/-- |x - y| ≤ b × 2^q / 256. -/
def Dy.within (x y : Dy) (b : Nat) (q : Int) : Bool :=
  let d := Dy.add x ⟨-y.num, y.e⟩
  let g := min d.e (q - 8)
  decide (d.num.natAbs * 2 ^ (d.e - g).toNat ≤ b * 2 ^ (q - 8 - g).toNat)

/-- Is a candidate within the bound of R336 on the form, given the computed value? -/
def specialOk (fn : SpecialFn) (x : FVal) (a : Dy) (c : FVal) : Bool :=
  match c with
  | .fin cn cm ce =>
    let c := Dy.ofFin cn cm ce
    let q := fmt32.grid a.num.natAbs a.e
    let le1 := Dy.within c ⟨0, 0⟩ 256 0
    match fn with
    | .frsq =>
      let lo := a.num.natAbs / 2 ^ (q - a.e).toNat
      decide (c.num = lo * 2 ^ (q - c.e).toNat ∧ c.e ≤ q) || decide (c.num = (lo + 1) * 2 ^ (q - c.e).toNat ∧ c.e ≤ q)
    | .fexp2 => Dy.within c a 511 q && !cn
    | .flog2 =>
      let near := match x with
        | .fin _ m e => Dy.within (Dy.ofFin false m e) ⟨5, -2⟩ 192 0 && decide (0 < m)
        | _ => false
      if near then Dy.within c a 255 (-22) else Dy.within c a 511 q
    | .fsin | .fcos => Dy.within c a 255 (-21) && le1
    | .ftanh => Dy.within c a 511 q && le1
  | _ => false

/-- A power of two: (its exponent), for m × 2^e. -/
def powTwo (m : Nat) (e : Int) : Option Int := if m = 2 ^ Nat.log2 m then some (e + Nat.log2 m) else none

/-- The exact result of an approximated form is non-zero and below 2^−126 (R107): sin x and tanh x lie nearer to 0 than x, so at
x = ±2^−126 too; of the others the computed value tells. -/
def tinyResult (fn : SpecialFn) (m : Nat) (e : Int) (a : Dy) : Bool :=
  match fn with
  | .fsin | .ftanh => belowPow m e fmt32.emin || decide (powTwo m e = some fmt32.emin)
  | _ => decide (a.num ≠ 0) && belowPow a.num.natAbs a.e fmt32.emin

/-- The value of an approximated form where R335 and the exact cases leave it to the bound: the free candidate of Config
when it is within the bound, the computed value rounded to nearest otherwise; NX always, UF by R107, FTZ by R103. -/
def specialApprox (fn : SpecialFn) (ftz : Bool) (raw : Word) (x : FVal) : FRes :=
  match x with
  | .fin n m e =>
    let a := approx fn n m e
    let r := fmt32.roundSum false 0 a false true
    let r := if fmt32.decode r.bits = .inf false then fmt32.maxBits else r.bits
    let c := Config.special fn ftz raw
    let v := if specialOk fn x a (fmt32.decode c.toNat) then c.toNat else r
    let tiny := tinyResult fn m e a
    if ftz && decide (v % 2 ^ 31 ≠ 0) && decide (v % 2 ^ 31 < 2 ^ 23) then
      ⟨v / 2 ^ 31 * 2 ^ 31, flagUF + flagNX⟩
    else ⟨v, flagNX + (if tiny then flagUF else 0)⟩
  | _ => ⟨fmt32.nanBits, 0⟩

/-- 2^k as an FP32 result, exact (R336), under FTZ by R103. -/
def exp2Exact (ftz : Bool) (k : Int) : FRes := fmt32.roundTo ftz 0 false 1 k false

/-- The integer n as an FP32 result. -/
def intExact (n : Int) : FRes := fmt32.roundTo false 0 (decide (n < 0)) n.natAbs 0 false

/-- m × 2^e ≥ k. -/
def geNat (m : Nat) (e : Int) (k : Nat) : Bool :=
  if 0 ≤ e then decide (k ≤ m * 2 ^ e.toNat) else decide (k * 2 ^ (-e).toNat ≤ m)

/-- The six approximated forms (R334 to R336) on an encoding already read under FTZ. -/
def special (fn : SpecialFn) (ftz : Bool) (raw : Word) (x : FVal) : FRes :=
  let nan : FRes := ⟨fmt32.nanBits, flagIV⟩
  match x with
  | .nan s => ⟨fmt32.nanBits, if s then flagIV else 0⟩
  | .inf n =>
    match fn with
    | .frsq => if n then nan else ⟨0, 0⟩
    | .fexp2 => if n then ⟨0, 0⟩ else ⟨fmt32.infBits false, 0⟩
    | .flog2 => if n then nan else ⟨fmt32.infBits false, 0⟩
    | .fsin | .fcos => nan
    | .ftanh => ⟨fmt32.signBit n + 127 * 2 ^ 23, 0⟩
  | .fin n m e =>
    if m = 0 then
      match fn with
      | .frsq => ⟨fmt32.infBits n, flagDZ⟩
      | .fexp2 | .fcos => ⟨127 * 2 ^ 23, 0⟩
      | .flog2 => ⟨fmt32.infBits true, flagDZ⟩
      | .fsin | .ftanh => ⟨fmt32.signBit n, 0⟩
    else
      match fn with
      | .frsq =>
        if n then nan
        else match powTwo m e with
          | some k => if k % 2 = 0 then exp2Exact ftz (-(k / 2)) else specialApprox fn ftz raw x
          | none => specialApprox fn ftz raw x
      | .fexp2 =>
        if !n && geNat m e 128 then ⟨fmt32.infBits false, flagOF + flagNX⟩
        else if n && geNat m e 150 && !decide (powTwo m e = none ∧ m = 150 * 2 ^ (-e).toNat) then
          ⟨0, flagUF + flagNX⟩
        else
          let i : Int := if 0 ≤ e then m * 2 ^ e.toNat else (m / 2 ^ (-e).toNat : Nat)
          let whole := decide (0 ≤ e) || decide (m % 2 ^ (-e).toNat = 0)
          let i := if n then -i else i
          if whole && decide (-149 ≤ i) then exp2Exact ftz i else specialApprox fn ftz raw x
      | .flog2 =>
        if n then nan
        else match powTwo m e with
          | some k => intExact k
          | none => specialApprox fn ftz raw x
      | .fsin | .fcos => specialApprox fn ftz raw x
      | .ftanh =>
        if geNat (m * 2) e 19 then ⟨fmt32.signBit n + 127 * 2 ^ 23, flagNX⟩
        else if belowPow m e (-12) then
          ⟨raw.toNat, flagNX + (if tinyResult .ftanh m e ⟨0, 0⟩ then flagUF else 0)⟩
        else specialApprox fn ftz raw x

/-- The class of a kind as an integer: signed with a width, unsigned with a width, or none (R92, R97). -/
def kindRange : Kind → Option (Int × Int)
  | .s8 | .b8 => some (-128, 127)
  | .s16 => some (-32768, 32767)
  | .s32 => some (-2147483648, 2147483647)
  | .s64 => some (-9223372036854775808, 9223372036854775807)
  | .z8 => some (0, 255)
  | .z16 => some (0, 65535)
  | .z32 => some (0, 4294967295)
  | .z64 => some (0, 18446744073709551615)
  | .b2 => some (-2, 1)
  | .b3 => some (-4, 3)
  | .b4 => some (-8, 7)
  | .b5 => some (-16, 15)
  | .b6 => some (-32, 31)
  | .b7 => some (-64, 63)
  | _ => none

/-- The value of the low bits of x as a kind (R324), FTZ on F32, F16 and BF16 inputs (R103). -/
def kindRead (k : Kind) (ftz : Bool) (x : Nat) : FVal :=
  let w := k.width
  let x := x % 2 ^ w
  match Fmt.of k, kindRange k with
  | some f, _ => f.read ftz x
  | none, some (lo, _) =>
    let v : Int := if lo < 0 && 2 ^ (w - 1) ≤ x then (x : Int) - 2 ^ w else x
    .fin (decide (v < 0)) v.natAbs 0
  | none, none => .fin false 0 0

/-- The overflow result of R105 for a floating target, by policy. -/
def Fmt.policyBits (f : Fmt) (pol : Policy) (neg : Bool) : Nat :=
  match pol, f.sp with
  | .inf, .ieee => f.infBits neg
  | .nan, .ieee | .nan, .nanOnly => f.nanBits
  | _, _ => f.signBit neg + f.maxBits

/-- A conversion's outcome: the encoding with its flags, or the arithmetic trap of policy 11 (R105). -/
inductive ConvRes where
  | ok (r : FRes)
  | trap
  deriving DecidableEq, Repr

/-- A conversion of R104 to R106 and R327 with rounding mode, draw and policy: `x` the source value. -/
def convert (dst : Kind) (pol : Policy) (ftz : Bool) (mode draw : Nat) (x : FVal) : ConvRes :=
  match Fmt.of dst, kindRange dst with
  | some f, _ =>
    match x with
    | .nan s =>
      if f.sp = .none then .ok ⟨0, flagIV⟩ else .ok ⟨f.nanBits, if s then flagIV else 0⟩
    | .inf n =>
      if f.sp = .ieee then .ok ⟨f.infBits n, 0⟩
      else if pol = .trap then .trap else .ok ⟨f.policyBits pol n, flagOF + flagNX⟩
    | .fin n m e =>
      if m = 0 then .ok ⟨f.signBit n, 0⟩
      else
        let q := f.grid m e
        let (k, inexact) := roundGrid n m e false q mode draw
        if f.over k q then (if pol = .trap then .trap else .ok ⟨f.policyBits pol n, flagOF + flagNX⟩)
        else if ftz && f.flushes && decide (k ≠ 0) && decide (k < 2 ^ f.m) then .ok ⟨f.signBit n, flagUF + flagNX⟩
        else .ok ⟨f.encode n k q, if inexact then flagNX + (if belowPow m e f.emin then flagUF else 0) else 0⟩
  | none, some (lo, hi) =>
    let enc (v : Int) : Nat := (v % 2 ^ dst.width).toNat
    match x with
    | .nan _ => .ok ⟨0, flagIV⟩
    | .inf n => if pol = .trap then .trap else .ok ⟨enc (if n then lo else hi), flagOF + flagNX⟩
    | .fin n m e =>
      let (k, inexact) := roundGrid n m e false 0 mode draw
      let v : Int := if n then -(k : Int) else k
      if v < lo || hi < v then
        (if pol = .trap then .trap else .ok ⟨enc (if n then lo else hi), flagOF + flagNX⟩)
      else .ok ⟨enc v, if inexact then flagNX else 0⟩
  | none, none => .ok ⟨0, 0⟩

/-- A conversion result laid out in a register or pair (R324): S8, S16 and Bb extended by sign to 32 bits. -/
def kindLayout (k : Kind) (bits : Nat) : DWord :=
  match kindRange k with
  | some (lo, _) =>
    if lo < 0 && k.width < 32 && decide (2 ^ (k.width - 1) ≤ bits) then
      BitVec.ofNat 64 (bits + (2 ^ 32 - 2 ^ k.width))
    else BitVec.ofNat 64 bits
  | none => BitVec.ofNat 64 bits

/-- The draw d(j) of R102. -/
def drawOf (seed : Word) (j : Nat) : Word :=
  let x := seed + BitVec.ofNat 32 (j * 0x9E3779B9)
  let x := x ^^^ (x >>> 16)
  let x := x * 0x85EBCA6B#32
  let x := x ^^^ (x >>> 13)
  let x := x * 0xC2B2AE35#32
  x ^^^ (x >>> 16)

/-- SEED after an operation of n positions (R102). -/
def seedAfter (seed : Word) (n : Nat) : Word := seed + BitVec.ofNat 32 (n * 0x9E3779B9)

/-- CVT (R326): exact but for NaN and FTZ. -/
def cvtRes (dst src : Kind) (ftz : Bool) (x : Nat) : FRes :=
  match convert dst .sat ftz 0 0 (kindRead src ftz x) with
  | .ok r => r
  | .trap => ⟨0, 0⟩

end Sys2Proof.Machine
end

