-- ==== Sys2Proof/Machine/SMap.lean ====
section
/-! DEFINITION. Sparse data by number: a list of (key, value) pairs in ONE canonical form (keys strictly rising, no entry
equal to what an unlisted key reads as). Memory, registers, scratchpads and tables of the Yalxus are held so. -/

namespace Sys2Proof.Machine

/-- A sparse map: (key, value) pairs, keys strictly rising. -/
abbrev SMap (V : Type) := List (Nat × V)

/-- The value at a key, if one is listed. -/
def SMap.find? {V : Type} : SMap V → Nat → Option V
  | [], _ => none
  | (k, v) :: m, j => if j = k then some v else SMap.find? m j

/-- The value at a key; an unlisted key reads as `d`. -/
def SMap.get {V : Type} (m : SMap V) (d : V) (j : Nat) : V :=
  match SMap.find? m j with
  | some v => v
  | none => d

/-- List a value at a key, in order. -/
def SMap.put {V : Type} : SMap V → Nat → V → SMap V
  | [], j, v => [(j, v)]
  | (k, w) :: m, j, v =>
    if j = k then (j, v) :: m else if j < k then (j, v) :: (k, w) :: m else (k, w) :: SMap.put m j v

/-- Unlist a key. -/
def SMap.del {V : Type} : SMap V → Nat → SMap V
  | [], _ => []
  | (k, w) :: m, j => if j = k then SMap.del m j else (k, w) :: SMap.del m j

/-- Write a value at a key where unlisted keys read as `d`: writing `d` unlists the key. -/
def SMap.set {V : Type} [DecidableEq V] (m : SMap V) (d : V) (j : Nat) (v : V) : SMap V :=
  if v = d then SMap.del m j else SMap.put m j v

/-- Change the value at a listed key. -/
def SMap.modify {V : Type} : SMap V → Nat → (V → V) → SMap V
  | [], _, _ => []
  | (k, w) :: m, j, f => if j = k then (k, f w) :: m else (k, w) :: SMap.modify m j f

/-- Every key is above `lo` and the keys rise strictly. -/
def SMap.sortedFrom {V : Type} (lo : Option Nat) : SMap V → Bool
  | [] => true
  | (k, _) :: m => (match lo with | none => true | some l => decide (l < k)) && SMap.sortedFrom (some k) m

/-- No entry equals what an unlisted key reads as. -/
def SMap.noDefault {V : Type} [DecidableEq V] (d : V) : SMap V → Bool
  | [] => true
  | (_, v) :: m => decide (v ≠ d) && SMap.noDefault d m

/-- The canonical form. -/
def SMap.wf {V : Type} [DecidableEq V] (m : SMap V) (d : V) : Bool := SMap.sortedFrom none m && SMap.noDefault d m

/-- A list of numbers, strictly rising: a set. -/
def insertNat (l : List Nat) (j : Nat) : List Nat :=
  match l with
  | [] => [j]
  | k :: m => if j = k then k :: m else if j < k then j :: k :: m else k :: insertNat m j

/-- Remove a number from a list. -/
def eraseNat (l : List Nat) (j : Nat) : List Nat := l.filter (fun k => decide (k ≠ j))

end Sys2Proof.Machine
end

