-- ==== Sys2Proof/Machine/State.lean ====
section
/-! DEFINITION. The state of the machine as plain data: the pod (R141), its packages, their units, the groups and their
threads, memory, and the model's own queues of events. Every structure names the rules that give its fields. -/

namespace Sys2Proof.Machine

/-- Why a step stops. -/
inductive Fault where
  /-- Raised by the meaning of an instruction word when no thread is issuing: `exec` was called on a state in which
  `State.cur` names no live thread. No step reaches it (`step` sets `cur` first). Safe. -/
  | noThread
  deriving DecidableEq, Repr

/-- Why an instruction has no meaning. -/
inductive Refusal where
  /-- An arm of `exec` whose meaning is not written yet. Safe. -/
  | notModelled (mnemonic : String)
  deriving DecidableEq, Repr

/-- A thread's name inside the model: the number of its group instance and its TIDX (R265). -/
structure TKey where
  uid : Nat
  tidx : Nat
  deriving DecidableEq, Repr

/-- An entry of the operand log (R81). `ix` is its place 0..3, `acc` the access it holds. -/
structure LogEntry where
  ix : Nat
  faultId : Nat
  lstate : Nat
  dreg : Nat
  word : Word
  ipc : DWord
  opa : DWord
  opb : DWord
  opc : DWord
  va : DWord
  pmask : BitVec 8
  iter : Nat
  acc : Nat
  /-- The CAUSE of a failure when `lstate` is 3 (R84, R122). -/
  cause : Nat
  deriving DecidableEq, Repr

/-- What a thread waits on (R24, R272). -/
inductive Wait where
  | none
  /-- a full operand log (R81) -/
  | logFull
  /-- an empty operand log, before an ordered operation (R82) -/
  | logEmpty
  /-- an instruction fetch (R85): the page of the fetch -/
  | fetch
  /-- KLD or KST held on a translation miss (R355), or the spill or refill of CALL and RET (R39) -/
  | held
  /-- BAR, with the generation arrived at (R314) -/
  | bar (gen : Nat)
  /-- RSYNC, with the chain's generation arrived at (R250) -/
  | rsync (gen : Nat)
  | rleave
  /-- SWAIT: offset and condition (R226) -/
  | swait (off : Nat) (g : Word)
  /-- HWAIT or an engine command reading a handle: the operation (R40) -/
  | hwait (op : Nat)
  | waitc (l s c t : Nat)
  /-- FENCE: accesses older than the number must be performed or returned, and the epoch closed (R338) -/
  | fence (upto : Nat) (acqPart relPart wide : Bool) (epoch : Option Nat)
  /-- a release that closes a phase, while three closed epochs of its core await completion (R174) -/
  | epoch
  /-- a 65th distinct missing page of the cluster: the page's address (R127) -/
  | missing (va : Nat)
  /-- a counter at 63 (R42): its class -/
  | counter (cls : Nat)
  /-- a full engine queue (0 copy unit, 1 matrix, 2 scan, 3 bulk engines, 4 the die's walks), or tiles held by another
  group (5) (R222, R227, R208) -/
  | queue (which : Nat)
  /-- allotment registers that are pending (R24) -/
  | operand (regs : List Nat)
  /-- an access that a watchpoint covers, until it has been performed (R277): its number -/
  | watched (acc : Nat)
  /-- an access of the bank that completes at once: the earlier accesses that must be performed before it (R183) -/
  | accs (xs : List Nat)
  /-- HST with every registry entry live (R345) -/
  | registry
  /-- a header that is PUBLISHING (R205) -/
  | header (ga : Nat)
  /-- a pending k register (R356) -/
  | kreg (n : Nat)
  deriving DecidableEq, Repr

/-- The classes of outstanding operations (R42). -/
inductive Cls where | load | store | copy | tile
  deriving DecidableEq, Repr

/-- An operation counted for a thread, in issue order; `done` once completed (R42). -/
structure Outst where
  cls : Cls
  id : Nat
  done : Bool
  deriving DecidableEq, Repr

/-- A repetition under way (R36): the address of the REP, its follower's word, fetched before the first iteration (R374),
the iteration, the count, the strides. -/
structure Rep where
  at_ : DWord
  word : Word
  i : Nat
  n : Nat
  sd : Nat
  sa : Nat
  sb : Nat
  deriving DecidableEq, Repr

/-- The place of a thread (R19, R32): core of the package, lane, slot. -/
structure Place where
  core : Nat
  lane : Nat
  slot : Nat
  deriving DecidableEq, Repr

/-- A failed engine operation, or a rail fault, that waits for its thread's next boundary (R85, R105, R213, R251). -/
structure EngFail where
  engine : Bool
  cause : Nat
  va : DWord
  /-- TRAPPC, where it is not the next instruction to issue: a KLD or KST (R355) -/
  pc : Option DWord
  deriving DecidableEq, Repr

/-- A thread (R19 to R43, R78, R86). -/
structure Thread where
  exited : Bool
  /-- parked at the cross-lane instruction at PC (R29), with the instruction -/
  park : Option Instr
  pc : DWord
  regs : SMap Word
  /-- even registers of the allotment whose pair carries a reference tag (R202) -/
  tags : List Nat
  /-- allotment registers marked pending (R24, R81) -/
  pend : List Nat
  /-- uniform registers with a KLD of this thread under way (R356) -/
  kpend : List Nat
  wbase : Nat
  preds : SMap (BitVec 8)
  /-- handle registers: the operation each names, 0 for EMPTY (R341) -/
  handles : SMap Nat
  rs : List DWord
  spills : Nat
  outst : List Outst
  prio : BitVec 3
  demoted : Bool
  demLeft : Nat
  /-- rounds of its group on its core without issue, at most 64, and the promotion of R25 -/
  idle : Nat
  promoted : Bool
  /-- the count of its core's bundles at its last issue, for the longest-waiting choice of R23 -/
  since : Nat
  rep : Option Rep
  fmode : Word
  fflags : Word
  seed : Word
  mprg : Word
  trapc : Word
  trappc : DWord
  trapva : DWord
  depth : Nat
  otrapc : Word
  otrappc : DWord
  otrapva : DWord
  /-- the captured TBHI of R299 -/
  tbhi : Option Word
  /-- operand log, in log order (R81, R82) -/
  log : List LogEntry
  wait : Wait
  /-- a PC breakpoint does not fire on the next issue (R86, R276) -/
  skipBp : Bool
  engFail : List EngFail
  /-- rail chains on which it has issued RJOIN, a rail SCN or RSYNC (R251) -/
  railUse : List Nat
  place : Place
  deriving DecidableEq, Repr

/-- A live registry entry (R345). -/
structure RegEnt where
  op : Nat
  gen : Nat
  deriving DecidableEq, Repr

/-- An operator program of the scan engine (R242): tuple width and micro-operation words. -/
structure OpProg where
  n : Nat
  uops : List Word
  deriving DecidableEq, Repr

/-- Membership of a rail chain (R248). -/
structure RailMem where
  chain : Nat
  pos : Nat
  count : Nat
  deriving DecidableEq, Repr

/-- A share of a group: what one core of the group holds (R20, R35). -/
structure Share where
  core : Nat
  /-- group slot of the core (R23, R62) -/
  gslot : Nat
  firstCrew : Nat
  crews : Nat
  kregs : SMap DWord
  scratch : SMap Byte
  /-- registry: entry number to operation and generation (R345) -/
  registry : SMap RegEnt
  regGens : SMap Nat
  /-- operator table, slots 0 to 3 (R243) -/
  optab : SMap OpProg
  /-- it has taken its core's tiles (R227); saved tiles that wait for the tiles of a new core -/
  tiles : Bool
  tilesDue : Bool
  savedTiles : SMap Word
  rail : Option RailMem
  deriving DecidableEq, Repr

/-- A launch record (R52), field by field. -/
structure LaunchRec where
  entry : Nat
  gridx : Nat
  gridy : Nat
  gridz : Nat
  crewc : Nat
  crewm : Nat
  crewv : Nat
  regs8 : Nat
  scrg : Nat
  privw : Nat
  slimw : Nat
  chain : Nat
  chend : Bool
  fusel1 : Bool
  restart : Bool
  depblk : Bool
  lprio : Nat
  latus : Nat
  deps : List Nat
  launchid : Nat
  args : DWord
  compl : DWord
  irq : Bool
  vector : Nat
  privbase : Nat
  /-- some reserved field is not zero (R53) -/
  bad : Bool
  deriving DecidableEq, Repr

/-- A stop of a group that is under way or reported (R278, R279). -/
structure Stop where
  cause : Nat
  hits : List Nat
  named : Nat
  /-- the function that halts the group, for a command; none for a slot, BKPT or HALT until it is in force -/
  fn : Option Nat
  /-- the functions whose commands wait for it -/
  asked : List Nat
  deriving DecidableEq, Repr

/-- Where a group stands (R43, R75, R279). -/
inductive GPhase where | running | saving | saved | draining
  deriving DecidableEq, Repr

/-- A group instance (R54, R71, R72, R78). -/
structure Group where
  pkg : Nat
  /-- the launch's number in the package's sequencer -/
  launch : Nat
  lr : LaunchRec
  /-- the leaf's block and the tenant's REGID (R44) -/
  leaf : Nat
  tenant : Nat
  gidx : Nat
  phase : GPhase
  frozen : Bool
  /-- a stop requested or in force (R279); `stopped` once every thread has stopped -/
  stop : Option Stop
  stopped : Bool
  /-- a thread being stepped, its trap depth before, and whether the step waits (R281) -/
  stepT : Option Nat
  stepDepth : Nat
  stepWait : Bool
  gstored : Bool
  barGen : Nat
  placedAt : Nat
  elapsed : Nat
  /-- while saved: the save area, and per share the directory entry, first block and blocks (R77) -/
  saveBase : Nat
  saves : List (Nat × Nat × Nat)
  /-- the draw behind the bytes of a context that R78 does not lay out -/
  drawn : Nat
  shares : List Share
  threads : List Thread
  deriving DecidableEq, Repr

/-- Kinds of access (R179, R359, R380, R204, R205, R310, R355, R361, R39, R203, R357, R371, R173). -/
inductive AccKind where
  | ld (k : LdKind) | ldref | st | stref
  | lds (k : LdKind) | sts
  | atom (op : AtomOp) (noret : Bool) | atoms (op : AtomOp) (noret : Bool)
  | ldpv (m : Nat) | stpv (m : Nat) | spill | refill
  | kld (n : Nat) | kst
  | oinit | launch (q : Nat) | pref
  | wbr | invr | fetch
  deriving DecidableEq, Repr

/-- How far an access has come. -/
inductive Stage where
  /-- its translation is not there yet -/
  | translate
  /-- attached to a fault and logged (R81) -/
  | logged
  /-- translated and waiting to be performed -/
  | ready
  /-- waiting for a forwarded read (R167) -/
  | forwarded
  /-- performed; the reply is on its way -/
  | performed
  deriving DecidableEq, Repr

/-- What a translation gives (R127): the page's size, its global page or host address, type, policy and permissions. -/
structure Trans where
  base : Nat
  bytes : Nat
  ga : Nat
  mtype : Nat
  pol : Nat
  cmp : Nat
  side : Bool
  sidx : Nat
  w : Bool
  x : Bool
  dirty : Bool
  peer : Nat
  deriving DecidableEq, Repr

/-- An access in flight (R42, R81, R182). `parts` are the (virtual address, translation) pairs of its bytes. -/
structure Access where
  thr : TKey
  pkg : Nat
  core : Nat
  share : Nat
  leaf : Nat
  /-- the type of the region attribute entry of the address at issue -/
  atype : Nat
  kind : AccKind
  size : Nat
  va : DWord
  /-- second address, for accesses of two pieces or with headers -/
  va2 : DWord
  len : Nat
  data : DWord
  data2 : DWord
  dreg : Nat
  tagd : Bool
  order : Order
  scope : Scope
  rm : Word
  word : Word
  ipc : DWord
  opa : DWord
  pmask : BitVec 8
  iter : Nat
  epoch : Nat
  stage : Stage
  trans : List Trans
  /-- the value a load has taken, its tag and the flags of an atomic -/
  value : DWord
  /-- the launch record a LAUNCH has read (R357) -/
  line : Line
  vtag : Bool
  flags : Word
  /-- the release part: the closed epoch it waits for, and whether its wait for a free one has been counted (R174) -/
  closed : Option Nat
  stalled : Bool
  /-- a value is being taken after a fault was resolved (R84) -/
  replay : Bool
  /-- it was deferred because its page had no holder: its replay zeroes such a page (R144) -/
  force : Bool
  /-- it has waited for its page to come here or be upgraded, and is no hit of the frame (R139, R412) -/
  late : Bool
  /-- a STREF whose checks have passed at issue (R381) -/
  checked : Bool
  /-- the PUBLISHING header that a replayed STREF waits for (R205) -/
  hdr : Option Nat
  deriving DecidableEq, Repr

/-- Kinds of engine operation (R217, R228, R243, R244, R208). -/
inductive OpKind where
  | cpt | cps | cpg | cpsc | cpb | cpz | cpr
  | mma | mz | mst | mlda | scacc
  | scn | scop | pub
  deriving DecidableEq, Repr

/-- The states of an operation (R40, R343); suspended waits on a resolution (R85). -/
inductive OpState where | queued | running | suspended | done
  deriving DecidableEq, Repr

/-- An engine operation (R40, R217 to R252). -/
structure Op where
  kind : OpKind
  thr : TKey
  leaf : Nat
  /-- a page without a holder is zeroed, after action 0 (R144) -/
  force : Bool
  pkg : Nat
  core : Nat
  share : Nat
  st : OpState
  cancelled : Bool
  blk : List DWord
  arg : Word
  ga : DWord
  fmode : Word
  seed : Word
  z : Nat
  zp : Nat
  /-- progress: rows moved and byte of the current row of a copy; K-blocks performed of an MMA; the byte of a tile's or a scan's operand -/
  row : Nat
  off : Nat
  /-- the rows of a copy in the order in which they move: the current one, the first that has not been looked at, those passed over (R188) -/
  cur : Nat
  next : Nat
  later : List Nat
  /-- bytes of a copy's row that have been read and not yet written, fewer than a word (R179); what a matrix operation has read of its
  operands, or is still to write of a tile; the inputs of a started SCN, and from its carry on its outputs (R246) -/
  held : List Byte
  /-- bytes whose writes are acknowledged -/
  acked : Nat
  flags : Word
  engine : Nat
  scope : Scope
  /-- a START record was written (R221) -/
  started : Bool
  /-- the carry taken from the rail (R249) -/
  carry : Option (List Word)
  /-- the outgoing carry has been sent (R249) -/
  sent : Bool
  /-- bytes taken from the predecessor of a ring, by a formed CPR (R223) -/
  formed : Bool
  /-- a publication walk: scribe, sequence number, stack of (object, next word), wait list, entered objects, spilled blocks -/
  scribe : Nat
  stamp : Nat
  stack : List (Nat × Nat)
  waitList : List Nat
  entered : List Nat
  blocks : List Nat
  /-- the lines of the newest object that have taken their VIS since its mark, and its bytes (R207) -/
  marking : Option (Nat × Nat)
  /-- order in which operations became DONE (R345) -/
  doneAt : Nat
  deriving DecidableEq, Repr

/-- A line in an L1 (R164): data and one bit per word (valid, dirty, owned), one bit per byte written, the phase, the
page's policy end, private or SWM lines. -/
structure L1Line where
  ga : Nat
  data : Line
  valid : BitVec 32
  dirty : BitVec 32
  owned : BitVec 32
  mask : BitVec 128
  /-- the cores that dirtied it, each with its release epoch (R164, R169) -/
  by_ : List (Nat × Nat)
  stream : Bool
  mtype : Nat
  /-- the chain tag of the launch it was filled for (R68) -/
  chain : Nat
  /-- the group whose private line it is (R132) -/
  priv : Option Nat
  deriving DecidableEq, Repr

/-- A write-back on its way (R166, R167): the words and bytes it carries, in `passed` the words that the home has taken from the
buffer, and in `dead` those for which a later owner's bytes have arrived. `tags` are the cores whose stores it carries, each with the
epoch current when it was sent (R169, R174). -/
structure WriteBack where
  pkg : Nat
  core : Nat
  tags : List (Nat × Nat)
  ga : Nat
  data : Line
  words : BitVec 32
  mask : BitVec 128
  passed : BitVec 32
  dead : BitVec 32
  mtype : Nat
  chain : Nat
  deriving DecidableEq, Repr

/-- A line in a slice (R176): its slice, kind (0 home, 1 SWM proxy, 2 victim replica), data and byte masks of a proxy or a replica,
chain tag. The lines of a package stand in the order of use. -/
structure SliceLine where
  slice : Nat
  ga : Nat
  kind : Nat
  data : Line
  valid : BitVec 128
  dirty : BitVec 128
  chain : Nat
  deriving DecidableEq, Repr

/-- A translation walk (R121, R127): what misses, and who. -/
structure Walk where
  pkg : Nat
  core : Nat
  tenant : Nat
  leaf : Nat
  va : Nat
  acc : Nat
  /-- 1 access, 2 engine, 3 fetch, 4 held thread (R355), 5 a STREF at issue (R381), 6 the trap frame of a
  deferred access (R87), 0 a PREF that posts nothing (R371) -/
  kind : Nat
  /-- the direction: 0 read, 1 write, 2 atomic, 3 execute (R83) -/
  dir : Nat
  /-- a page without a holder is zeroed, after action 0 (R144) -/
  force : Bool
  thr : TKey
  /-- the result is discarded and walked again, after an invalidate (R129) -/
  redo : Bool
  /-- the unresolved FAULTID it waits for, 0 for none -/
  fault : Nat
  /-- the cause of its failure, 0 while it has not failed -/
  failed : Nat
  deriving DecidableEq, Repr

/-- A page request of a package (R144 to R146): stage 0 climbing, 1 moving, 2 upgrade, 3 the mark. -/
structure PageReq where
  pkg : Nat
  /-- the item that asks -/
  who : Nat
  page : Nat
  /-- the virtual address it asks for (R83) -/
  va : Nat
  write : Bool
  /-- its direction in a fault-queue entry (R83) -/
  dir : Nat
  leaf : Nat
  tenant : Nat
  mtype : Nat
  peer : Nat
  cmp : Nat
  side : Bool
  stage : Nat
  frame : Nat
  from_ : Nat
  /-- the replay of a page-not-present fault zeroes it whatever FIRSTTOUCH holds (R144) -/
  force : Bool
  /-- its local miss has been counted, the levels it has climbed (R161), and its count in the master's RWR (R146) -/
  missed : Bool
  climbed : Nat
  counted : Bool
  /-- the node at which it waits for an entry, by level and prefix, with the number of its arrival (R143) -/
  waitAt : Option (Nat × Nat × Nat)
  deriving DecidableEq, Repr

/-- An injection under way (R152): the evicting package and frame, the page, candidates left, refusals, the level. -/
structure Injection where
  pkg : Nat
  frame : Nat
  page : Nat
  cands : List Nat
  /-- who offers: 0 the bay node, 1 the row node, 2 the pod node, 3 the backing area; and whether its entry is locked -/
  level : Nat
  locked : Bool
  target : Option (Nat × Nat)
  refused : Nat
  /-- capacity exhausted: the chain starts again at a window end (R152) -/
  exhausted : Bool
  /-- the item of the fill that needs the frame (R151), the packages that took a replica of the page meanwhile (R155), and the wait at
  a node (R143) -/
  fill : Nat
  readers : List Nat
  waitAt : Option (Nat × Nat × Nat)
  deriving DecidableEq, Repr

/-- A carry on the rail (R249): chain key (package, launch, chain), position it goes to, width n, channels, values. -/
structure Carry where
  pkg : Nat
  launch : Nat
  chain : Nat
  pos : Nat
  n : Nat
  ch : Nat
  vals : List Word
  deriving DecidableEq, Repr

/-- What an item number in flight names. -/
inductive Item where
  | access (a : Access)
  | op (o : Op)
  | wb (w : WriteBack)
  | walk (w : Walk)
  | page (r : PageReq)
  | inj (j : Injection)
  | carry (c : Carry)
  deriving DecidableEq, Repr

/-- A chain of the carry rail (R248): launch, chain id, members by position (group, share), count, inboxes, waiting
carries, RSYNC generation. -/
structure Chain where
  launch : Nat
  id : Nat
  count : Nat
  members : SMap (Nat × Nat)
  /-- every position has been joined (R248); carries wait at the hub until then, and for a vacant or a saved member (R76, R249, R250) -/
  formed : Bool
  inbox : SMap (List Carry)
  hub : List Carry
  gen : Nat
  deriving DecidableEq, Repr

/-- A bundle: the PC of its threads, those still to issue, and the word fetched for them all once it is here (R23). -/
structure Bundle where
  pc : DWord
  threads : List TKey
  word : Option Word
  deriving DecidableEq, Repr

/-- A core's own state (R23, R164, R174, R222, R227, R228, R247). -/
structure Core where
  rrNext : Nat
  round : Nat
  /-- bundles that have begun to issue, for the longest-waiting choice of R23 -/
  issued : Nat
  bundles : List Bundle
  /-- the first bundle is being issued (R414) -/
  open_ : Bool
  epoch : Nat
  /-- closed epochs awaiting completion, oldest first, each with its number in the order of closes (R174) -/
  closed : List (Nat × Nat)
  closes : Nat
  copyQ : List Nat
  matQ : List Nat
  scanQ : List Nat
  tilesOf : Option (Nat × Nat)
  tiles : SMap Word
  l1 : List L1Line
  tlb : List (Nat × Trans)
  deriving DecidableEq, Repr

/-- A cluster's own state (R63, R127, R177). -/
structure Cluster where
  fused : Bool
  tlb : List (Nat × Trans)
  deriving DecidableEq, Repr

/-- A group handed to a distributor: a saved instance to restore, and the core that a refill offers (R56, R65). -/
structure Handed where
  launch : Nat
  gidx : Nat
  saved : Option Nat
  core : Option Nat
  deriving DecidableEq, Repr

/-- A pre-emption request (R58): the requester and its die, the victims still to leave, and what left resources held for it as
shares (core, crews, allotment, granules). -/
structure Hold where
  launch : Nat
  die : Nat
  victims : List Nat
  freed : List (Nat × Nat × Nat × Nat)
  deriving DecidableEq, Repr

/-- A die's own state (R127, R208, R221, R62). -/
structure Die where
  bulk : SMap (List Nat)
  pubQ : List Nat
  /-- the walk each scribe runs, and its sequence counter -/
  scribes : SMap Nat
  stamps : SMap Nat
  /-- walk cache: (tenant, address, entry), and attribute-file entries: (tenant, number, entry) (R117, R127) -/
  walkCache : List (Nat × Nat × DWord)
  attrs : List (Nat × Nat × DWord)
  /-- groups handed to the distributor -/
  handed : List Handed
  /-- released cores with the launch whose group left (R65) -/
  refill : List (Nat × Nat)
  deriving DecidableEq, Repr

/-- The frame tag of R139. -/
structure FrameTag where
  gpn : Nat
  state : Nat
  mode : Nat
  age : Nat
  rrd : Nat
  rwr : Nat
  owner : Nat
  mirror : Bool
  unlisted : Nat
  solew : Nat
  lastwr : Nat
  multiwr : Bool
  ord : Nat
  owr : Nat
  /-- the package of the last counted window (R149) -/
  prevwr : Nat
  /-- some package wrote the page in the window -/
  wrote : Bool
  /-- the leaf to which, with its ancestors, the frame is charged (R47): its block, 0 where none is known -/
  charge : Nat
  /-- a PEER page (R150), and the second master of a mirrored page (R159) -/
  peer : Bool
  second : Bool
  deriving DecidableEq, Repr

/-- A directory entry of R142. -/
structure DirEntry where
  gpn : Nat
  level : Nat
  dstate : Nat
  mode : Nat
  mirror : Bool
  pres : BitVec 16
  mchild : Nat
  mchild2 : Nat
  backed : Bool
  bkslot : Nat
  owner : Nat
  /-- the item of the operation that holds it, while DSTATE is not STABLE (R143) -/
  lock : Nat
  deriving DecidableEq, Repr

/-- A directory set (R142): EVC and the 7 entries; an entry not in use is `none`. -/
structure DirSet where
  evc : Nat
  /-- the model's own: the owners of pages whose entries overflow has evicted since the set was last counted (R156) -/
  owners : List Nat
  entries : List (Option DirEntry)
  deriving DecidableEq, Repr

/-- Metadata of a line (R125), with the packages whose copy carries the poison of CHECK, 4,096 for the backing area (R292). -/
structure LineMeta where
  act : Nat
  cmp : Nat
  vis : Nat
  tag : BitVec 16
  poison : List Nat
  /-- the code in whose form the line is stored, where its code lies in a side table (R123, R124) -/
  form : Nat
  deriving DecidableEq, Repr

/-- A region control block as the sequencer caches it (R45, R49). -/
structure Block where
  regid : Nat
  prio : Nat
  level : Nat
  leaf : Bool
  ovr : BitVec 16
  state : Nat
  domroot : Bool
  valid : Bool
  parent : Nat
  child : Nat
  sibling : Nat
  lfmax : Nat
  grpmax : Nat
  cormax : Nat
  scrmax : Nat
  frmmax : Nat
  trapvec : Nat
  dbgperm : BitVec 8
  trbase : Nat
  trblocks : Nat
  svbase : Nat
  svblocks : Nat
  rafbase : Nat
  fqbase : Nat
  fqent : Nat
  wbbase : Nat
  wbblocks : Nat
  cmpbase : Nat
  bkbase : Nat
  bkpages : Nat
  chbase : Nat
  chcount : Nat
  mirror : Bool
  firsttouch : Bool
  /-- service count (R56) -/
  serv : Nat
  /-- launches are held back until a RESUME (R279) -/
  held : Bool
  deriving DecidableEq, Repr

/-- A launch in the sequencer (R55 to R67, R71). -/
structure Launch where
  leaf : Nat
  tenant : Nat
  lr : LaunchRec
  waiting : Bool
  next : Nat
  total : Nat
  savedQ : List Nat
  flushedQ : List Nat
  resident : Nat
  done : Nat
  peak : Nat
  preempts : Nat
  tstart : Option Nat
  diePtr : Nat
  posPtr : SMap Nat
  placed : SMap Nat
  finished : SMap Nat
  reported : List Nat
  handedOut : Bool
  meanSum : Nat
  meanCount : Nat
  /-- elapsed time of flushed runs (R80) -/
  charged : Nat
  eligible : Bool
  deriving DecidableEq, Repr

/-- An unresolved fault (R83, R84). -/
structure PFault where
  id : Nat
  tenant : Nat
  regid : Nat
  kind : Nat
  acc : Nat
  cause : Nat
  va : Nat
  lid : Nat
  gidx : Nat
  tidx : Nat
  time : Nat
  die : Nat
  count : Nat
  /-- it has met a full ring, which is counted once -/
  waited : Bool
  posted : Bool
  open_ : Bool
  deriving DecidableEq, Repr

/-- A tenant's fault-queue ring (R258). -/
structure FQ where
  w : BitVec 32
  head : BitVec 32
  lap : Bool
  base : Nat
  ent : Nat
  deriving DecidableEq, Repr

/-- An invalidate in flight (R129, R256). -/
structure Inval where
  fn : Nat
  tenant : Nat
  all : Bool
  va : Nat
  count : Nat
  /-- the accesses in flight that used a dropped translation (R129) -/
  users : List Nat
  deriving DecidableEq, Repr

/-- An access that the host makes through a function: of the window, of a register, of the doorbell page (R255, R257, R259). -/
inductive HostAccess where
  | read (off size : Nat)
  | write (off size : Nat) (v : DWord)
  | register (bar off size : Nat) (v : DWord)
  | doorbell (off size : Nat) (v : DWord)
  deriving DecidableEq, Repr

/-- The control page of BAR 0 of one function (R255). -/
structure Ctl where
  op : BitVec 8
  arg0 : DWord
  arg1 : DWord
  busy : Bool
  err : Bool
  invdone : BitVec 16
  invseq : BitVec 16
  resolve : DWord
  winbase : DWord
  vecs : DWord
  fqregid : Nat
  deriving DecidableEq, Repr

/-- A path entry of R282. -/
structure PathEnt where
  parked : Bool
  hit : Bool
  wait : Bool
  pc : DWord
  crew : Nat
  mask : Word
  deriving DecidableEq, Repr

/-- The debug mailbox of BAR 4 of one function (R274). -/
structure Mbox where
  dop : BitVec 8
  launchid : Nat
  gidx : Nat
  regid : Nat
  whole : Bool
  tidx : Nat
  gpn : Nat
  busy : Bool
  stopped : Bool
  att : Bool
  attReg : Nat
  waiting : Bool
  dstat : Nat
  stopcause : Nat
  hitcnt : Nat
  trapdepth : Nat
  trapc : Word
  name : DWord
  ntidx : Nat
  npc : DWord
  dmbase : Nat
  dmblocks : Nat
  pathstart : Nat
  paths : List PathEnt
  /-- the group whose stop is reported, and stops that wait their turn (R413) -/
  shown : Option Nat
  pending : List Nat
  /-- regions held by HALT REGION (R279); the groups of a DUMP or READ CONTEXT under way (R284) -/
  holds : List Nat
  dumping : List Nat
  bp : SMap DWord
  wp : SMap DWord
  nonce : BitVec 256
  attstat : Nat
  attresp : List Byte
  deriving DecidableEq, Repr

/-- A message that waits at a port, or is being sent (R260): its channel, what its header flit says, its destination and address, the data
flits that follow with the global address of the first one's bytes, and the flits sent so far. -/
structure LinkMsg where
  vc : Nat
  kind : Nat
  dest : Nat
  addr : Nat
  base : Nat
  data : Nat
  sent : Nat
  /-- the contents of a control flit -/
  body : List Nat
  deriving DecidableEq, Repr

/-- A pod-link port (R260 to R262). -/
structure Port where
  /-- messages to send, oldest first -/
  queue : List LinkMsg
  up : Bool
  trained : Bool
  txNext : Nat
  txAck : Nat
  replay : List Flit
  credits : List Nat
  rxNext : Nat
  rxCredits : List Nat
  inFlits : List Flit
  outFlits : List Flit
  lost : List Nat
  sinceAudit : Nat
  replaying : Bool
  /-- control flits taken since the last acknowledgement was sent -/
  unacked : Nat
  deriving DecidableEq, Repr

/-- A signal the outside world sees: an MSI-X message, a reply to a host read, a Completion, an MCTP answer. -/
inductive Signal where
  | msix (fn vector : Nat)
  | read (fn : Nat) (v : DWord)
  | mctp (bytes : List Byte)
  /-- bytes of the dump area with their offset, over the 25GBASE-R port (R285) -/
  | dump (offset : Nat) (bytes : List Byte)
  deriving DecidableEq, Repr

/-- Boot, integrity and power (R286 to R293). -/
structure Boot where
  powered : Bool
  phase : Nat
  failcode : Nat
  failkind : Nat
  failunit : Nat
  thrlvl : Nat
  imgver : BitVec 32
  imgok : Bool
  digest : BitVec 256
  ids : List (BitVec 256)
  /-- the soft-repair registers and the trim values, as the image gives them (R286) -/
  repair : List RepairValue
  trim : List RepairValue
  reslog : List UnitFail
  /-- the cycle of the last raise check, and since when power has stayed low (R293) -/
  raisedAt : Nat
  lowSince : Option Nat
  /-- attestation requests waiting (R290): the nonce and whether over MCTP, and the function -/
  attQ : List (Bool × Nat × BitVec 256)
  deriving DecidableEq, Repr

/-- What the time series latches on a tick: the tick, TSK's K and BANKS, SEQ, the counter values (R18, R273). -/
structure Latch where
  tick : Nat
  k : Nat
  banks : Nat
  seq : Nat
  values : List DWord
  deriving DecidableEq, Repr

/-- The time series of R273. -/
structure Series where
  k : Nat
  banks : Nat
  base : Nat
  size : Nat
  wr : Nat
  rd : Nat
  seq : Nat
  /-- snapshots latched and not yet appended to the ring, oldest first -/
  latches : List Latch
  deriving DecidableEq, Repr

/-- A package (R11, R13). -/
structure Pkg where
  present : Bool
  lost : Bool
  boot : Boot
  /-- the six BAR registers of the type 0 header, then the six VF BAR registers of the SR-IOV capability (R254) -/
  bars : List Word
  ctl : SMap Ctl
  /-- the model's own: accesses through the BARs that wait behind a window access, with their function, oldest first, and the pages of the
  oldest that have been missed, with the levels climbed (R161, R195, R259) -/
  hostQ : List (Nat × HostAccess)
  hostSeen : SMap Nat
  vfbind : SMap DWord
  mbox : SMap Mbox
  cntsel : DWord
  series : Series
  counters : SMap DWord
  timebase : Nat
  frac : Nat
  slew : Int
  holdover : Bool
  cyc : Nat
  blocks : SMap Block
  launches : SMap Launch
  cores : SMap Core
  clusters : SMap Cluster
  dies : SMap Die
  chains : List Chain
  faults : List PFault
  fqs : SMap FQ
  nextFault : Nat
  invals : List Inval
  /-- tenants whose capacity-exhausted condition stands (R152, R255) -/
  capexh : List Nat
  slices : List SliceLine
  frames : SMap FrameTag
  dirs : SMap DirSet
  injected : Nat
  ports : SMap Port
  routersDown : List Nat
  signals : List Signal
  /-- the pre-emption requests under way (R58) -/
  heldFor : List Hold
  /-- queues that a doorbell or a LAUNCH of this package has advanced, as block × 16 + queue (R51) -/
  served : List Nat
  /-- queues stopped on an error, and whether EN has read 0 since (R51) -/
  erred : List (Nat × Bool)
  deriving DecidableEq, Repr

/-- A page's compression mapping (R123, R124): CMP, CMPSIDE, SIDX, and the tenant whose side table it is, with a package that knows
the tenant; whether an INVALIDATE of the tenant has come since, after which the mapping may have changed. -/
structure PageCmp where
  cmp : Nat
  side : Bool
  sidx : Nat
  tenant : Nat
  pkg : Nat
  loose : Bool
  deriving DecidableEq, Repr

/-- What the machine does at its next step: take an input, let an event of the part happen, or let a core issue. -/
inductive Turn where
  | input | event | issue
  deriving DecidableEq, Repr

/-- The machine: one pod and the model's own queues. -/
structure State where
  /-- the thread whose instruction is being performed -/
  cur : Option TKey
  /-- the instruction word being performed (R81 logs it) -/
  fetched : Word
  turn : Turn
  /-- events of the part still to happen, oldest first -/
  agenda : List Instr
  /-- inputs of the outside world, oldest first -/
  inbox : List Instr
  /-- which event of the agenda happens next (0 the oldest), step by step; an empty tape reads 0 -/
  sched : List Nat
  /-- cycles each step takes, step by step; an empty tape reads 1 -/
  elapse : List Nat
  /-- how much of its operands an engine accesses at a time, access by access, and in which order of rows (R179, R188): v mod 64 words, 0 for
  as many as it can, and v / 64 rows passed over as a copy takes up its next row; an empty tape reads 0 -/
  grain : List Nat
  /-- the core that issues next: package and core -/
  nextCore : Nat × Nat
  /-- the groups and cores of which a bundle has issued since a cycle last elapsed -/
  issuedIn : List (Nat × Nat)
  nextId : Nat
  /-- the model's own counter of free values drawn -/
  freeTick : Nat
  items : SMap Item
  groups : SMap Group
  pkgs : SMap Pkg
  /-- the pod's global memory at the master's home: (address, byte), an unlisted byte reads 0 -/
  gmem : List Host.Cell
  /-- line metadata by line number, an unlisted line reads all zero -/
  lmeta : SMap LineMeta
  /-- the compression mapping that each page was last written through (R123, R124): by global page number, host pages behind them -/
  pageCmp : SMap PageCmp
  /-- host memory behind each package's bridge: package number and address in one number -/
  hmem : List Host.Cell
  deriving DecidableEq, Repr

/-- The canonical form of a memory: addresses strictly rising, no entry equal to the byte 0 that an unlisted address reads
as (R126, R144). -/
abbrev Memory.wf (m : List Host.Cell) : Bool := SMap.wf m (0 : Byte)

/-- The BAR registers at power-up (R254): each pair names a 64-bit BAR in its low bits, BAR 2 a prefetchable one. -/
def barsInit : List Word := [4, 0, 0xC, 0, 4, 0, 4, 0, 0xC, 0, 4, 0]

/-- A control page at power-up (R255). -/
def Ctl.init : Ctl :=
  { op := 0, arg0 := 0, arg1 := 0, busy := false, err := false, invdone := 0, invseq := 0, resolve := 0, winbase := 0,
    vecs := 0, fqregid := 0 }

/-- A mailbox at power-up (R274). -/
def Mbox.init : Mbox :=
  { dop := 0, launchid := 0, gidx := 0, regid := 0, whole := false, tidx := 0, gpn := 0, busy := false, stopped := false,
    att := false, attReg := 0, waiting := false, dstat := 0, stopcause := 0, hitcnt := 0, trapdepth := 0, trapc := 0,
    name := 0, ntidx := 0, npc := 0, dmbase := 0, dmblocks := 0, pathstart := 0, paths := [], shown := none, pending := [], holds := [], dumping := [],
    bp := [], wp := [], nonce := 0, attstat := 0, attresp := [] }

/-- A core at power-up: epoch 0 (R174), empty queues and caches. -/
def Core.init : Core :=
  { rrNext := 0, round := 0, issued := 0, bundles := [], open_ := false, epoch := 0, closed := [], closes := 0, copyQ := [], matQ := [], scanQ := [],
    tilesOf := none, tiles := [], l1 := [], tlb := [] }

/-- A cluster at power-up. -/
def Cluster.init : Cluster := { fused := false, tlb := [] }

/-- A die at power-up. -/
def Die.init : Die :=
  { bulk := [], pubQ := [], scribes := [], stamps := [], walkCache := [], attrs := [], handed := [], refill := [] }

/-- A port before link training (R261). -/
def Port.init : Port :=
  { queue := [], up := false, trained := false, txNext := 0, txAck := 0, replay := [], credits := [0, 0, 0, 0], rxNext := 0,
    rxCredits := [0, 0, 0, 0], inFlits := [], outFlits := [], lost := [], sinceAudit := 0, replaying := false, unacked := 0 }

/-- An INVALID frame (R411): every tag field 0. -/
def FrameTag.init : FrameTag :=
  { gpn := 0, state := 0, mode := 0, age := 0, rrd := 0, rwr := 0, owner := 0, mirror := false, unlisted := 0, solew := 0,
    lastwr := 0, multiwr := false, ord := 0, owr := 0, prevwr := 0, wrote := false, charge := 0, peer := false, second := false }

/-- An empty directory set (R142). -/
def DirSet.init : DirSet := { evc := 0, owners := [], entries := [none, none, none, none, none, none, none] }

/-- The metadata of an untouched line (R125). -/
def LineMeta.init : LineMeta := { act := 0, cmp := 0, vis := 0, tag := 0, poison := [], form := 0 }

/-- A fault-queue ring at power-up (R258): W, FQHEAD and the lap parity are 0, 0 and 1. -/
def FQ.init : FQ := { w := 0, head := 0, lap := true, base := 0, ent := 0 }

/-- The boot unit before power is good (R286, R289). -/
def Boot.init : Boot :=
  { powered := false, phase := 0, failcode := 0, failkind := 0, failunit := 0, thrlvl := 0, imgver := 0, imgok := false,
    digest := 0, ids := [], repair := [], trim := [], reslog := [], raisedAt := 0, lowSince := none, attQ := [] }

/-- The time series at power-up (R274): TSK 0. -/
def Series.init : Series := { k := 0, banks := 0, base := 0, size := 0, wr := 0, rd := 0, seq := 0, latches := [] }

/-- A package before power is good: every register of R255, R271 and R274 at its reset value. -/
def Pkg.init : Pkg :=
  { present := true, lost := false, boot := Boot.init, bars := barsInit, ctl := [], hostQ := [], hostSeen := [], vfbind := [], mbox := [], cntsel := 0,
    series := Series.init, counters := [], timebase := 0, frac := 0, slew := 0, holdover := false, cyc := 0, blocks := [],
    launches := [], cores := [], clusters := [], dies := [], chains := [], faults := [], fqs := [], nextFault := 1,
    invals := [], capexh := [], slices := [], frames := [], dirs := [], injected := 0, ports := [], routersDown := [], signals := [],
    heldFor := [], served := [], erred := [] }

/-- The machine right after reset: a pod of one package, package 0, whose power is not good yet; no group, no item in
flight, memory with nothing listed (R141, R286). -/
def State.reset : State :=
  { cur := none, fetched := 0, turn := .input, agenda := [], inbox := [], sched := [], elapse := [], grain := [], nextCore := (0, 0), issuedIn := [], nextId := 1,
    freeTick := 0, items := [], groups := [], pkgs := [(0, Pkg.init)], gmem := [], lmeta := [], pageCmp := [], hmem := [] }

end Sys2Proof.Machine
end

