-- ==== Sys2Proof/Machine/Memory.lean ====
section
/-! DEFINITION. Named operations over the parts of State and over memory: finding and changing groups, threads, shares,
packages and units; bytes of global memory, host memory, scratchpad; items in flight; counters and time. -/

namespace Sys2Proof.Machine

/-! ## Parts of the state -/

def State.group? (s : State) (u : Nat) : Option Group := SMap.find? s.groups u
def State.pkg? (s : State) (p : Nat) : Option Pkg := SMap.find? s.pkgs p
def State.item? (s : State) (x : Nat) : Option Item := SMap.find? s.items x
def State.thread? (s : State) (k : TKey) : Option Thread := (s.group? k.uid).bind (fun g => g.threads[k.tidx]?)

/-- The package, or one at its power-up state where the number names none. -/
def State.pkgD (s : State) (p : Nat) : Pkg := (s.pkg? p).getD Pkg.init

def State.modGroup (s : State) (u : Nat) (f : Group → Group) : State := { s with groups := SMap.modify s.groups u f }
def State.modPkg (s : State) (p : Nat) (f : Pkg → Pkg) : State := { s with pkgs := SMap.modify s.pkgs p f }
def Group.modThread (g : Group) (t : Nat) (f : Thread → Thread) : Group := { g with threads := g.threads.modify t f }
def Group.modShare (g : Group) (j : Nat) (f : Share → Share) : Group := { g with shares := g.shares.modify j f }
def State.modThread (s : State) (k : TKey) (f : Thread → Thread) : State := s.modGroup k.uid (fun g => g.modThread k.tidx f)
def State.modShare (s : State) (u j : Nat) (f : Share → Share) : State := s.modGroup u (fun g => g.modShare j f)

/-- A unit of a package that nothing has touched is in its power-up state. -/
def Pkg.core (p : Pkg) (c : Nat) : Core := SMap.get p.cores Core.init c
def Pkg.cluster (p : Pkg) (c : Nat) : Cluster := SMap.get p.clusters Cluster.init c
def Pkg.die (p : Pkg) (d : Nat) : Die := SMap.get p.dies Die.init d
def Pkg.port (p : Pkg) (n : Nat) : Port := SMap.get p.ports Port.init n
def Pkg.ctlOf (p : Pkg) (fn : Nat) : Ctl := SMap.get p.ctl Ctl.init fn
def Pkg.mboxOf (p : Pkg) (fn : Nat) : Mbox := SMap.get p.mbox Mbox.init fn
def Pkg.frame (p : Pkg) (f : Nat) : FrameTag := SMap.get p.frames FrameTag.init f
def Pkg.dirSet (p : Pkg) (d : Nat) : DirSet := SMap.get p.dirs DirSet.init d

def Pkg.modCore (p : Pkg) (c : Nat) (f : Core → Core) : Pkg := { p with cores := SMap.set p.cores Core.init c (f (p.core c)) }
def Pkg.modCluster (p : Pkg) (c : Nat) (f : Cluster → Cluster) : Pkg :=
  { p with clusters := SMap.set p.clusters Cluster.init c (f (p.cluster c)) }
def Pkg.modDie (p : Pkg) (d : Nat) (f : Die → Die) : Pkg := { p with dies := SMap.set p.dies Die.init d (f (p.die d)) }
def Pkg.modPort (p : Pkg) (n : Nat) (f : Port → Port) : Pkg := { p with ports := SMap.set p.ports Port.init n (f (p.port n)) }
def Pkg.modCtl (p : Pkg) (fn : Nat) (f : Ctl → Ctl) : Pkg := { p with ctl := SMap.set p.ctl Ctl.init fn (f (p.ctlOf fn)) }
def Pkg.modMbox (p : Pkg) (fn : Nat) (f : Mbox → Mbox) : Pkg :=
  { p with mbox := SMap.set p.mbox Mbox.init fn (f (p.mboxOf fn)) }
def Pkg.setFrame (p : Pkg) (n : Nat) (t : FrameTag) : Pkg := { p with frames := SMap.set p.frames FrameTag.init n t }
def Pkg.modFrame (p : Pkg) (n : Nat) (f : FrameTag → FrameTag) : Pkg := p.setFrame n (f (p.frame n))

def State.modCore (s : State) (p c : Nat) (f : Core → Core) : State := s.modPkg p (fun q => q.modCore c f)
def State.modDie (s : State) (p d : Nat) (f : Die → Die) : State := s.modPkg p (fun q => q.modDie d f)
def State.coreOf (s : State) (p c : Nat) : Core := (s.pkgD p).core c

/-- The die and the cluster of a core (R13). -/
def dieOf (core : Nat) : Nat := core / 48
def clusterOf (core : Nat) : Nat := core / 8

/-! ## Items and events -/

/-- Put an item in flight under a fresh number. -/
def State.newItem (s : State) (i : Item) : State × Nat :=
  ({ s with items := SMap.put s.items s.nextId i, nextId := s.nextId + 1 }, s.nextId)
def State.setItem (s : State) (x : Nat) (i : Item) : State := { s with items := SMap.modify s.items x (fun _ => i) }
def State.dropItem (s : State) (x : Nat) : State := { s with items := SMap.del s.items x }
/-- An event of the part that will happen after those already waiting. -/
def State.later (s : State) (e : Instr) : State := { s with agenda := s.agenda ++ [e] }
/-- An event that will happen, unless it is waiting already. -/
def State.laterOnce (s : State) (e : Instr) : State := if e ∈ s.agenda then s else s.later e

def State.access? (s : State) (x : Nat) : Option Access := match s.item? x with | some (.access a) => some a | _ => none
def State.op? (s : State) (x : Nat) : Option Op := match s.item? x with | some (.op o) => some o | _ => none
def State.modAccess (s : State) (x : Nat) (f : Access → Access) : State :=
  { s with items := SMap.modify s.items x (fun i => match i with | .access a => .access (f a) | i => i) }
def State.modOp (s : State) (x : Nat) (f : Op → Op) : State :=
  { s with items := SMap.modify s.items x (fun i => match i with | .op o => .op (f o) | i => i) }

/-- The accesses in flight, with their numbers, oldest first. -/
def State.accesses (s : State) : List (Nat × Access) :=
  s.items.filterMap (fun (x, i) => match i with | .access a => some (x, a) | _ => none)
def State.ops (s : State) : List (Nat × Op) :=
  s.items.filterMap (fun (x, i) => match i with | .op o => some (x, o) | _ => none)
def State.wbs (s : State) : List (Nat × WriteBack) :=
  s.items.filterMap (fun (x, i) => match i with | .wb w => some (x, w) | _ => none)
def State.walks (s : State) : List (Nat × Walk) :=
  s.items.filterMap (fun (x, i) => match i with | .walk w => some (x, w) | _ => none)
def State.pageReqs (s : State) : List (Nat × PageReq) :=
  s.items.filterMap (fun (x, i) => match i with | .page r => some (x, r) | _ => none)
def State.injs (s : State) : List (Nat × Injection) :=
  s.items.filterMap (fun (x, i) => match i with | .inj j => some (x, j) | _ => none)

/-! ## Bytes -/

/-- Little-endian bytes of a number (R2). -/
def leBytes : Nat → Nat → List Byte
  | 0, _ => []
  | n + 1, v => BitVec.ofNat 8 v :: leBytes n (v / 256)

/-- The number little-endian bytes hold (R2). -/
def leNat : List Byte → Nat
  | [] => 0
  | b :: bs => b.toNat + 256 * leNat bs

/-- n bytes of a memory from an address up. -/
def memBytes (m : SMap Byte) (a : Nat) : Nat → List Byte
  | 0 => []
  | n + 1 => SMap.get m 0 a :: memBytes m (a + 1) n

/-- Write bytes into a memory from an address up, keeping its canonical form. -/
def memWrite (m : SMap Byte) (a : Nat) : List Byte → SMap Byte
  | [] => m
  | b :: bs => memWrite (SMap.set m 0 a b) (a + 1) bs

def memNat (m : SMap Byte) (a n : Nat) : Nat := leNat (memBytes m a n)

/-- One byte of global memory at its home (R147). -/
def State.gbyte (s : State) (a : Nat) : Byte := SMap.get s.gmem 0 a
def State.gbytes (s : State) (a n : Nat) : List Byte := memBytes s.gmem a n
def State.gnat (s : State) (a n : Nat) : Nat := memNat s.gmem a n
def State.gput (s : State) (a : Nat) (bs : List Byte) : State := { s with gmem := memWrite s.gmem a bs }

/-- The number of a host byte: the bridge's package and the 64-bit bus address. -/
def hostAddr (p a : Nat) : Nat := p * 2 ^ 64 + a % 2 ^ 64
def State.hbytes (s : State) (p a n : Nat) : List Byte := memBytes s.hmem (hostAddr p a) n
def State.hnat (s : State) (p a n : Nat) : Nat := memNat s.hmem (hostAddr p a) n
def State.hput (s : State) (p a : Nat) (bs : List Byte) : State := { s with hmem := memWrite s.hmem (hostAddr p a) bs }

/-! ## Line metadata (R125) -/

def State.lineMeta (s : State) (ga : Nat) : LineMeta := SMap.get s.lmeta LineMeta.init (ga / 128)
def State.modMeta (s : State) (ga : Nat) (f : LineMeta → LineMeta) : State :=
  { s with lmeta := SMap.set s.lmeta LineMeta.init (ga / 128) (f (s.lineMeta ga)) }

/-- Set or clear the TAG bit of the 8-byte word at an address (R201). -/
def State.setTag (s : State) (ga : Nat) (v : Bool) : State :=
  s.modMeta ga (fun m => { m with tag :=
    if v then m.tag ||| (1#16 <<< (ga / 8 % 16)) else m.tag &&& ~~~(1#16 <<< (ga / 8 % 16)) })
def State.tagAt (s : State) (ga : Nat) : Bool := (s.lineMeta ga).tag.getLsbD (ga / 8 % 16)

/-- Clear the TAG bit of every 8-byte word that n bytes from an address touch (R201). -/
def State.clearTags (s : State) (ga n : Nat) : State :=
  (List.range ((ga % 8 + n + 7) / 8)).foldl (fun t i => if t.tagAt (ga + 8 * i) then t.setTag (ga + 8 * i) false else t) s

/-! ## Counters (R271) -/

/-- The instances and the counters of each bank (R271). -/
def bankShape : List (Nat × Nat) := [(384, 25), (48, 1), (256, 5), (8, 2), (24, 2), (1, 37)]
/-- A counter: its bank and its number in the bank. -/
abbrev Ctr := Nat × Nat

/-- The key of a counter of an instance. -/
def ctrKey (c : Ctr) (inst : Nat) : Nat := c.1 * 2 ^ 24 + inst * 64 + c.2

/-- Add to a counter; it wraps modulo 2^64 (R271). -/
def Pkg.count (p : Pkg) (c : Ctr) (inst n : Nat) : Pkg :=
  { p with counters := SMap.set p.counters 0 (ctrKey c inst) (SMap.get p.counters 0 (ctrKey c inst) + BitVec.ofNat 64 n) }
def State.count (s : State) (p : Nat) (c : Ctr) (inst n : Nat) : State := s.modPkg p (fun q => q.count c inst n)
/-- Count one event of the package bank (bank 5). -/
def State.tally (s : State) (p c : Nat) : State := s.count p (5, c) 0 1

/-! ## Time and signals -/

/-- The package's timebase in ns (R264). -/
def State.now (s : State) (p : Nat) : Nat := (s.pkgD p).timebase
/-- Throttle level L lets a core issue, and its engines start blocks, in 16 − L of every 16 cycles: the first ones (R293). -/
def State.withheld (s : State) (p : Nat) : Bool := decide (16 ≤ (s.pkgD p).cyc % 16 + (s.pkgD p).boot.thrlvl)
def State.signal (s : State) (p : Nat) (x : Signal) : State := s.modPkg p (fun q => { q with signals := q.signals ++ [x] })

/-! ## Scratchpad of a share (R134) -/

def State.share? (s : State) (u j : Nat) : Option Share := (s.group? u).bind (fun g => g.shares[j]?)
def State.sbytes (s : State) (u j o n : Nat) : List Byte :=
  match s.share? u j with | some h => memBytes h.scratch o n | none => List.replicate n 0
def State.snat (s : State) (u j o n : Nat) : Nat := leNat (s.sbytes u j o n)
def State.sput (s : State) (u j o : Nat) (bs : List Byte) : State :=
  s.modShare u j (fun h => { h with scratch := memWrite h.scratch o bs })

/-- The share that holds a thread: crews of the shares in order (R60). -/
def shareIndexAt : List Share → Nat → Nat → Nat
  | [], _, j => j
  | h :: hs, crew, j => if crew < h.firstCrew + h.crews then j else shareIndexAt hs crew (j + 1)
def Group.shareIndex (g : Group) (t : Nat) : Nat := shareIndexAt g.shares (t / 32) 0

/-! ## Figures of a group (R52, R54) -/

def LaunchRec.crews (r : LaunchRec) : Nat := r.crewc + r.crewm + r.crewv
def LaunchRec.allot (r : LaunchRec) : Nat := 8 * r.regs8
def LaunchRec.window (r : LaunchRec) : Nat := min 128 r.allot
def LaunchRec.threads (r : LaunchRec) : Nat := 32 * r.crews
def LaunchRec.groups (r : LaunchRec) : Nat := r.gridx * r.gridy * r.gridz
def LaunchRec.scrBytes (r : LaunchRec) : Nat := 2048 * r.scrg
/-- PBASE of group g (R54). -/
def LaunchRec.pbase (r : LaunchRec) (g : Nat) : Nat := (r.privbase + g * r.privw * r.threads * 4) % 2 ^ 64
/-- The role of a crew: 0 COPY, 1 MATRIX, 2 VECTOR (R33). -/
def LaunchRec.role (r : LaunchRec) (crew : Nat) : Nat := if crew < r.crewc then 0 else if crew < r.crewc + r.crewm then 1 else 2

end Sys2Proof.Machine
end

