-- ==== Sys2Proof/Machine/Send.lean ====
section
/-! DEFINITION. Sending over the pod links: messages and control flits, sequence numbers, replay buffer, credits, the choice of a port
(R260 to R262). -/

namespace Sys2Proof.Machine

/-- Sequence numbers count modulo 2^16 (R260): how far b lies ahead of a. -/
def seqAhead (a b : Nat) : Nat := (b + 65536 - a % 65536) % 65536
/-- The port exists: 24 of a package (R13). -/
def State.portUp (s : State) (p n : Nat) : Bool := decide (n < 24) && ((s.pkgD p).port n).up && ((s.pkgD p).port n).trained
def State.modPort (s : State) (p n : Nat) (f : Port → Port) : State := s.modPkg p (fun q => q.modPort n f)
/-- A list of one credit for each channel. -/
def oneCredit (vc : Nat) : List Nat := (List.range 4).map (fun i => if i = vc then 1 else 0)

/-! ## Sending (R260, R261) -/

/-- Bits 63:16 of a flit's control word: channel, kind, sequence number, reserved bits (R260). -/
def controlOf (f : Flit) : Nat := f.vc % 4 * 2 ^ 46 + f.kind % 2 ^ 6 * 2 ^ 40 + f.seq % 2 ^ 16 * 2 ^ 24 + f.reserved % 2 ^ 24
/-- A flit passes its CRC: the CRC-16 matches, and no reserved bit is set (R260). -/
def crcPasses (f : Flit) : Bool := decide (f.reserved = 0) && decide (f.crc = Config.crc16 (controlOf f) f.payload)
/-- A flit with its CRC. -/
def sealFlit (f : Flit) : Flit := { f with crc := Config.crc16 (controlOf f) f.payload }

/-- What a message's header flit, or a control flit, names (R260); the codes on the link are free. -/
inductive MsgKind where
  | data | climb | pageMove | mark | invalidate | lineRead | lineWrite | lineReply | injection
  | audit | ack | replay
  deriving DecidableEq, Repr
def MsgKind.code : MsgKind → Nat
  | .data => 0 | .climb => 1 | .pageMove => 2 | .mark => 3 | .invalidate => 4 | .lineRead => 5 | .lineWrite => 6 | .lineReply => 7 | .injection => 8
  | .audit => 9 | .ack => 10 | .replay => 11
/-- An audit, an acknowledgement with credits, or the request for a replay: one flit, never counted against credits (R260 to R262). -/
def LinkMsg.control (m : LinkMsg) : Bool := decide (9 ≤ m.kind)
/-- The KIND that a message's code takes on the link. -/
def MsgKind.wire (k : MsgKind) : Nat := Config.flitKind k.code % 64

/-- The next flit of a message: its header, then its data, 64 bytes each; a control flit holds its contents (R260, R262). -/
def State.msgFlit (s : State) (m : LinkMsg) (seq : Nat) : Flit :=
  let head := decide (m.sent = 0)
  sealFlit { vc := m.vc, kind := Config.flitKind (if head then m.kind else MsgKind.data.code) % 64, seq := seq, reserved := 0,
             payload := if m.control then Config.flitControl m.kind m.body
               else if head then Config.flitHeader m.kind m.dest m.addr
               else BitVec.ofNat 512 (leNat (s.gbytes (m.base + 64 * (m.sent - 1)) 64)),
             crc := 0 }
/-- The port may send a new flit: n − (lowest unacknowledged) < 512 (R261). -/
def Port.mayNew (k : Port) : Bool := k.up && k.trained && decide (seqAhead k.txAck k.txNext < 512)
/-- The message to send from next: the oldest control flit, else the oldest message whose channel has a credit; a channel without
credit stalls only itself (R261). -/
def Port.nextMsg (k : Port) : Option Nat :=
  (k.queue.findIdx? LinkMsg.control).orElse (fun _ => k.queue.findIdx? (fun m => decide (0 < k.credits.getD m.vc 0)))
/-- Send one flit of a message of the queue. -/
def Port.sendOne (k : Port) (i : Nat) (m : LinkMsg) (f : Flit) : Port :=
  { k with
    queue := if m.data ≤ m.sent then k.queue.eraseIdx i else k.queue.set i { m with sent := m.sent + 1 },
    credits := if m.control then k.credits else k.credits.modify m.vc (· - 1), txNext := (k.txNext + 1) % 65536, replay := k.replay ++ [f],
    outFlits := k.outFlits ++ [f], sinceAudit := k.sinceAudit + 1 }
/-- Send flits while the window and the credits allow. -/
def State.pumpFor : Nat → Nat → Nat → State → State
  | 0, _, _, s => s
  | n + 1, p, port, s =>
    let k := (s.pkgD p).port port
    match (if k.mayNew then k.nextMsg else none) with
    | none => s
    | some i => match k.queue[i]? with
      | none => s
      | some m => State.pumpFor n p port (s.modPort p port (fun k => k.sendOne i m (s.msgFlit m k.txNext)))
/-- The port sends what it can, and an audit is due after every 4,096 flits (R261, R262). -/
def State.pump (s : State) (p port : Nat) : State :=
  if ((s.pkgD p).port port).queue.isEmpty then s
  else
    let s := State.pumpFor 512 p port s
    if 4096 ≤ ((s.pkgD p).port port).sinceAudit then s.laterOnce (.windowAuditSend p port) else s

/-- The port that firmware's tables give for a destination: the first usable one from DEST mod 24 on (R262; log entry 93). -/
def State.routePort (s : State) (p dest : Nat) : Nat :=
  (((List.range 24).map (fun i => (dest + i) % 24)).find? (s.portUp p)).getD (dest % 24)
/-- A message leaves a package for another. -/
def State.sendMsg (s : State) (p dest vc : Nat) (kind : MsgKind) (addr base data : Nat) : State :=
  if p = dest || (s.pkg? p).isNone then s
  else
    let port := s.routePort p dest
    let m : LinkMsg := { vc := vc, kind := kind.code, dest := dest, addr := addr, base := base, data := data, sent := 0,
                         body := [] }
    (s.modPort p port (fun k => { k with queue := k.queue ++ [m] })).pump p port
/-- A page movement: one header flit and the page's 512 lines, 1,024 data flits (R144, R260). -/
def State.sendPage (s : State) (p dest vc g : Nat) : State := s.sendMsg p dest vc .pageMove g (g * 65536) 1024
/-- A line access of a page on another package: a header flit each way, with two data flits for the line (R148, R260). -/
def State.sendLine (s : State) (p q ga : Nat) (write : Bool) : State :=
  let line := ga / 128 * 128
  if write then (s.sendMsg p q 0 .lineWrite ga line 2).sendMsg q p 1 .lineReply ga 0 0
  else (s.sendMsg p q 0 .lineRead ga 0 0).sendMsg q p 1 .lineReply ga line 2
/-- A control flit of package p, on channel 0 (R260). -/
def controlMsg (p : Nat) (kind : MsgKind) (body : List Nat) : LinkMsg :=
  { vc := 0, kind := kind.code, dest := p, addr := 0, base := 0, data := 0, sent := 0, body := body }
/-- A control flit leaves a port. -/
def State.sendControl (s : State) (p port : Nat) (kind : MsgKind) (body : List Nat) : State :=
  (s.modPort p port (fun k => { k with queue := k.queue ++ [controlMsg p kind body] })).pump p port

end Sys2Proof.Machine
end

