-- ==== Sys2Proof/Machine/Cache.lean ====
section
/-! DEFINITION. Caches and coherence on the package: L1 lines with word-grained ownership, write-backs, home, proxy and
replica slices, and the recalls a home makes (R162 to R176). The home's register of sharers and owners is what the L1s and
the write-backs in flight hold (R165). -/

namespace Sys2Proof.Machine

/-! ## Pages and frames (R136, R137) -/

/-- The set of a page (R136). -/
def pageSet (g : Nat) : Nat := (bitsOf g 19 0) ^^^ (bitsOf g 39 20)
/-- The ordinary ways of a set (R137). -/
def ordinaryWays (set : Nat) : List Nat :=
  (List.range 16).filter (fun w => !(decide (w = 15) && decide (set % 4 = 0)) && !(decide (w = 14) && decide (set % 16 = 0)))
/-- The frames a lookup of a page searches: the ordinary ways of its set, then the reserve way of its quad (R137). -/
def pageFrames (g : Nat) : List Nat :=
  (ordinaryWays (pageSet g)).map (fun w => pageSet g * 16 + w) ++ [pageSet g / 4 * 4 * 16 + 15]
/-- The frame of a package that holds a page in any state but INVALID. -/
def Pkg.frameOf (p : Pkg) (g : Nat) : Option Nat :=
  (pageFrames g).find? (fun f => decide ((p.frame f).state ≠ 0) && decide ((p.frame f).gpn = g))
/-- The state of a page in a package, 0 when no frame holds it. -/
def Pkg.pageState (p : Pkg) (g : Nat) : Nat := match p.frameOf g with | some f => (p.frame f).state | none => 0
/-- States of R139. -/
def fsReplica : Nat := 1
def fsSole : Nat := 2
def fsShared : Nat := 3
def fsFilling : Nat := 4
def fsUpgrading : Nat := 5
def fsYielding : Nat := 6
def fsInjecting : Nat := 7

/-- A frame state that holds the master mark. -/
def isMasterState (x : Nat) : Bool := decide (x = 2) || decide (x = 3) || decide (x = 6) || decide (x = 7)

/-- A package's copy of a page is the second master of a mirrored page (R159). -/
def Pkg.isSecond (p : Pkg) (g : Nat) : Bool := match p.frameOf g with | some f => (p.frame f).second | none => false
/-- The package whose frame holds the master of a page: the first one of a mirrored page, at whose home slices its writes serialise
(R147, R159). -/
def State.masterOf (s : State) (g : Nat) : Option Nat :=
  let ms := s.pkgs.filter (fun ((_, p) : Nat × Pkg) => !p.lost && isMasterState (p.pageState g))
  ((ms.find? (fun (_, p) => !p.isSecond g)).orElse (fun _ => ms.head?)).map (·.1)

/-- The home die and slice within the die of a line (R162). -/
def homeDie (ga : Nat) : Nat := bitsOf (pageSet (ga / 65536)) 7 4 / 2
def homeSliceIn (ga : Nat) : Nat := (bitsOf ga 11 7) ^^^ (bitsOf (pageSet (ga / 65536)) 12 8)
/-- The home slice in the package's numbering (R162). -/
def homeSlice (ga : Nat) : Nat := 32 * homeDie ga + homeSliceIn ga

/-! ## Bytes and words of a line -/

def lineBase (ga : Nat) : Nat := ga / 128 * 128
def lineByte (d : Line) (i : Nat) : Byte := (d >>> (8 * i)).setWidth 8
/-- The bytes of a set of words. -/
def wordsMask (w : BitVec 32) : BitVec 128 :=
  (List.range 32).foldl (fun m i => if w.getLsbD i then m ||| (0xF#128 <<< (4 * i)) else m) 0
/-- Replace the masked bytes of a line. -/
def linePatch (old new : Line) (mask : BitVec 128) : Line :=
  let m := (List.range 128).foldl (fun (m : Line) i => if mask.getLsbD i then m ||| (0xFF#1024 <<< (8 * i)) else m) 0
  (old &&& ~~~m) ||| (new &&& m)
/-- The words that n bytes from a line offset touch. -/
def wordsOf (off n : Nat) : BitVec 32 :=
  if n = 0 then 0 else
    (List.range ((off % 4 + n + 3) / 4)).foldl (fun m i => m ||| (1#32 <<< (off / 4 + i))) 0
/-- The mask of n bytes from a line offset. -/
def bytesMask (off n : Nat) : BitVec 128 := (BitVec.ofNat 128 (2 ^ n - 1)) <<< off
/-- A line with bytes laid at an offset. -/
def lineOfBytes (off : Nat) (bs : List Byte) : Line := BitVec.ofNat 1024 (leNat bs * 2 ^ (8 * off))
/-- n bytes of a line from an offset. -/
def lineBytes (d : Line) (off n : Nat) : List Byte := leBytes n (d.toNat / 2 ^ (8 * off))

def State.gline (s : State) (ga : Nat) : Line := BitVec.ofNat 1024 (leNat (s.gbytes (lineBase ga) 128))
/-- Write the masked bytes of a line at the master's home. -/
def State.gpatch (s : State) (ga : Nat) (d : Line) (mask : BitVec 128) : State :=
  let s := if mask = ~~~0 && !(s.lineMeta ga).poison.isEmpty then s.modMeta ga (fun m => { m with poison := [] }) else s
  { s with gmem := (List.range 128).foldl
                     (fun m i => if mask.getLsbD i then SMap.set m 0 (lineBase ga + i) (lineByte d i) else m) s.gmem }

/-! ## Line codes (R123) -/

def halfHighs (d : Line) : List Nat := (List.range 64).map (fun i => (lineByte d (2 * i + 1)).toNat)
/-- The code a slice chooses for a line written back under a page's CMP: the allowed code that moves the fewest bytes. -/
def lineCode (cmp : Nat) (d : Line) : Nat :=
  let w (i : Nat) : Nat := d.toNat / 2 ^ (32 * i) % 2 ^ 32
  if cmp ≠ 0 && d = 0 then 1
  else if cmp = 2 && (List.range 32).all (fun i => decide ((w i + 2 ^ 32 - w 0 + 128) % 2 ^ 32 < 256)) then 2
  else if cmp = 3 && decide ((halfHighs d).eraseDups.length ≤ 4) then 3
  else 0

/-- The 128 bytes a line occupies in the form of a code; pad bytes are zero and the dictionary holds high bytes in the order
of their first halfwords (log entry 33). -/
def lineForm (code : Nat) (d : Line) : List Byte :=
  let w (i : Nat) : Nat := d.toNat / 2 ^ (32 * i) % 2 ^ 32
  match code with
  | 1 => []
  | 2 => leBytes 4 (w 0) ++ (List.range 31).map (fun i => BitVec.ofNat 8 (w (i + 1) + 2 ^ 32 - w 0)) ++ List.replicate 29 0
  | 3 =>
    let dict := (halfHighs d).eraseDups
    let ix := (halfHighs d).map (fun h => dict.idxOf h)
    (List.range 4).map (fun i => BitVec.ofNat 8 (dict.getD i 0)) ++
      leBytes 16 ((ix.zipIdx).foldl (fun n (v, i) => n + v * 4 ^ i) 0) ++
      (List.range 64).map (fun i => lineByte d (2 * i)) ++ List.replicate 12 0
  | _ => leBytes 128 d.toNat
/-- The line that the stored form of a code reads as. -/
def lineUnform (code : Nat) (bs : List Byte) : Line :=
  match code with
  | 1 => 0
  | 2 =>
    let b := leNat (bs.take 4)
    (List.range 31).foldl (fun (d : Line) i =>
      d ||| (BitVec.ofNat 1024 ((b + ((bs.getD (4 + i) 0).signExtend 32).toNat) % 2 ^ 32) <<< (32 * (i + 1))))
      (BitVec.ofNat 1024 b)
  | 3 =>
    let ix := leNat ((bs.drop 4).take 16)
    (List.range 64).foldl (fun (d : Line) i =>
      d ||| (BitVec.ofNat 1024 ((bs.getD (ix / 4 ^ i % 4) 0).toNat * 256 + (bs.getD (20 + i) 0).toNat) <<< (16 * i))) 0
  | _ => BitVec.ofNat 1024 (leNat bs)

/-- The address of the byte that holds a line's code in the tenant's side table, if the tenant has a block there (R124). -/
def State.codeAt (s : State) (c : PageCmp) (ga : Nat) : Option Nat :=
  (List.find? (fun ((_, b) : Nat × Block) => decide (b.level = 0) && decide (b.regid = c.tenant)) (s.pkgD c.pkg).blocks).map
    (fun (_, b) => b.cmpbase + 256 * c.sidx + ga / 128 % 512 / 2)
/-- The code that a mapping gives a line: in the side table, or in the line's metadata (R123 to R125). -/
def State.codeOf (s : State) (c : PageCmp) (ga : Nat) : Nat :=
  if c.side then match s.codeAt c ga with
    | some a => (s.gbyte a).toNat / 16 ^ (ga / 128 % 2) % 8
    | none => 0
  else (s.lineMeta ga).cmp
/-- Write a line's nibble of a side table; bit 3 is zero (R124). -/
def State.putNibble (s : State) (c : PageCmp) (ga code : Nat) : State :=
  match s.codeAt c ga with
  | some a =>
    let b := (s.gbyte a).toNat
    let n := ga / 128 % 2
    s.gput a [BitVec.ofNat 8 (b - b / 16 ^ n % 16 * 16 ^ n + code * 16 ^ n)]
  | none => s
/-- Record the code that a slice has chosen for a line (R123 to R125). -/
def State.putCode (s : State) (c : PageCmp) (ga code : Nat) : State :=
  if c.side then (s.putNibble c ga code).modMeta ga (fun m => { m with form := code, cmp := 0 })
  else if (s.lineMeta ga).cmp = code then s else s.modMeta ga (fun m => { m with cmp := code })
/-- The mapping that a page was last written through: inline and without compression where there is none yet. -/
def State.mappingOf (s : State) (ga : Nat) : PageCmp := (SMap.find? s.pageCmp (ga / 65536)).getD ⟨0, false, 0, 0, 0, false⟩
/-- A slice writes a line back under its page's CMP (R123): the code that moves the fewest bytes. -/
def State.recode (s : State) (ga : Nat) : State :=
  let c := s.mappingOf ga
  s.putCode c ga (lineCode c.cmp (s.gline ga))

/-! ## The place a die's accesses find the home of a line (R162, R173) -/

/-- The home of a line for a die: the master's home slice, or the die's SWM proxy. -/
inductive HomeAt where
  | mem
  | proxy (p d : Nat)
  deriving DecidableEq, Repr

/-- The true home of an SWM line lies on another die or another package (R162). -/
def State.homeAt (s : State) (p d mtype ga : Nat) : HomeAt :=
  if mtype = 2 && (!((s.pkgD p).frameOf (ga / 65536)).isSome || decide (homeDie ga ≠ d)) then .proxy p d else .mem

/-- The L1s a home keeps coherent: of the die for SWM, of the pod otherwise (R173). -/
def inDomain (mtype p d q c : Nat) : Bool := if mtype = 2 then decide (q = p) && decide (dieOf c = d) else true

/-- The slice line of a kind. -/
def Pkg.sliceLine (p : Pkg) (slice ga kind : Nat) : Option SliceLine :=
  p.slices.find? (fun l => decide (l.slice = slice) && decide (l.ga = lineBase ga) && decide (l.kind = kind))
def Pkg.dropSlice (p : Pkg) (slice ga kind : Nat) : Pkg :=
  { p with slices := p.slices.filter
                       (fun l => !(decide (l.slice = slice) && decide (l.ga = lineBase ga) && decide (l.kind = kind))) }

/-- The set of a slice that a line lies in: bits 21:12 of the address (log entry 30). -/
def sliceSet (ga : Nat) : Nat := ga / 4096 % 1024
/-- The package that holds the second master of a mirrored page (R159). -/
def State.secondOf (s : State) (g : Nat) : Option Nat :=
  (List.find? (fun ((_, p) : Nat × Pkg) => !p.lost && p.isSecond g && isMasterState (p.pageState g)) s.pkgs).map (·.1)
/-- A write of a line at the home of a mirrored page's first master is sent to the second (R159). -/
def State.mirrorWrite (s : State) (ga : Nat) : State :=
  match s.masterOf (ga / 65536), s.secondOf (ga / 65536) with
  | some q, some r => s.sendMsg q r 0 .lineWrite ga (lineBase ga) 2
  | _, _ => s
/-- Masked bytes of a line are stored at its home, in the form that its page's CMP gives it (R123, R159). -/
def State.homeStore (s : State) (ga : Nat) (d : Line) (mask : BitVec 128) : State := ((s.gpatch ga d mask).recode ga).mirrorWrite ga
/-- Make room in a slice's set: with 16 lines the least recent one leaves, a proxy's dirty bytes going to the true home (R176,
R192). The lines of a package stand in the order of use, the most recent first. -/
def State.sliceRoom (s : State) (p slice ga : Nat) : State :=
  let inSet := (s.pkgD p).slices.filter (fun m => decide (m.slice = slice) && decide (sliceSet m.ga = sliceSet ga))
  if inSet.length < 16 then s
  else match inSet.getLast? with
    | none => s
    | some v =>
      let s := if v.kind = 1 && v.dirty ≠ 0 then s.homeStore v.ga v.data v.dirty else s
      s.modPkg p (fun q => q.dropSlice v.slice v.ga v.kind)
/-- Put a line in a slice: a line that is there becomes the most recent and keeps its tag; a fill takes the launch's tag, and a
streaming one goes to the eviction end (R68, R176). -/
def State.slicePut (s : State) (p : Nat) (l : SliceLine) (stream : Bool) : State :=
  match (s.pkgD p).sliceLine l.slice l.ga l.kind with
  | some m => s.modPkg p (fun q => { q with slices := { l with chain := m.chain } :: (q.dropSlice l.slice l.ga l.kind).slices })
  | none => (s.sliceRoom p l.slice l.ga).modPkg p (fun q => { q with slices := if stream then q.slices ++ [l] else l :: q.slices })

/-- The line is in a home slice, in plain form (R123). -/
def State.inSlice (s : State) (ga : Nat) : Bool :=
  s.pkgs.any (fun ((_, q) : Nat × Pkg) => (q.sliceLine (homeSlice ga) ga 0).isSome)
/-- A fill from HBM decodes the line by its own code (R123): where the code of the side table is not the one that the line was stored
under, it reads as that code has it. -/
def State.decodeLine (s : State) (ga : Nat) : State :=
  match SMap.find? s.pageCmp (ga / 65536) with
  | none => s
  | some c =>
    let code := s.codeOf c ga
    let form := (s.lineMeta ga).form
    if !c.side || code = form || 4 ≤ code || s.inSlice ga then s
    else
      let d := lineUnform code (lineForm form (s.gline ga))
      (s.gpatch ga d (~~~0)).modMeta ga (fun m => { m with form := code })

/-- Line n of a page goes over from the line codes of one mapping to another's: outside the slices, where it lies in the form of its old
code, it reads as its new one has it (R123, R124). -/
def State.recodeLine (s : State) (c d : PageCmp) (ga : Nat) : State :=
  let m := s.lineMeta ga
  let old := if c.side then m.form else m.cmp
  let new := if d.side then s.codeOf d ga else if c.side then 0 else m.cmp
  let s := if new = old || 4 ≤ new || s.inSlice ga then s else s.gpatch ga (lineUnform new (lineForm old (s.gline ga))) (~~~0)
  let m' := { m with form := if d.side then new else 0, cmp := if d.side then 0 else new }
  if m' = m then s else s.modMeta ga (fun _ => m')
/-- A page goes over to another mapping. -/
def State.recodePage (s : State) (c d : PageCmp) (g : Nat) : State :=
  (List.range 512).foldl (fun s i => State.recodeLine s c d (g * 65536 + 128 * i)) s

/-- A line in a slice with no byte of its own data: a home line (R176). -/
def homeSliceLine (ga chain : Nat) : SliceLine :=
  { slice := homeSlice ga, ga := lineBase ga, kind := 0, data := 0, valid := 0, dirty := 0, chain := chain }
/-- The line reaches its home slice: a fill there decodes it and raises ACT (R125), and takes the launch's chain tag (R68). -/
def State.slicePass (s : State) (q ga chain : Nat) (stream : Bool) : State :=
  let s := if ((s.pkgD q).sliceLine (homeSlice ga) ga 0).isSome then s
    else (s.decodeLine ga).modMeta ga (fun m => { m with act := min 15 (m.act + 1) })
  s.slicePut q (homeSliceLine ga chain) stream

/-- An access of the line at its home slice, where a package holds the page: the line is there, and the most recent of its set (R176). -/
def State.homePass (s : State) (ga chain : Nat) : State :=
  match s.masterOf (ga / 65536) with
  | some q => s.slicePass q ga chain false
  | none => s.decodeLine ga

/-- The proxy line of a die, filled from the true home where it holds no byte (R173). -/
def State.proxyLine (s : State) (p d ga chain : Nat) : SliceLine :=
  let slice := 32 * d + homeSliceIn ga
  match (s.pkgD p).sliceLine slice ga 1 with
  | some l => { l with data := linePatch (s.gline ga) l.data l.valid, valid := ~~~0 }
  | none => { slice := slice, ga := lineBase ga, kind := 1, data := s.gline ga, valid := ~~~0, dirty := 0, chain := chain }

/-- The data of a line as its home holds it. -/
def State.homeLine (s : State) (h : HomeAt) (ga chain : Nat) (stream : Bool) : State × Line :=
  let s := s.decodeLine ga
  match h with
  | .mem => (s, s.gline ga)
  | .proxy p d => let l := s.proxyLine p d ga chain; (s.slicePut p l stream, l.data)

/-- Merge masked bytes into the home copy of a line (R166). -/
def State.homeMerge (s : State) (h : HomeAt) (ga : Nat) (d : Line) (mask : BitVec 128) (chain : Nat) : State :=
  match h with
  | .mem => (s.homePass ga chain).homeStore ga d mask
  | .proxy p e =>
    let slice := 32 * e + homeSliceIn ga
    let l := ((s.pkgD p).sliceLine slice ga 1).getD
      { slice := slice, ga := lineBase ga, kind := 1, data := 0, valid := 0, dirty := 0, chain := chain }
    s.slicePut p { l with data := linePatch l.data d mask, valid := l.valid ||| mask, dirty := l.dirty ||| mask } false

/-- Send a proxy's dirty bytes to the true home; the bytes become clean (R173). -/
def State.proxyFlush (s : State) (p : Nat) (l : SliceLine) : State :=
  (s.homeMerge .mem l.ga l.data l.dirty l.chain).modPkg p (fun q =>
    { q with slices := q.slices.map (fun m => if m = l then { l with dirty := 0 } else m) })

/-! ## L1 lines (R164) -/

/-- The core whose L1 holds a line for a core: in a fused cluster, core bits 9:7 of the address (R169). -/
def State.l1Core (s : State) (p c ga : Nat) : Nat :=
  if ((s.pkgD p).cluster (clusterOf c)).fused then clusterOf c * 8 + bitsOf ga 9 7 else c

def Core.l1Line (c : Core) (ga : Nat) : Option L1Line := c.l1.find? (fun l => decide (l.ga = lineBase ga))
def Core.l1Drop (c : Core) (ga : Nat) : Core := { c with l1 := c.l1.filter (fun l => decide (l.ga ≠ lineBase ga)) }
/-- Replace a line in place, or drop it once it holds nothing. -/
def Core.l1Set (c : Core) (l : L1Line) : Core :=
  if l.valid = 0 && l.dirty = 0 && l.owned = 0 then c.l1Drop l.ga
  else { c with l1 := c.l1.map (fun m => if m.ga = l.ga then l else m) }

/-- The bytes a write-back carries: whole words where the word is valid, written bytes elsewhere (R166). Of an SWM line only the
bytes that stores wrote, so that two dies that wrote different bytes of a word both keep theirs (R173, R352). -/
def L1Line.carried (l : L1Line) (words : BitVec 32) : BitVec 128 :=
  if l.mtype = 2 then wordsMask words &&& l.mask
  else (wordsMask (words &&& l.valid)) ||| (wordsMask (words &&& ~~~l.valid) &&& l.mask)

/-- The dirty words of a line have been sent: they are clean and stay owned. The written bytes of an SWM line are forgotten with
them, so that a later write-back carries later stores alone. -/
def L1Line.cleaned (l : L1Line) : L1Line :=
  { l with dirty := 0, by_ := [], mask := if l.mtype = 2 then l.mask &&& ~~~(wordsMask l.dirty) else l.mask }

/-- A private line (R132) or an SWM line keeps its type's home (R173). -/
def State.lineHome (s : State) (p c : Nat) (l : L1Line) : HomeAt := s.homeAt p (dieOf c) l.mtype l.ga

/-- Bytes of a later owner, or of a write at the home, have arrived: the older write-backs on their way to it no longer bring theirs
(R167). -/
def State.wbKill (s : State) (mtype p d ga : Nat) (words : BitVec 32) (before : Nat) : State :=
  { s with items := s.items.map (fun ((x, i) : Nat × Item) => match i with
      | .wb w => (x, if decide (w.ga = lineBase ga) && inDomain mtype p d w.pkg w.core && decide (x < before) then
          .wb { w with dead := w.dead ||| (words &&& w.words) } else i)
      | _ => (x, i)) }

/-- Take words of a line away from one L1: the dirty bytes go to the home, ownership ends, and validity too when the
recall invalidates (R165). -/
def State.l1Recall (s : State) (p c : Nat) (l : L1Line) (words : BitVec 32) (inval : Bool) : State :=
  let give := words &&& l.owned
  let s := if give = 0 then s
    else (s.homeMerge (s.lineHome p c l) l.ga l.data (l.carried give) l.chain).wbKill l.mtype p (dieOf c) l.ga give s.nextId
  let l' := { l with dirty := l.dirty &&& ~~~words, owned := l.owned &&& ~~~words,
                     mask := l.mask &&& ~~~(wordsMask words),
                     valid := if inval then l.valid &&& ~~~words else l.valid }
  s.modCore p c (fun k => k.l1Set l')

/-- The words that a write-back still brings and the home has not taken from its buffer. -/
def WriteBack.fresh (w : WriteBack) : BitVec 32 := w.words &&& ~~~w.dead &&& ~~~w.passed
/-- The bytes of a write-back's words merge at the home. -/
def State.wbApply (s : State) (w : WriteBack) (words : BitVec 32) : State :=
  if words = 0 then s
  else s.homeMerge (s.homeAt w.pkg (dieOf w.core) w.mtype w.ga) w.ga w.data (w.mask &&& wordsMask words) w.chain
/-- The home takes words of a write-back from its buffer; they are passed, and its arrival brings them once more (R167). -/
def State.wbMerge (s : State) (x : Nat) (w : WriteBack) (words : BitVec 32) : State :=
  let give := words &&& w.fresh
  if give = 0 then s
  else
    let s := s.wbApply w give
    { s with items := SMap.modify s.items x (fun _ => .wb { w with passed := w.passed ||| give }) }

/-- Answer from a write-back in flight (R167). -/
def State.wbPass (s : State) (x : Nat) (w : WriteBack) (words : BitVec 32) : State :=
  if words &&& w.fresh = 0 then s else (s.wbMerge x w words).count w.pkg (0, 14) w.core 1

/-- Every (package, core) with an L1 line at an address in the domain of its home. -/
def State.holders (s : State) (mtype p d ga : Nat) : List (Nat × Nat × L1Line) :=
  s.pkgs.flatMap (fun (q, pk) => pk.cores.filterMap (fun (c, k) =>
    if inDomain mtype p d q c then (k.l1Line ga).map (fun l => (q, c, l)) else none))

/-- Invalidate the victim replicas of a line in a package (R172). -/
def State.dropReplicas (s : State) (p ga : Nat) : State :=
  let n := ((s.pkgD p).slices.filter (fun l => decide (l.kind = 2) && decide (l.ga = lineBase ga))).length
  if n = 0 then s
  else (s.modPkg p (fun q => { q with slices := q.slices.filter
                                                  (fun l => !(decide (l.kind = 2) && decide (l.ga = lineBase ga))) })).count p (2, 1) (homeSlice ga) n
/-- Invalidate them in every package. -/
def State.dropAllReplicas (s : State) (ga : Nat) : State := s.pkgs.foldl (fun s (q, _) => s.dropReplicas q ga) s

/-- Recall words of a line from the write-backs in flight and from every L1 but one (R165, R167). Replicas of the line are
invalidated before a word is recalled or its ownership is granted (R172). -/
def State.recall (s : State) (mtype p d ga : Nat) (words : BitVec 32) (inval : Bool) (keep : Option (Nat × Nat)) : State :=
  let wbs := s.wbs.filter (fun (_, w) => decide (w.ga = lineBase ga) && inDomain mtype p d w.pkg w.core && decide (words &&& w.fresh ≠ 0))
  let from_ := (s.holders mtype p d ga).filter (fun (q, c, _) => keep ≠ some (q, c))
  let s := if inval || !wbs.isEmpty || from_.any (fun (_, _, l) => decide (words &&& l.owned ≠ 0)) then s.dropAllReplicas ga else s
  let s := wbs.foldl (fun s (x, w) => s.wbPass x w words) s
  from_.foldl (fun s (q, c, l) =>
    if inval then s.l1Recall q c l words true else s.l1Recall q c l (words &&& l.owned) false) s

/-- The same before the home itself is written: what the write-backs on their way still carry of the words is older (R167). -/
def State.recallAll (s : State) (mtype p d ga : Nat) (words : BitVec 32) : State :=
  (s.recall mtype p d ga words true none).wbKill mtype p d ga words s.nextId

/-- Read n bytes within one line at the home, coherently: owned words are recalled first (R165). -/
def State.homeRead (s : State) (ga n : Nat) : State × List Byte :=
  let s := (s.recall 0 0 0 ga (wordsOf (ga % 128) n) false none).homePass ga 0
  (s, s.gbytes ga n)

/-- Write bytes within one line at the home, coherently: sharers are invalidated and owners recalled first. -/
def State.homeWrite (s : State) (ga : Nat) (bs : List Byte) : State :=
  let s := (s.recallAll 0 0 0 ga (wordsOf (ga % 128) bs.length)).homePass ga 0
  (((s.gput ga bs).clearTags ga bs.length).recode ga).mirrorWrite ga

/-- Cut a run of bytes at line ends: (address, length) pieces. -/
def linePieces : Nat → Nat → Nat → List (Nat × Nat)
  | 0, _, _ => []
  | f + 1, a, n => if n = 0 then [] else
      let k := min n (128 - a % 128)
      (a, k) :: linePieces f (a + k) (n - k)

/-! ## Eviction and fill (R166, R172) -/

/-- Send the given dirty words of a line as a write-back, with the epochs of the cores that dirtied it; the buffer is the item in
flight (R166, R169, R174). -/
def State.sendWB (s : State) (p c : Nat) (l : L1Line) (words : BitVec 32) : State :=
  let w : WriteBack := { pkg := p, core := c, tags := l.by_.map (fun (d, _) => (d, (s.coreOf p d).epoch)), ga := l.ga, data := l.data,
                         words := words, mask := l.carried words, passed := 0, dead := 0, mtype := l.mtype, chain := l.chain }
  let (s, x) := s.newItem (.wb w)
  (s.count p (0, 13) c 1).later (.writeBackArrival x)

/-- Evict a line from an L1: dirty words go back; a clean line is dropped with its notice and may be copied into the die's
replica slice (R166, R172). -/
def State.l1Evict (s : State) (p c : Nat) (l : L1Line) : State :=
  let s := s.modCore p c (fun k => k.l1Drop l.ga)
  if l.dirty ≠ 0 then s.sendWB p c l l.dirty
  else
    let pk := s.pkgD p
    match pk.frameOf (l.ga / 65536) with
    | none => s
    | some f =>
      let t := pk.frame f
      let typeOk := decide (l.mtype = 0) || (decide (l.mtype = 1) && decide ((s.lineMeta l.ga).vis = 2))
      if typeOk && decide (homeDie l.ga ≠ dieOf c) && decide (t.owr = 0) && decide (8 ≤ t.ord) && decide (t.mode = 0) then
        let sl := 32 * dieOf c + homeSliceIn l.ga
        let r : SliceLine := { slice := sl, ga := l.ga, kind := 2, data := l.data, valid := wordsMask l.valid, dirty := 0,
                               chain := l.chain }
        (s.slicePut p r l.stream).count p (2, 0) sl 1
      else s
/-- The data of a line that a victim replica of the die holds for some words (R172). -/
def State.replicaOf (s : State) (p d ga : Nat) (words : BitVec 32) : Option SliceLine :=
  if homeDie ga = d then none
  else ((s.pkgD p).sliceLine (32 * d + homeSliceIn ga) ga 2).filter (fun l => decide (wordsMask words &&& ~~~l.valid = 0))

/-- The set of an L1 that a line lies in: bits 13:7 of the address, and bits 16:10 in a fused cluster, whose bits 9:7 choose the L1
(R164, R169, log entry 30). -/
def State.l1SetOf (s : State) (p c ga : Nat) : Nat :=
  if ((s.pkgD p).cluster (clusterOf c)).fused then ga / 1024 % 128 else ga / 128 % 128
/-- Put a line in an L1, whose lines stand in the order of use: a line that is there becomes the most recent; a fill of a full set of
16 ways evicts its least recent line first, and a streaming fill goes to the least recent end (R164). -/
def State.l1Put (s : State) (p c : Nat) (l : L1Line) : State :=
  let k := s.coreOf p c
  if (k.l1Line l.ga).isSome then s.modCore p c (fun k => { k with l1 := l :: (k.l1Drop l.ga).l1 })
  else
    let inSet := k.l1.filter (fun m => decide (s.l1SetOf p c m.ga = s.l1SetOf p c l.ga))
    let s := match (if 16 ≤ inSet.length then inSet.getLast? else none) with
      | some v => s.l1Evict p c v
      | none => s
    s.modCore p c (fun k => { k with l1 := if l.stream then k.l1 ++ [l] else l :: k.l1 })

/-- A line with nothing in it yet, for a launch's chain tag. -/
def emptyL1 (ga mtype : Nat) (stream : Bool) (chain : Nat) : L1Line :=
  { ga := lineBase ga, data := 0, valid := 0, dirty := 0, owned := 0, mask := 0, by_ := [], stream := stream, mtype := mtype,
    chain := chain, priv := none }

/-- Fill words that a line lacks from fetched data: the bytes merge under the written ones (R165). -/
def L1Line.fill (l : L1Line) (d : Line) (words : BitVec 32) : L1Line :=
  let keep := (wordsMask (l.valid ||| ~~~words)) ||| l.mask
  { l with data := linePatch l.data d (~~~keep), valid := l.valid ||| words }

/-- The words of which a byte mask has all four bytes. -/
def fullWords (b : BitVec 128) : BitVec 32 :=
  (List.range 32).foldl (fun m i => if b.toNat / 16 ^ i % 16 = 15 then m ||| (1#32 <<< i) else m) 0

/-- Write bytes into a line whose words the L1 owns; the byte mask marks them, and a word of which every byte has been written is valid
(R164, R165, R415). -/
def L1Line.store (l : L1Line) (off : Nat) (bs : List Byte) (phase core : Nat) : L1Line :=
  let w := wordsOf off bs.length
  let b := bytesMask off bs.length
  { l with data := linePatch l.data (lineOfBytes off bs) b, dirty := l.dirty ||| w, owned := l.owned ||| w,
           mask := l.mask ||| b, valid := l.valid ||| (w &&& fullWords (l.mask ||| b)), by_ := (core, phase) :: l.by_.filter (fun (c, _) => decide (c ≠ core)) }

/-- The words an access of n bytes needs are all valid in the line. -/
def L1Line.has (l : L1Line) (words : BitVec 32) : Bool := decide (words &&& ~~~l.valid = 0)
/-- The L1 owns every word of the set. -/
def L1Line.owns (l : L1Line) (words : BitVec 32) : Bool := decide (words &&& ~~~l.owned = 0)

end Sys2Proof.Machine
end

