-- ==== Sys2Proof/Machine/Touch.lean ====
section
/-! DEFINITION. Where a page's lines are accessed, and what an access of a package leaves in the page's frame tags (R139, R140, R148);
the accesses that the part makes of global memory for itself (R162). -/

namespace Sys2Proof.Machine

/-- The master of a page is in memory-side mode at another package. -/
def State.memorySideAt (s : State) (g : Nat) : Option Nat :=
  match s.masterOf g with
  | none => none
  | some q => match (s.pkgD q).frameOf g with
    | some f => if ((s.pkgD q).frame f).mode = 1 then some q else none
    | none => none

/-- The package at which a page's line accesses are performed: the requester, or the package that holds it as PEER or in
memory-side mode, which for a mirrored page is the first master's (R148, R159, R171). -/
def State.lineAt (s : State) (p mtype peer g : Nat) : Nat :=
  if mtype = 3 then peer
  else if (s.pkgD p).pageState g = 0 || (s.pkgD p).isSecond g then (s.memorySideAt g).getD p else p

/-- The copy of a line that a package reads carries poison (R292). -/
def State.poisoned (s : State) (q ga : Nat) : Bool := decide ((if (s.pkgD q).pageState (ga / 65536) = 0 then (s.masterOf (ga / 65536)).getD q else q) ∈ (s.lineMeta ga).poison)
/-- The poison of the lines of a page, as its copies change. -/
def State.pagePoison (s : State) (g : Nat) (f : List Nat → List Nat) : State :=
  let bad := s.lmeta.filter (fun ((n, m) : Nat × LineMeta) => decide (n / 512 = g) && !m.poison.isEmpty)
  let lmeta := bad.foldl (fun l ((n, m) : Nat × LineMeta) => SMap.set l LineMeta.init n { m with poison := f m.poison }) s.lmeta
  { s with lmeta := lmeta }
/-- A copy of a page is made from another: the poison of its lines goes with it. -/
def State.copyPoison (s : State) (g from_ to_ : Nat) : State :=
  s.pagePoison g (fun l => if from_ ∈ l then insertNat l to_ else l.filter (fun q => decide (q ≠ to_)))
/-- A copy of a page is gone. -/
def State.dropPoison (s : State) (g q : Nat) : State := s.pagePoison g (fun l => l.filter (fun k => decide (k ≠ q)))

/-- A frame becomes the most recent of its set: the ordinary ways that were more recent grow older by one (R140). -/
def Pkg.recent (p : Pkg) (f g : Nat) : Pkg :=
  let age := (p.frame f).age
  let p := (ordinaryWays (pageSet g)).foldl (fun (k : Pkg) w =>
    let h := pageSet g * 16 + w
    let u := k.frame h
    if h ≠ f && decide (u.state ≠ 0) && decide (u.age < age) then k.setFrame h { u with age := u.age + 1 } else k) p
  p.modFrame f (fun t => { t with age := 0 })

/-- What an access of package q, from a die of it, counts in the window of the frame it reaches at package p (R139). An access that has
waited for the page is no read or write of ORD and OWR, and a replica's counters stay 0 (R411, R412). -/
def FrameTag.count (t : FrameTag) (p q : Nat) (otherDie write late : Bool) : FrameTag :=
  let other := decide (q = p) && otherDie && !late && decide (t.state ≠ fsReplica)
  let t := { t with ord := if other && !write then min 255 (t.ord + 1) else t.ord,
                    owr := if other && write then min 255 (t.owr + 1) else t.owr,
                    rrd := if q ≠ p && !write then min 255 (t.rrd + 1) else t.rrd,
                    rwr := if q ≠ p && write then min 255 (t.rwr + 1) else t.rwr }
  if write then { t with multiwr := t.multiwr || (t.wrote && decide (t.lastwr ≠ q)), lastwr := q, wrote := true } else t

/-- An access of package q, from a die of it, reaches a page at package p: window counts advance (R139), and a hit of q's own frame makes
that frame the most recent of its set (R140). -/
def State.touchPage (s : State) (p q die g : Nat) (write late : Bool) : State :=
  let s := match (s.pkgD p).frameOf g with
    | none => s
    | some f => s.modPkg p (fun k => k.modFrame f (fun t => t.count p q (decide (homeDie (g * 65536) ≠ die)) write late))
  match (s.pkgD q).frameOf g with
  | none => s
  | some f => s.modPkg q (fun k => k.recent f g)

/-! ## The part's own accesses -/

/-- A master whose RWR has passed 32 while replicas exist requests the switch to memory-side mode at its ordering node, once (R148). -/
def State.switchDue (s : State) (m g : Nat) : State :=
  match (s.pkgD m).frameOf g with
  | none => s
  | some f =>
    let t := (s.pkgD m).frame f
    if t.rwr ≤ 32 || t.mode ≠ 0 || !(s.pkgs.any (fun (_, q) => decide (q.pageState g = fsReplica))) ||
        s.pageReqs.any (fun (_, r) => decide (r.page = g) && decide (r.stage = 4)) then s
    else
      let (s, x) := s.newItem (.page { pkg := m, who := 0, page := g, va := 0, write := true, dir := 1, leaf := 0, tenant := 0, mtype := 0,
                                       peer := 0, cmp := 0, side := false, stage := 4, frame := 0, from_ := m, force := false,
                                       missed := false, climbed := 0, counted := false, waitAt := none })
      s.later (.upgrade x)

/-- An access by a unit of package p of bytes within one line, at the line's home slice, the master's where p holds no frame of the page:
the page's frames are used (R139, R140); on another package it goes over the pod links (R148, R259). -/
def State.pkgTouch (s : State) (p die ga : Nat) (write : Bool) : State :=
  let g := ga / 65536
  let q := if (s.pkgD p).pageState g = 0 then (s.masterOf g).getD p else s.lineAt p 0 0 g
  let s := s.touchPage q p die (ga / 65536) write false
  if q = p then s else (if write then s.switchDue q g else s).sendLine p q ga write

/-- A coherent read of a run of global bytes by a unit of package p. -/
def State.partRead (s : State) (p ga n : Nat) : State × List Byte :=
  (linePieces (n / 128 + 2) ga n).foldl (fun (s, bs) (a, k) =>
    let (s, b) := (s.pkgTouch p (homeDie a) a false).homeRead a k; (s, bs ++ b)) (s, [])

/-- A coherent write of a run of global bytes by a unit of package p. -/
def State.partWrite (s : State) (p ga : Nat) (bs : List Byte) : State :=
  ((linePieces (bs.length / 128 + 2) ga bs.length).foldl
    (fun (s, rest) (a, k) => ((State.pkgTouch s p (homeDie a) a true).homeWrite a (rest.take k), rest.drop k)) (s, bs)).1

def State.partWrite64 (s : State) (p ga v : Nat) : State := s.partWrite p ga (leBytes 8 v)

end Sys2Proof.Machine
end

