-- ==== Sys2Proof/Machine/Region.lean ====
section
/-! DEFINITION. Region control blocks: their layout (R45), effective values (R46), budgets (R47), fault domains (R48), and
launch and completion records (R52, R55). -/

namespace Sys2Proof.Machine

/-- Read a region control block from global memory (R45); `old` keeps what only the part holds. -/
def readBlock (s : State) (a : Nat) (old : Option Block) : Block :=
  let w (o : Nat) : Nat := s.gnat (a + o) 8
  let f (o hi lo : Nat) : Nat := bitsOf (w o) hi lo
  { regid := f 0 63 48, prio := f 0 39 36, level := f 0 35 33, leaf := decide (f 0 32 32 = 1),
    ovr := BitVec.ofNat 16 (f 0 29 16), state := (old.map (·.state)).getD 0, domroot := decide (f 0 1 1 = 1),
    valid := decide (f 0 0 0 = 1), parent := f 8 55 9 * 512, child := f 0x10 55 9 * 512, sibling := f 0x18 55 9 * 512,
    lfmax := f 0x20 63 48, grpmax := f 0x20 47 34, cormax := f 0x20 33 25, scrmax := f 0x20 24 8, frmmax := f 0x28 24 0,
    trapvec := f 0x40 55 2 * 4, dbgperm := BitVec.ofNat 8 (f 0x48 7 0), trbase := f 0x50 55 12 * 4096,
    trblocks := f 0x58 31 0, svbase := f 0x60 55 12 * 4096, svblocks := f 0x68 31 0, rafbase := f 0x70 55 7 * 128,
    fqbase := w 0x78, fqent := f 0x80 31 0, wbbase := f 0x88 55 12 * 4096, wbblocks := f 0x90 31 0,
    cmpbase := f 0x98 55 12 * 4096, bkbase := w 0xA0, bkpages := f 0xA8 31 0, chbase := f 0xB0 63 52, chcount := f 0xB0 51 40,
    mirror := decide (f 0xB0 1 1 = 1), firsttouch := decide (f 0xB0 0 0 = 1), serv := (old.map (·.serv)).getD 0,
    held := (old.map (·.held)).getD false }

/-- A package's cached block at an address. -/
def State.block? (s : State) (p a : Nat) : Option Block := SMap.find? (s.pkgD p).blocks a

/-- The blocks from a leaf up to its tenant, leaf first (R44: at most 8 levels). -/
def pathFrom (bs : SMap Block) : Nat → Nat → List (Nat × Block)
  | 0, _ => []
  | f + 1, a => match SMap.find? bs a with
    | none => []
    | some b => (a, b) :: (if b.level = 0 then [] else pathFrom bs f b.parent)
def State.path (s : State) (p a : Nat) : List (Nat × Block) := pathFrom (s.pkgD p).blocks 8 a

/-- The tenant's block above a block (R44). -/
def State.tenantOf (s : State) (p a : Nat) : Option (Nat × Block) := (s.path p a).getLast?

/-- The effective value of an inheritable field (R46): the lowest block of the path whose OVR bit is set, or the tenant. -/
def effAlong {α : Type} (bit : Nat) (get : Block → α) (d : α) : List (Nat × Block) → α
  | [] => d
  | [(_, b)] => get b
  | (_, b) :: p => if b.ovr.getLsbD bit then get b else effAlong bit get d p
def State.eff {α : Type} (s : State) (p a bit : Nat) (get : Block → α) (d : α) : α := effAlong bit get d (s.path p a)

def State.effPrio (s : State) (p a : Nat) : Nat := s.eff p a 5 (·.prio) 0
def State.effTrapvec (s : State) (p a : Nat) : Nat := s.eff p a 7 (·.trapvec) 0
def State.effDbg (s : State) (p a : Nat) : BitVec 8 := s.eff p a 8 (·.dbgperm) 0
def State.effTrace (s : State) (p a : Nat) : Nat × Nat := s.eff p a 9 (fun b => (b.trbase, b.trblocks)) (0, 0)
def State.effSave (s : State) (p a : Nat) : Nat × Nat := s.eff p a 10 (fun b => (b.svbase, b.svblocks)) (0, 0)
def State.effWalkBuf (s : State) (p a : Nat) : Nat × Nat := s.eff p a 12 (fun b => (b.wbbase, b.wbblocks)) (0, 0)
def State.effTouch (s : State) (p a : Nat) : Bool × Bool := s.eff p a 13 (fun b => (b.firsttouch, b.mirror)) (false, false)
def State.effFrmmax (s : State) (p a : Nat) : Nat := s.eff p a 3 (·.frmmax) 0

/-- A field marked 'Tenant only' (R46). -/
def State.tenantField {α : Type} (s : State) (p a : Nat) (get : Block → α) (d : α) : α :=
  match s.tenantOf p a with | some (_, b) => get b | none => d
/-- FQBASE and FQENT in force for a tenant, named by its block (R83). -/
def State.fqOf (s : State) (p a : Nat) : Nat × Nat := s.tenantField p a (fun b => (b.fqbase, b.fqent)) (0, 0)

/-- The tenant block of a REGID. -/
def State.tenantBlock (s : State) (p regid : Nat) : Option (Nat × Block) :=
  List.find? (fun ((_, b) : Nat × Block) => decide (b.level = 0) && decide (b.regid = regid)) (s.pkgD p).blocks
/-- The block of a REGID. -/
def State.regBlock (s : State) (p regid : Nat) : Option (Nat × Block) :=
  List.find? (fun ((_, b) : Nat × Block) => decide (b.regid = regid) && decide (b.state ≠ 0)) (s.pkgD p).blocks

/-- The REGID of a block, and of its tenant. -/
def State.regidOf (s : State) (p a : Nat) : Nat := ((s.block? p a).map (·.regid)).getD 0
def State.tenantId (s : State) (p a : Nat) : Nat := s.tenantField p a (·.regid) 0

/-- The blocks whose budget caps a leaf: those of its path with the OVR bit, the tenant always (R46, R47). -/
def budgetPath (bit : Nat) : List (Nat × Block) → List (Nat × Block)
  | [] => []
  | [x] => [x]
  | (a, b) :: p => if b.ovr.getLsbD bit then (a, b) :: budgetPath bit p else budgetPath bit p

/-- The domain root at or above a block (R48). -/
def rootAlong : List (Nat × Block) → Nat
  | [] => 0
  | [(a, _)] => a
  | (a, b) :: p => if b.ovr.getLsbD 6 && b.domroot then a else rootAlong p
def State.domainRoot (s : State) (p a : Nat) : Nat := rootAlong (s.path p a)
/-- A path is a proper one (R44): levels that count down to a tenant without a parent, VALID blocks, only the first a leaf. -/
def pathOk : List (Nat × Block) → Bool
  | [] => false
  | [(_, b)] => b.valid && decide (b.level = 0) && decide (b.parent = 0)
  | (_, b) :: (a, c) :: p => b.valid && decide (b.parent = a) && decide (b.level = c.level + 1) && !c.leaf && pathOk ((a, c) :: p)
/-- Two blocks are of one fault domain. -/
def State.sameDomain (s : State) (p a b : Nat) : Bool := decide (s.domainRoot p a = s.domainRoot p b)

/-- A block lies in the subtree of another (R274, R276). -/
def State.inSubtree (s : State) (p a top : Nat) : Bool := (s.path p a).any (fun (b, _) => decide (b = top))
/-- A leaf is covered by the region of a REGID (R276). -/
def State.covered (s : State) (p leaf regid : Nat) : Bool := (s.path p leaf).any (fun (_, b) => decide (b.regid = regid))

/-- The package chain tag of a launch, plus one: 0 for a launch without a chain (R68). -/
def State.chainTag (s : State) (p leaf chain : Nat) : Nat :=
  if chain = 0 then 0 else s.tenantField p leaf (·.chbase) 0 + chain

/-- The descriptor of a queue (R50). -/
def qdescAt (blk q : Nat) : Nat := blk + 0x100 + 16 * q
/-- A unit of package p sets or clears QERR. -/
def State.setQerr (s : State) (p blk q : Nat) (v : Bool) : State :=
  let (s, bs) := s.partRead p (qdescAt blk q + 12) 1
  s.partWrite p (qdescAt blk q + 12) [((bs.headD 0) &&& 0xFE) ||| BitVec.ofNat 8 (bitOf v)]

/-- A queue stopped on an error is served again once EN has been 0 and then 1: QERR is cleared (R51). -/
def State.watchErred (s : State) (p : Nat) : State :=
  (s.pkgD p).erred.foldl (fun s (x, zero) =>
    let (s, bs) := s.homeRead (qdescAt (x / 16) (x % 16)) 8
    let en := decide (bitsOf (leNat bs) 61 61 = 1)
    if en && zero then
      let s := s.setQerr p (x / 16) (x % 16) false
      let s := s.modPkg p (fun q => { q with erred := q.erred.filter (fun (y, _) => decide (y ≠ x)) })
      (s.pkgs.filter (fun ((_, q) : Nat × Pkg) => decide (x ∈ q.served))).foldl (fun s (q, _) =>
        s.laterOnce (.recordTake q (x / 16) (x % 16))) s
    else if !en && !zero then s.modPkg p (fun q => { q with erred := q.erred.map (fun (y, z) => if y = x then (y, true) else (y, z)) })
    else s) s

/-- The packages that are up. -/
def State.upPkgs (s : State) : List Nat :=
  (s.pkgs.filter (fun ((_, p) : Nat × Pkg) => p.present && !p.lost && p.boot.powered)).map (·.1)

/-! ## Reserved fields of records in memory (R4) -/

/-- The bits hi:lo of a 64-bit word, and all its other bits. -/
def bitsAt (hi lo : Nat) : Nat := 2 ^ (hi + 1) - 2 ^ lo
def bitsBeside (hi lo : Nat) : Nat := 2 ^ 64 - 1 - bitsAt hi lo
/-- The reserved bits of the word at an offset of a region control block; the queue descriptors' are judged by R51 (R45, R46). -/
def blockReserved (o : Nat) : Nat :=
  match o with
  | 0x00 => bitsAt 47 40 + bitsAt 31 30 + bitsAt 15 4
  | 0x08 | 0x10 | 0x18 => bitsBeside 55 9
  | 0x20 => bitsAt 7 0
  | 0x28 => bitsAt 63 25
  | 0x40 => bitsBeside 55 2
  | 0x48 => bitsAt 63 8
  | 0x50 | 0x60 => bitsBeside 55 12
  | 0x58 | 0x68 | 0x80 => bitsAt 63 32
  | 0xB0 => bitsAt 39 2
  | o => if 0xB8 ≤ o && o < 0x100 then bitsAt 63 0 else 0
/-- The reserved bits of the words of a region attribute file (R116) and of a trace buffer's control block (R266). -/
def attrReserved (_ : Nat) : Nat := bitsAt 57 56 + bitsAt 3 0
def traceReserved (o : Nat) : Nat := if o = 0 then bitsAt 63 16 else if o = 0x10 then bitsAt 63 32 else 0
/-- A byte stored at an offset of a record, without the record's reserved bits (R4). -/
def unreserved (res : Nat → Nat) (o : Nat) (b : Byte) : Byte :=
  b &&& ~~~(BitVec.ofNat 8 (res (o / 8 * 8) / 256 ^ (o % 8)))
def maskBytes (res : Nat → Nat) (o : Nat) (bs : List Byte) : List Byte := (bs.zipIdx).map (fun (b, i) => unreserved res (o + i) b)

/-- The records in memory that the packages know: address, bytes, reserved bits. -/
def Pkg.records (p : Pkg) : List (Nat × Nat × (Nat → Nat)) :=
  p.blocks.flatMap (fun ((a, b) : Nat × Block) => (a, 256, blockReserved) ::
    ((if b.level = 0 && decide (b.rafbase ≠ 0) then [(b.rafbase, 128, attrReserved)] else []) ++
     (if 3 ≤ b.trblocks then [(b.trbase, 32, traceReserved)] else [])))
/-- What a store of bytes leaves of them: a non-zero value of a reserved field of a record is discarded (R4). -/
def State.storable (s : State) (ga : Nat) (bs : List Byte) : List Byte :=
  s.pkgs.foldl (fun bs ((_, p) : Nat × Pkg) => p.records.foldl (fun bs (a, n, res) =>
    if ga < a + n && a < ga + bs.length then
      (bs.zipIdx).map (fun (b, i) => if a ≤ ga + i && ga + i < a + n then unreserved res (ga + i - a) b else b)
    else bs) bs) bs

/-- What the part itself keeps of a block that some package caches: its STATE (R49). -/
def State.cached? (s : State) (p a : Nat) : Option Block :=
  (s.block? p a).orElse (fun _ => (s.pkgs.findSome? (fun ((_, k) : Nat × Pkg) => SMap.find? k.blocks a)).map
    (fun b => { b with serv := 0, held := false }))
/-- Every package caches a block as memory holds it, its reserved fields as zero (R4, R49). -/
def State.cacheBlock (s : State) (p a : Nat) : State :=
  let (s, bs) := s.partRead p a 256
  let s := if maskBytes blockReserved 0 bs = bs then s else s.partWrite p a (maskBytes blockReserved 0 bs)
  s.upPkgs.foldl (fun s q => s.modPkg q (fun k => { k with blocks := SMap.put k.blocks a (readBlock s a (s.cached? q a)) })) s

/-! ## Links of blocks (R44) -/

/-- CHILD and SIBLING of a block as memory holds them; 0 is no link. -/
def State.childOf (s : State) (a : Nat) : Nat := bitsOf (s.gnat (a + 0x10) 8) 55 9 * 512
def State.siblingOf (s : State) (a : Nat) : Nat := bitsOf (s.gnat (a + 0x18) 8) 55 9 * 512
/-- The links that a sequencer follows: those it caches, and memory's of a block that it does not (R49). -/
def State.linksOf (s : State) (p a : Nat) : List Nat :=
  match s.block? p a with | some b => [b.child, b.sibling] | none => [s.childOf a, s.siblingOf a]
/-- The blocks that links lead to from some blocks, those included. -/
def reachBy (links : Nat → List Nat) : Nat → List Nat → List Nat → List Nat
  | 0, _, seen => seen
  | _ + 1, [], seen => seen
  | f + 1, a :: todo, seen =>
    if a = 0 || decide (a ∈ seen) then reachBy links f todo seen
    else reachBy links f (links a ++ todo) (a :: seen)
/-- The links of a block in memory. -/
def State.linksIn (s : State) (a : Nat) : List Nat := [s.childOf a, s.siblingOf a]
/-- By the links in memory. -/
def State.reach (s : State) (f : Nat) (todo seen : List Nat) : List Nat := reachBy s.linksIn f todo seen
/-- More links than a package's 65,536 region numbers can make. -/
def linkFuel : Nat := 200000
/-- The blocks below one, by CHILD and then SIBLING. -/
def State.below (s : State) (a : Nat) : List Nat := s.reach linkFuel [s.childOf a] []
/-- The links from a block, over CHILD and SIBLING in any mixture, form no cycle. -/
def linksEnd (links : Nat → List Nat) (a : Nat) : Bool :=
  (reachBy links linkFuel [a] []).all (fun b => !decide (b ∈ reachBy links linkFuel (links b) []))
/-- A block keeps the rules of R44: its path is proper, and its links form no cycle. -/
def State.served (s : State) (p a : Nat) : Bool := pathOk (s.path p a) && linksEnd (s.linksOf p) a

/-- The tenant of a block as memory names it. -/
def State.tenantInMem (s : State) : Nat → Nat → Nat
  | 0, a => bitsOf (s.gnat a 8) 63 48
  | f + 1, a => if bitsOf (s.gnat a 8) 35 33 = 0 then bitsOf (s.gnat a 8) 63 48
                else State.tenantInMem s f (bitsOf (s.gnat (a + 8) 8) 55 9 * 512)

/-! ## Use (R47) -/

/-- The resident groups of a package, draining ones among them. -/
def State.resident (s : State) (p : Nat) : List (Nat × Group) :=
  List.filter (fun ((_, g) : Nat × Group) => decide (g.pkg = p) && decide (g.phase ≠ .saved)) s.groups
/-- The resident groups charged to a block: those of its subtree. -/
def State.charged (s : State) (p a : Nat) : List Group :=
  ((s.resident p).filter (fun (_, g) => s.inSubtree p g.leaf a)).map (·.2)
/-- The launches in flight charged to a block. -/
def State.inFlight (s : State) (p a : Nat) : Nat :=
  ((s.pkgD p).launches.filter (fun ((_, l) : Nat × Launch) => s.inSubtree p l.leaf a)).length
/-- The distinct cores of groups. -/
def coresOf (gs : List Group) : List Nat := gs.foldl (fun l g => g.shares.foldl (fun l h => insertNat l h.core) l) []
def granulesOf (gs : List Group) : Nat := gs.foldl (fun n g => n + g.shares.length * g.lr.scrg) 0
/-- The frames of a package charged to a block: those filled for a leaf of its subtree, and for a tenant all that it owns; a
mirrored page counts two (R47, R159). -/
def State.framesUnder (s : State) (p a : Nat) (b : Block) : Nat :=
  (s.pkgD p).frames.foldl (fun n ((_, t) : Nat × FrameTag) =>
    if t.state ≠ 0 && ((b.level = 0 && t.owner = b.regid) || s.inSubtree p t.charge a) then n + (if t.mirror then 2 else 1) else n) 0

/-- Write USE1 of the blocks on a leaf's path, as frames fill and leave (R45, R47). -/
def State.writeFrameUse (s : State) (p leaf : Nat) : State :=
  (s.path p leaf).foldl (fun s (a, b) => s.partWrite64 p (a + 0x38) (s.framesUnder p a b % 2 ^ 25)) s
/-- Write USE0 and USE1 of every block on a leaf's path (R45, R47). -/
def State.writeUse (s : State) (p leaf : Nat) : State :=
  let s := (s.path p leaf).foldl (fun s (a, _) =>
    let gs := s.charged p a
    s.partWrite64 p (a + 0x30) (s.inFlight p a % 2 ^ 16 * 2 ^ 48 + gs.length % 2 ^ 14 * 2 ^ 34 +
      (coresOf gs).length % 2 ^ 9 * 2 ^ 25 + granulesOf gs % 2 ^ 17 * 2 ^ 8)) s
  s.writeFrameUse p leaf
/-- A frame fill for a leaf finds no room under FRMMAX of some block of its path (R47, R151); a mirrored page needs two frames
(R159). -/
def State.overFrames (s : State) (p leaf need : Nat) : Bool :=
  (budgetPath 3 (s.path p leaf)).any (fun (a, b) => decide (b.frmmax < s.framesUnder p a b + need))

/-- A queue is stopped on an error at some package (R51). -/
def State.stopped (s : State) (x : Nat) : Bool :=
  s.pkgs.any (fun ((_, q) : Nat × Pkg) => !q.lost && q.erred.any (fun (y, _) => decide (y = x)))

/-- A unit of package p writes STATE into a block and its cached copies (R45, R49, R90). -/
def State.setBlockState (s : State) (p a v : Nat) : State :=
  let (s, bs) := s.partRead p a 1
  let b := leNat bs
  let s := s.partWrite p a [BitVec.ofNat 8 (b - bitsOf b 3 2 * 4 + v * 4)]
  { s with pkgs := s.pkgs.map (fun (q, p) => (q, { p with blocks := SMap.modify p.blocks a (fun b => { b with state := v }) })) }

/-! ## Launch and completion records (R52, R55) -/

/-- Decode the 128 bytes of a launch record; `bad` when a reserved field is not zero (R53). -/
def decodeRecord (bs : List Byte) : LaunchRec :=
  let w (o : Nat) : Nat := leNat ((bs.drop o).take 8)
  let f (o hi lo : Nat) : Nat := bitsOf (w o) hi lo
  { entry := f 0 55 2 * 4, gridx := f 8 23 0, gridy := f 8 47 32, gridz := f 8 63 48, crewc := f 0x10 63 54,
    crewm := f 0x10 53 44, crewv := f 0x10 43 34, regs8 := f 0x10 33 27, scrg := f 0x10 26 18, privw := f 0x18 63 40,
    slimw := f 0x18 39 16, chain := f 0x20 63 52, chend := decide (f 0x20 51 51 = 1), fusel1 := decide (f 0x20 50 50 = 1),
    restart := decide (f 0x20 49 49 = 1), depblk := decide (f 0x20 48 48 = 1), lprio := f 0x20 47 44, latus := f 0x20 31 0,
    deps := [w 0x28, w 0x30, w 0x38, w 0x40], launchid := f 0x48 31 0, args := BitVec.ofNat 64 (w 0x50),
    compl := BitVec.ofNat 64 (w 0x58), irq := decide (f 0x60 63 63 = 1), vector := f 0x60 62 52,
    privbase := f 0x68 55 7 * 128,
    bad := decide (f 0 63 56 ≠ 0 ∨ f 0 1 0 ≠ 0 ∨ f 8 31 24 ≠ 0 ∨ f 0x10 17 0 ≠ 0 ∨ f 0x18 15 0 ≠ 0 ∨ f 0x20 43 32 ≠ 0 ∨
      f 0x48 63 32 ≠ 0 ∨ f 0x60 51 0 ≠ 0 ∨ f 0x68 63 56 ≠ 0 ∨ f 0x68 6 0 ≠ 0 ∨ w 0x70 ≠ 0 ∨ w 0x78 ≠ 0) ||
      [w 0x28, w 0x30, w 0x38, w 0x40].any (fun d => decide (bitsOf d 62 56 ≠ 0 ∨ bitsOf d 4 1 ≠ 0)) ||
      decide (bitsOf (w 0x58) 62 56 ≠ 0 ∨ bitsOf (w 0x58) 4 0 ≠ 0) }

/-- The largest crew count of one share for an allotment (R60). -/
def cmaxOf (a : Nat) : Nat :=
  ((List.range 48).map (· + 1)).foldl (fun m c => if (c + 1) / 2 * a ≤ 2048 then c else m) 0
/-- The number of shares k (R60). -/
def shareCount (r : LaunchRec) : Nat := let m := cmaxOf r.allot; if m = 0 then 0 else (r.crews + m - 1) / m
/-- The crews of each share, in order (R60). -/
def shareCrews (r : LaunchRec) : List Nat :=
  let k := shareCount r
  if k = 0 then [] else
    (List.range k).map (fun j => if j < r.crews % k then (r.crews + k - 1) / k else r.crews / k)

/-- The checks of R53 on a record, with the tenant's CHCOUNT. -/
def recordOk (r : LaunchRec) (chcount : Nat) : Bool :=
  !r.bad && decide (1 ≤ r.regs8 ∧ r.regs8 ≤ 64) && decide (r.scrg ≤ 256) && decide (r.slimw ≤ r.privw) &&
  decide (1 ≤ r.crews ∧ r.crews ≤ 1024) && decide (r.groups ≤ 16777216) && decide (r.chain ≤ chcount) &&
  decide (shareCount r ≤ 48)

/-- LIMIT of R64: the least of the counts on an empty core, ties in the order listed. -/
def limitOf (r : LaunchRec) : Nat :=
  if r.groups = 0 then 0
  else
    let n := ((shareCrews r).headD 1 + 1) / 2
    let regs := 2048 / (n * r.allot)
    let scr := if r.scrg = 0 then 100000 else 256 / r.scrg
    let slots := 24 / n
    let least := min (min regs scr) (min slots 32)
    if regs = least then 1 else if scr = least then 2 else if slots = least then 3 else 4

/-- Read a part's record at a HOST or global address: bit 63 HOST, bits 55:0 the address (R52). -/
def State.recRead (s : State) (p : Nat) (w n : Nat) : State × List Byte :=
  if 2 ^ 63 ≤ w then (s, s.hbytes p (w % 2 ^ 56) n) else s.partRead p (w % 2 ^ 56) n
def State.recWrite (s : State) (p : Nat) (w : Nat) (bs : List Byte) : State :=
  if 2 ^ 63 ≤ w then s.hput p (w % 2 ^ 56) bs else s.partWrite p (w % 2 ^ 56) bs

end Sys2Proof.Machine
end

