-- ==== Sys2Proof/Machine/Trace.lean ====
section
/-! DEFINITION. Trace records (R265 to R270), the posting of faults (R83) and the freeze of a fault domain (R90). -/

namespace Sys2Proof.Machine

/-- The 32 bytes of a trace record (R269). -/
def traceBytes (ts frac code gidx tidx nothr origin lid pay0 pay1 : Nat) : List Byte :=
  leBytes 8 ts ++
  leBytes 8 (frac % 256 * 2 ^ 56 + code * 2 ^ 48 + gidx % 2 ^ 24 * 2 ^ 24 + tidx % 2 ^ 15 * 2 ^ 9 + nothr * 256 + origin) ++
  leBytes 8 (lid % 2 ^ 32 * 2 ^ 32 + pay0 % 2 ^ 32) ++ leBytes 8 pay1

/-- What a trace record names (R270). -/
structure TraceName where
  lid : Nat
  gidx : Nat
  tidx : Nat
  nothr : Bool
  origin : Nat

/-- Write a record into a buffer: the next slot, moving blocks and discarding the oldest one when the ring is full, with its
DROP record (R266, R267). -/
def State.traceInto (s : State) (p base blocks code : Nat) (n : TraceName) (pay0 pay1 : Nat) : State :=
  let (s, hdr) := s.partRead p base 32
  let mask := leNat (hdr.take 2)
  let wr := leNat ((hdr.drop 8).take 4)
  let wb := leNat ((hdr.drop 12).take 4)
  let rd := leNat ((hdr.drop 16).take 4)
  let lost := leNat ((hdr.drop 24).take 8)
  let okMask := decide (code = 1) || decide (mask / 2 ^ code % 2 = 1)
  if blocks < 3 || !okMask || decide (wb < 1 ∨ blocks ≤ wb ∨ rd < 1 ∨ blocks ≤ rd) then s
  else
    let pk := s.pkgD p
    let nx (b : Nat) : Nat := if b + 1 < blocks then b + 1 else 1
    let recAt (s : State) (b i : Nat) (bs : List Byte) : State := s.partWrite p (base + b * 4096 + i * 32) bs
    let body := traceBytes pk.timebase pk.frac code n.gidx n.tidx (bitOf n.nothr) n.origin n.lid pay0 pay1
    let ctl (s : State) (b i : Nat) : State := s.partWrite p (base + 8) (leBytes 4 i ++ leBytes 4 b)
    if wr < 128 then ctl (recAt s wb wr body) wb (wr + 1)
    else if nx wb ≠ rd then ctl (recAt s (nx wb) 0 body) (nx wb) 1
    else
      let b := nx wb
      let lost := (lost + 128) % 2 ^ 64
      let drop := traceBytes pk.timebase pk.frac 1 0 0 1 n.origin 0 128 lost
      let s := s.partWrite p (base + 0x10) (leBytes 4 (nx rd))
      let s := s.partWrite p (base + 0x18) (leBytes 8 lost)
      ctl (recAt (recAt s b 0 drop) b 1 body) b 2

/-- Write a trace record for work of a leaf, under the conditions of R266. -/
def State.trace (s : State) (p leaf code : Nat) (n : TraceName) (pay0 pay1 : Nat) : State :=
  let (base, blocks) := s.effTrace p leaf
  if (s.effDbg p leaf).getLsbD 7 && decide (blocks ≠ 0) then s.traceInto p base blocks code n pay0 pay1 else s

/-- A write of v to TRRD takes effect only in the written part of the ring. -/
def State.trrdAt (s : State) (p base blocks : Nat) (v : Word) : State :=
  let (s, hdr) := s.partRead p base 32
  let wb := leNat ((hdr.drop 12).take 4)
  let rd := leNat ((hdr.drop 16).take 4)
  let n : Int := (blocks : Int) - 1
  if 1 ≤ v.toNat && v.toNat < blocks && decide (((v.toNat : Int) - rd) % n ≤ ((wb : Int) - rd) % n) then
    s.partWrite p (base + 0x10) (leBytes 4 v.toNat)
  else s

/-- The trace buffer, as some package knows it, whose TRRD a run of bytes touches: its address and its blocks. -/
def State.trrdBuffer (s : State) (ga n : Nat) : Option (Nat × Nat) :=
  s.pkgs.findSome? (fun ((_, p) : Nat × Pkg) =>
    (p.blocks.map (fun ((_, b) : Nat × Block) => (b.trbase, b.trblocks))).find? (fun (base, k) =>
      decide (3 ≤ k) && decide (ga < base + 0x14) && decide (base + 0x10 < ga + n)))
/-- A store that touches TRRD is judged as a write of the word that it makes (R268); its other bytes are written. -/
def State.trrdStore (s : State) (p ga : Nat) (bs : List Byte) : Option State :=
  (s.trrdBuffer ga bs.length).map (fun (base, k) =>
    let at_ := base + 0x10
    let (s, old) := s.partRead p at_ 4
    let s := s.partWrite p ga (bs.take (at_ - ga))
    let s := if at_ + 4 < ga + bs.length then s.partWrite p (at_ + 4) (bs.drop (at_ + 4 - ga)) else s
    s.trrdAt p base k (BitVec.ofNat 32 (leNat ((List.range 4).map (fun i =>
      if ga ≤ at_ + i then bs.getD (at_ + i - ga) (old.getD i 0) else old.getD i 0)))))

/-- The name of a thread, and of a group (R265). -/
def threadName (g : Group) (t die : Nat) : TraceName := ⟨g.lr.launchid, g.gidx, t, false, die⟩

/-- The die of a group: that of its first share. -/
def Group.die (g : Group) : Nat := match g.shares with | h :: _ => dieOf h.core | [] => 0

/-- The functions that a tenant belongs to: every enabled virtual function bound to it, else the physical function (R255). -/
def Pkg.fnsOf (p : Pkg) (tenant : Nat) : List Nat :=
  match (p.vfbind.filter (fun ((_, v) : Nat × DWord) => v.getLsbD 16 && decide (v.toNat % 65536 = tenant))).map (fun (n, _) => n + 1) with
  | [] => [0]
  | fns => fns
/-- The MSI-X entry that bits of +0x040 name is signalled for a tenant (R255): FAULTVEC in bits 10:0, CAPVEC in bits 26:16. -/
def State.signalTenant (s : State) (p tenant hi lo : Nat) : State :=
  ((s.pkgD p).fnsOf tenant).foldl (fun s fn => s.signal p (.msix fn (bitsOf ((s.pkgD p).ctlOf fn).vecs.toNat hi lo))) s

/-- The next identifier of 1 to 65,535, from n on, that no unresolved entry holds (R83; log entry 31). -/
def freeFaultId (used : List Nat) : Nat → Nat → Nat
  | 0, n => n
  | f + 1, n => if n ∈ used then freeFaultId used f (n % 65535 + 1) else n

/-- Post a fault: attach to an unresolved entry of the same tenant, die and 64 KiB page, or make a new one; with FQENT = 0 the
fault fails at once (R83). Answers the FAULTID. Notices (KIND 4 to 6) attach to nothing. -/
def State.postFault (s : State) (p leaf kind acc cause va : Nat) (n : TraceName) (die : Nat) : State × Option Nat :=
  match s.tenantOf p leaf with
  | none => (s, none)
  | some (tb, tblk) =>
    let (_, ent) := s.fqOf p tb
    if ent = 0 then (s, none)
    else
      let pk := s.pkgD p
      let old := if 4 ≤ kind then none else
        pk.faults.find? (fun f => f.open_ && decide (f.kind < 4) && decide (f.tenant = tblk.regid) && decide (f.die = die) &&
          decide (f.va / 65536 = va / 65536))
      match old with
      | some f =>
        (s.modPkg p (fun q => { q with faults := q.faults.map
                                        (fun g => if g.id = f.id && !g.posted then { g with count := g.count + 1 } else g) }),
         some f.id)
      | none =>
        let id := freeFaultId (pk.faults.map (·.id)) 65535 pk.nextFault
        let f : PFault := { id := id, tenant := tblk.regid, regid := s.regidOf p leaf, kind := kind, acc := acc,
                            cause := cause, va := va % 2 ^ 56, lid := n.lid, gidx := n.gidx, tidx := n.tidx,
                            time := pk.timebase, die := die, count := 1, waited := false, posted := false, open_ := decide (kind < 4) }
        let s := s.modPkg p (fun q => { q with faults := q.faults ++ [f], nextFault := id % 65535 + 1 })
        (s.later (.faultPost p tblk.regid), some id)

/-- The blocks below a domain root that memory links and no REFRESH has named yet are cached, so that they too take its STATE (R49,
R90). -/
def State.cacheBelow (s : State) (p root : Nat) : State :=
  let bs := s.below root
  bs.foldl (fun s a =>
    if (s.block? p a).isNone && bitsOf (s.gnat a 8) 35 33 ≠ 0 && decide (bitsOf (s.gnat (a + 8) 8) 55 9 * 512 ∈ root :: bs) then
      s.cacheBlock p a
    else s) s

/-- A fatal fault freezes the fault domain of a leaf: every block STATE FROZEN, its groups stop issue, a KIND 5 entry names the
thread and the cause (R90). -/
def State.freeze (s : State) (p leaf cause : Nat) (n : TraceName) (die : Nat) : State :=
  let root := s.domainRoot p leaf
  let gs := s.groups.map (fun (u, g) => (u, if s.domainRoot g.pkg g.leaf = root then { g with frozen := true } else g))
  let s := { s with groups := gs }.cacheBelow p root
  let blocks := (s.pkgD p).blocks.filter (fun (a, _) => decide (s.domainRoot p a = root))
  let s := blocks.foldl (fun s (a, _) => State.setBlockState s p a 2) s
  (s.postFault p leaf 5 0 cause 0 n die).1

end Sys2Proof.Machine
end

