-- ==== Sys2Proof/Machine/Ops.lean ====
section
/-! DEFINITION. The named operations over a thread that every meaning is written with: registers through the window (R22,
R202), counters (R42), waits (R24), taking a trap (R87) and returning from one (R88), closing a release phase (R174). -/

namespace Sys2Proof.Machine

/-- The outcome of an instruction. -/
abbrev Out := Host.Outcome State Fault Refusal

/-- Run a meaning for the issuing thread. -/
def withThread (s : State) (f : TKey → Group → Thread → State) : Out :=
  match s.cur with
  | none => .fault .noThread
  | some k =>
    match s.group? k.uid with
    | none => .fault .noThread
    | some g =>
      match g.threads[k.tidx]? with
      | none => .fault .noThread
      | some t => .next (f k g t)

/-! ## Registers (R22, R93, R202) -/

/-- The allotment register that window register i names (R22). -/
def Thread.abs (t : Thread) (i : Nat) : Nat := t.wbase + i
/-- Read an allotment register. -/
def Thread.rdAbs (t : Thread) (r : Nat) : Word := SMap.get t.regs 0 r
/-- Write an allotment register; the pair's reference tag is cleared (R202). -/
def Thread.wrAbs (t : Thread) (r : Nat) (v : Word) : Thread :=
  { t with regs := SMap.set t.regs 0 r v, tags := eraseNat t.tags (r / 2 * 2) }
def Thread.rd (t : Thread) (i : Nat) : Word := t.rdAbs (t.abs i)
def Thread.wr (t : Thread) (i : Nat) (v : Word) : Thread := t.wrAbs (t.abs i) v
/-- A 64-bit pair (R93). -/
def Thread.rd64 (t : Thread) (i : Nat) : DWord := pairOf (t.rd i) (t.rd (i + 1))
def Thread.wrAbs64 (t : Thread) (r : Nat) (v : DWord) : Thread := (t.wrAbs r (pairLo v)).wrAbs (r + 1) (pairHi v)
def Thread.wr64 (t : Thread) (i : Nat) (v : DWord) : Thread := t.wrAbs64 (t.abs i) v
/-- The pair's reference tag (R202). -/
def Thread.tagAbs (t : Thread) (r : Nat) : Bool := decide (r / 2 * 2 ∈ t.tags)
def Thread.tag (t : Thread) (i : Nat) : Bool := t.tagAbs (t.abs i)
def Thread.setTagAbs (t : Thread) (r : Nat) (v : Bool) : Thread :=
  { t with tags := if v then insertNat t.tags (r / 2 * 2) else eraseNat t.tags (r / 2 * 2) }
/-- A predicate register (R5). -/
def Thread.rdP (t : Thread) (n : Nat) : BitVec 8 := SMap.get t.preds 0 n
def Thread.wrP (t : Thread) (n : Nat) (v : BitVec 8) : Thread := { t with preds := SMap.set t.preds 0 n v }
/-- The predicate value a condition writes: every bit (R333, R351). -/
def predOf (b : Bool) : BitVec 8 := if b then 0xFF else 0
/-- Bit 0 of p0 governs (R302). -/
def Thread.active (t : Thread) : Bool := (t.rdP 0).getLsbD 0
/-- A handle register: the operation it names, 0 for EMPTY (R341). -/
def Thread.rdH (t : Thread) (n : Nat) : Nat := SMap.get t.handles 0 n
def Thread.wrH (t : Thread) (n op : Nat) : Thread := { t with handles := SMap.set t.handles 0 n op }

def Thread.mark (t : Thread) (r : Nat) : Thread := { t with pend := insertNat t.pend r }
def Thread.unmark (t : Thread) (r : Nat) : Thread := { t with pend := eraseNat t.pend r }

/-- A uniform register of the thread's share (R35). -/
def Group.rdK (g : Group) (j n : Nat) : DWord := match g.shares[j]? with | some h => SMap.get h.kregs 0 n | none => 0
/-- A write to a uniform register. The copies on the other cores take it at once, which R35 allows (log entry 32). -/
def Group.wrK (g : Group) (n : Nat) (v : DWord) : Group :=
  { g with shares := g.shares.map (fun h => { h with kregs := SMap.set h.kregs 0 n v }) }

/-! ## Going on (R318) -/

/-- The instruction retires and the thread goes on after it. -/
def Thread.next (t : Thread) : Thread := { t with pc := t.pc + 4, wait := .none }
/-- The repetition of which the thread performs an iteration: it stands at the follower of the REP (R36). -/
def Thread.iterates (t : Thread) : Option Rep :=
  match t.rep with | some r => if t.pc = r.at_ + 4 then some r else none | none => none
/-- The instruction that a thread waits in passes without a further issue: an iteration is followed by the next, the last one ends the
repetition (R36). That was its first issue after a resume (R276). -/
def Thread.released (t : Thread) : Thread :=
  match t.iterates with
  | some r =>
    if r.i + 1 < r.n then { t with wait := .none, skipBp := false, rep := some { r with i := r.i + 1 } }
    else { t.next with skipBp := false, rep := none }
  | none => { t.next with skipBp := false }
/-- A taken branch, jump, call or return: it ends a YIELD demotion (R26). -/
def Thread.goTo (t : Thread) (pc : DWord) : Thread := { t with pc := pc, wait := .none, demoted := false, demLeft := 0 }
/-- The thread does not issue: it stays at its instruction and waits. -/
def State.stay (s : State) (k : TKey) (w : Wait) : State := s.modThread k (fun t => { t with wait := w })
def State.retire (s : State) (k : TKey) (f : Thread → Thread) : State := s.modThread k (fun t => (f t).next)

/-! ## Counters of outstanding operations (R42) -/

def Thread.cnt (t : Thread) (c : Cls) : Nat := (t.outst.filter (fun o => decide (o.cls = c))).length
def Thread.addOut (t : Thread) (c : Cls) (x : Nat) : Thread := { t with outst := t.outst ++ [⟨c, x, false⟩] }
/-- Completed operations of a class retire up to the first that has not completed. -/
def retireOuts (c : Cls) (open_ : Bool) : List Outst → List Outst
  | [] => []
  | o :: l => if o.cls = c then (if o.done && !open_ then retireOuts c open_ l else o :: retireOuts c true l)
              else o :: retireOuts c open_ l
/-- An operation completes: it retires in issue order within its class. -/
def Thread.doneOut (t : Thread) (x : Nat) : Thread :=
  match t.outst.find? (fun o => decide (o.id = x)) with
  | none => t
  | some o =>
    { t with outst := retireOuts o.cls false (t.outst.map (fun q => if q.id = x then { q with done := true } else q)) }
/-- A removed operation leaves its class at once (R343). -/
def Thread.removeOut (t : Thread) (x : Nat) : Thread :=
  match t.outst.find? (fun o => decide (o.id = x)) with
  | none => t
  | some o => { t with outst := retireOuts o.cls false (t.outst.filter (fun q => decide (q.id ≠ x))) }
def State.completeOut (s : State) (k : TKey) (x : Nat) : State := s.modThread k (fun t => t.doneOut x)
/-- The number of a class, for a stall at 63 (R272). -/
def Cls.num : Cls → Nat | .load => 0 | .store => 1 | .copy => 2 | .tile => 3
def clsOf : Nat → Cls | 0 => .load | 1 => .store | 2 => .copy | _ => .tile

/-! ## Operations named by handles (R40) -/

/-- EMPTY or DONE. -/
def State.opDone (s : State) (x : Nat) : Bool :=
  if x = 0 then true else match s.op? x with | some o => decide (o.st = .done) | none => true

/-! ## Accesses of a thread -/

/-- The accesses of a thread, oldest first. -/
def State.accOf (s : State) (k : TKey) : List (Nat × Access) := s.accesses.filter (fun (_, a) => decide (a.thr = k))
def Access.unperformed (a : Access) : Bool := decide (a.stage ≠ .performed)
/-- The operand log is empty and no earlier access still waits for its translation (R82). -/
def State.logEmpty (s : State) (k : TKey) (t : Thread) : Bool :=
  t.log.isEmpty && (s.accOf k).all (fun (_, a) => decide (a.stage ≠ .translate) || decide (a.kind = .pref))

/-- An access that reads memory, and one that writes it (R183). -/
def AccKind.reads : AccKind → Bool
  | .ld _ | .ldref | .lds _ | .atom .. | .atoms .. | .ldpv _ | .refill | .kld _ | .launch _ | .fetch => true
  | _ => false
def AccKind.writes : AccKind → Bool
  | .st | .stref | .sts | .atom .. | .atoms .. | .stpv _ | .spill | .kst | .oinit => true
  | _ => false
/-- The class an access counts in (R42, R311). -/
def AccKind.cls : AccKind → Option Cls
  | .ld _ | .ldref | .lds _ | .ldpv _ | .kld _ => some .load
  | .atom _ n | .atoms _ n => some (if n then .store else .load)
  | .st | .stref | .sts | .stpv _ | .kst | .oinit | .launch _ | .wbr | .invr => some .store
  | .spill | .refill | .pref | .fetch => none

/-! ## Release phases (R174, R175) -/

/-- A release at CLUSTER scope or wider, or in a spanning group, closes a phase (R175). -/
def closesPhase (sc : Scope) (g : Group) : Bool := decide (sc ≠ .grp) || decide (1 < g.shares.length)

/-- Three closed epochs of a core await completion: a release waits for the oldest (R174). -/
def Core.epochsFull (k : Core) : Bool := decide (3 ≤ k.closed.length)
/-- Close the phase of a core: write back, with the dirty words of a fused cluster's L1s, the lines it dirtied in the current epoch,
keeping ownership, and move to the next epoch. Answers the number of the close; with three closed epochs waiting it waits (R174). -/
def State.closePhase (s : State) (p c : Nat) : State × Option Nat :=
  let k := s.coreOf p c
  if k.epochsFull then (s, none)
  else
    let cores := if ((s.pkgD p).cluster (clusterOf c)).fused then (List.range 8).map (· + clusterOf c * 8) else [c]
    let s := cores.foldl (fun s d =>
      (s.coreOf p d).l1.foldl (fun s l =>
        if l.dirty ≠ 0 && decide ((c, k.epoch) ∈ l.by_) && decide (l.mtype ≠ 6) then
          let s := s.sendWB p c l l.dirty
          s.modCore p d (fun k => k.l1Set l.cleaned)
        else s) s) s
    let s := s.modCore p c (fun k => { k with epoch := (k.epoch + 1) % 4, closed := k.closed ++ [(k.epoch, k.closes)],
                                              closes := k.closes + 1 })
    (s.later (.releaseCompletion p c), some k.closes)
/-- A release that meets three closed epochs is counted, once, as it begins to wait (R174, R178). -/
def State.countStall (s : State) (p c : Nat) : State := if (s.coreOf p c).epochsFull then s.count p (0, 24) c 1 else s

/-- The close has completed. -/
def State.phaseDone (s : State) (p c : Nat) (n : Option Nat) : Bool :=
  match n with | none => true | some m => (s.coreOf p c).closed.all (fun (_, j) => decide (j ≠ m))

/-! ## Waiting (R24) -/

/-- The rail chain of a share. -/
def State.chainOf (s : State) (g : Group) (m : RailMem) : Option Chain :=
  (s.pkgD g.pkg).chains.find? (fun c => decide (c.launch = g.launch) && decide (c.id = m.chain))

/-- A rail SCN: CIN = 2 or COUT = 1 (R244, R250). -/
def Op.rail (o : Op) : Bool :=
  decide (o.kind = .scn) && (decide (bitsOf (o.blk.getD 2 0).toNat 35 34 = 2) || decide (bitsOf (o.blk.getD 2 0).toNat 33 33 = 1))
/-- An operation is one of a share's. -/
def Op.ofShare (o : Op) (uid j : Nat) : Bool := decide (o.thr.uid = uid) && decide (o.share = j)
/-- The SCN at the head of a core's scan queue that waits for its carry-in: its number, for a share (R246, R247). -/
def State.carryWaiter (s : State) (p core uid j : Nat) : Option Nat :=
  match (s.coreOf p core).scanQ.head? with
  | none => none
  | some x => match s.op? x with
    | some o => if o.ofShare uid j && o.started && decide (o.st = .queued) then some x else none
    | none => none
/-- A rail SCN of a share has neither completed nor is held by a wait for a carry-in (R250). -/
def State.railBusy (s : State) (uid j : Nat) : Bool :=
  s.ops.any (fun (_, o) => o.ofShare uid j && o.rail && decide (o.st ≠ .done) &&
    !(decide (o.st = .queued) && (s.carryWaiter o.pkg o.core uid j).isSome))

/-- The condition of SWAIT on a sync word: it still blocks (R226). -/
def swaitBlocks (gen : Nat) (g : Word) : Bool :=
  if g.getLsbD 16 then decide (gen % 2 = g.toNat % 2) else decide (gen = g.toNat % 65536)

/-- Walks queued or running on a die. -/
def State.bulkFree (s : State) (p d : Nat) : Option Nat :=
  let q := (s.pkgD p).die d
  let len (e : Nat) : Nat := (SMap.get q.bulk [] e).length
  let best := (List.range 16).foldl (fun b e => if len e < len b then e else b) 0
  if len best < 16 then some best else none

/-- A full engine queue of the thread's core or die, or tiles another group holds (R222, R227, R228, R208). -/
def State.queueFull (s : State) (g : Group) (uid core which : Nat) : Bool :=
  let k := s.coreOf g.pkg core
  let tilesElse := match k.tilesOf with | some (u, _) => decide (u ≠ uid) | none => false
  match which with
  | 0 => decide (32 ≤ k.copyQ.length)
  | 1 => decide (16 ≤ k.matQ.length) || tilesElse
  | 2 => decide (16 ≤ k.scanQ.length)
  | 3 => (s.bulkFree g.pkg (dieOf core)).isNone
  | 4 => decide (64 ≤ ((s.pkgD g.pkg).die (dieOf core)).pubQ.length)
  | _ => tilesElse

/-- One of them is full. -/
def State.someFull (s : State) (g : Group) (uid core : Nat) : Bool :=
  let k := s.coreOf g.pkg core
  let d := (s.pkgD g.pkg).die (dieOf core)
  decide (32 ≤ k.copyQ.length) || decide (16 ≤ k.matQ.length) || decide (16 ≤ k.scanQ.length) || decide (64 ≤ d.pubQ.length) ||
    (match k.tilesOf with | some (u, _) => decide (u ≠ uid) | none => false) || (!d.bulk.isEmpty && (s.bulkFree g.pkg (dieOf core)).isNone)

/-- Every entry of a share's registry names an operation that is not DONE (R345). -/
def State.registryFull (s : State) (uid j : Nat) : Bool :=
  match s.share? uid j with
  | some h => decide (4096 ≤ h.registry.length) && h.registry.all (fun ((_, e) : Nat × RegEnt) => !s.opDone e.op)
  | none => false

/-- An access older than a FENCE that its parts still wait for (R338). -/
def fenceWaits (acqP relP wide : Bool) (a : Access) : Bool :=
  (acqP && a.kind.reads && a.unperformed) ||
  (relP && a.unperformed && !decide (a.kind = .pref) && (wide || !(decide (a.kind = .wbr) || decide (a.kind = .invr))))

/-- The walk that a thread waiting at a fetch waits for: of its group, at its PC or at the follower of its REP. The threads of a
bundle share one fetch (R23). -/
def State.awaitedFetch (s : State) (u : Nat) (t : Thread) : Option Nat :=
  let at_ (va : DWord) := s.walks.find? (fun (_, w) =>
    decide (w.thr.uid = u) && decide (w.kind = 3) && decide (w.failed = 0) && decide (w.va = va.toNat))
  ((at_ t.pc).orElse (fun _ => at_ (t.pc + 4))).map (·.1)

/-- The type of a region attribute entry, and whether it is valid (R116, R117). -/
def attrType (e : Nat) : Nat := bitsOf e 61 59
def attrValid (e : Nat) : Bool :=
  decide (bitsOf e 58 58 = 1) && decide (attrType e ≠ 7) && (decide (attrType e = 5) || decide (bitsOf e 63 62 ≠ 3))
/-- The bytes of a page by its size code (R116). -/
def pageBytes (psz : Nat) : Nat := match psz with | 0 => 65536 | 1 => 2097152 | _ => 536870912

/-- The page of an address, by tenant and first address: its size is that of the attribute entry that the die's walkers hold
for the address, 64 KiB without a valid one (R116, R117, R127). -/
def State.missPage (s : State) (p die tenant va : Nat) : Nat × Nat :=
  let bytes := match ((s.pkgD p).die die).attrs.find? (fun (n, j, _) => decide (n = tenant) && decide (j = bitsOf va 55 52)) with
    | some (_, _, e) => if attrValid e.toNat then pageBytes (bitsOf e.toNat 63 62) else 65536
    | none => 65536
  (tenant, va / bytes * bytes)
/-- The page that a walk is for. -/
def State.walkFor (s : State) (w : Walk) : Nat × Nat := s.missPage w.pkg (dieOf w.core) w.tenant w.va
/-- A walk is under way: it has neither posted nor failed. -/
def Walk.open_ (w : Walk) : Bool := decide (w.fault = 0) && decide (w.failed = 0)

/-- The distinct pages whose translation is missing at a cluster (R127). -/
def State.missPages (s : State) (p cl : Nat) : List (Nat × Nat) :=
  (s.walks.filterMap (fun (_, w) =>
    if w.pkg = p && clusterOf w.core = cl && w.open_ then some (s.walkFor w) else none)).eraseDups
/-- Another page cannot be missing at once: the cluster keeps 64 (R127). -/
def State.missFull (s : State) (p cl tenant va : Nat) : Bool :=
  let ps := s.missPages p cl
  decide (64 ≤ ps.length) && !decide (s.missPage p (cl / 6) tenant va ∈ ps)

/-- PUBLISHING under a walk of a lost package counts as PRIVATE (R215): the first word of a header as it counts. -/
def State.liveHeader (s : State) (h h8 : Nat) : Nat :=
  if bitsOf h 15 14 = 1 && (s.pkgD (bitsOf h8 63 52)).lost then h - bitsOf h 15 11 * 2 ^ 11 else h
/-- The header at a home address is PUBLISHING (R200, R215). -/
def State.publishing (s : State) (ga : Nat) : Bool := decide (bitsOf (s.liveHeader (s.gnat ga 8) (s.gnat (ga + 8) 8)) 15 14 = 1)
/-- A replayed STREF of the thread, still in its log, waits for a header: its thread issues nothing (R205). -/
def State.headerHeld (s : State) (t : Thread) : Bool :=
  t.log.any (fun e => match s.access? e.acc with
    | some a => match a.hdr with | some ga => a.unperformed && s.publishing ga | none => false
    | none => false)

/-- A thread stands at a BAR or an RSYNC that has completed, and has not issued since (R250, R315). -/
def State.passedWait (s : State) (k : TKey) (g : Group) (t : Thread) : Bool :=
  match t.wait with
  | .bar n => decide (g.barGen ≠ n)
  | .rsync n => match (g.shares[g.shareIndex k.tidx]?).bind (·.rail) with
    | none => false
    | some m => match s.chainOf g m with | some c => decide (c.gen ≠ n) | none => false
  | _ => false
/-- The next instruction that a thread is to issue (R86). -/
def State.nextPc (s : State) (k : TKey) (g : Group) (t : Thread) : DWord := if s.passedWait k g t then t.pc + 4 else t.pc

/-- The thread's wait still holds (R24). -/
def State.waits (s : State) (k : TKey) (g : Group) (t : Thread) : Bool :=
  match t.wait with
  | .none => false
  | .logFull => decide (4 ≤ t.log.length)
  | .logEmpty => !s.logEmpty k t
  | .fetch => (s.awaitedFetch k.uid t).isSome
  | .held => s.walks.any (fun (_, w) => decide (w.thr = k) && decide (w.failed = 0) &&
        (decide (w.kind = 4) || (decide (w.kind = 5) && decide (w.fault = 0)))) ||
      (s.accOf k).any (fun (_, a) => decide (a.kind = .spill) || decide (a.kind = .refill))
  | .bar n => decide (g.barGen = n)
  | .rsync n =>
    match (g.shares[g.shareIndex k.tidx]?).bind (·.rail) with
    | none => false
    | some m => match s.chainOf g m with | some c => decide (c.gen = n) | none => false
  | .rleave => s.railBusy k.uid (g.shareIndex k.tidx)
  | .swait o w => swaitBlocks (s.snat k.uid (g.shareIndex k.tidx) o 2) w
  | .hwait x => !s.opDone x
  | .waitc l st c ti => decide (l < t.cnt .load ∨ st < t.cnt .store ∨ c < t.cnt .copy ∨ ti < t.cnt .tile)
  | .fence upto a r w e =>
    (s.accOf k).any (fun (x, q) => decide (x < upto) && fenceWaits a r w q) || !s.phaseDone g.pkg t.place.core e
  | .epoch => (s.coreOf g.pkg t.place.core).epochsFull
  | .missing va => s.missFull g.pkg (clusterOf t.place.core) g.tenant va
  | .counter c => decide (63 ≤ t.cnt (clsOf c))
  | .queue w => s.queueFull g k.uid t.place.core w
  | .registry => s.registryFull k.uid (g.shareIndex k.tidx)
  | .header ga => s.publishing ga
  | .kreg n => decide (n ∈ t.kpend)
  | .operand rs => rs.any (fun r => decide (r ∈ t.pend))
  | .accs xs => xs.any (fun x => match s.access? x with | some a => a.unperformed | none => false)
  | .watched x => match s.access? x with
    | some a => a.unperformed && decide (a.stage ≠ .logged)
    | none => false

/-- The group takes bundling rounds: it runs, and is neither frozen nor halted (R23, R279). -/
def Group.issues (g : Group) : Bool :=
  decide (g.phase = .running) && !g.frozen && g.stop.isNone && !g.stopped

/-- A thread's group lets it issue: it runs, or the thread is the one stepped in its halted group (R23, R281). -/
def Group.lets (g : Group) (n : Nat) : Bool := g.issues || (decide (g.stepT = some n) && decide (g.phase = .running) && !g.frozen)

/-! ## Taking a trap and returning from one (R86 to R88) -/

/-- TRAPC's fields (R86). -/
def trapcOf (cause : Nat) (engine replay : Bool) (ix : Nat) : Word :=
  BitVec.ofNat 32 (cause % 256 + bitOf engine * 4096 + bitOf replay * 8192 + ix % 4 * 16384)

/-- Steps 2 and 3 of R87: the outer slot, the depth, and what R86 sets. -/
def Thread.saveTrap (t : Thread) (trapc : Word) (pc va : DWord) : Thread :=
  { t with
    otrapc := if t.depth = 1 then t.trapc else t.otrapc,
    otrappc := if t.depth = 1 then t.trappc else t.otrappc,
    otrapva := if t.depth = 1 then t.trapva else t.otrapva,
    depth := t.depth + 1, trapc := trapc, trappc := pc, trapva := va }
/-- The thread's state after steps 2, 3, 5 and 6 of R87. -/
def Thread.enterTrap (t : Thread) (vec : Nat) (trapc : Word) (pc va : DWord) : Thread :=
  { t.saveTrap trapc pc va with
    demoted := false, demLeft := 0, park := none, wait := .none,
    pc := BitVec.ofNat 64 vec }

/-- Enter a thread's trap handler (R87): TRAPC, TRAPPC and TRAPVA as R86 sets them; `frame` writes the trap frame of a replay
trap and answers none when it cannot. With no vector, or at depth 2, or with no frame after steps 2 and 3, the fault is fatal
(R90). -/
def State.takeTrap (s : State) (k : TKey) (trapc : Word) (pc va : DWord) (frame : State → Option State) : State :=
  match s.group? k.uid with
  | none => s
  | some g =>
    match g.threads[k.tidx]? with
    | none => s
    | some t =>
      let name := threadName g k.tidx (dieOf t.place.core)
      let vec := s.effTrapvec g.pkg g.leaf
      if vec = 0 || decide (2 ≤ t.depth) then s.freeze g.pkg g.leaf (trapc.toNat % 256) name (dieOf t.place.core)
      else match frame s with
        | none => (s.modThread k (fun t => t.saveTrap trapc pc va)).freeze g.pkg g.leaf 0x11 name (dieOf t.place.core)
        | some s =>
          let s := s.modThread k (fun t => t.enterTrap vec trapc pc va)
          s.trace g.pkg g.leaf 7 name trapc.toNat pc.toNat

/-- A trap of the instruction at the thread's PC (R86: 'the instruction'). -/
def State.trapAt (s : State) (k : TKey) (cause : Nat) (va : DWord) : State :=
  match s.thread? k with
  | none => s
  | some t => s.takeTrap k (trapcOf cause false false 0) t.pc va some

/-- A trap whose TRAPPC lies after the instruction at the PC (BKPT, TRAP). -/
def State.trapAfter (s : State) (k : TKey) (cause : Nat) : State :=
  match s.thread? k with
  | none => s
  | some t => s.takeTrap k (trapcOf cause false false 0) (t.pc + 4) 0 some

/-- TRET (R88): to TRAPPC with bits 1:0 read as zero (R390), the outer slot restored from depth 2. A target that is neither the
REP under way nor its follower ends the repetition (R38, log entry 12). -/
def Thread.returnTrap (t : Thread) : Thread :=
  let pc := t.trappc &&& ~~~3#64
  let keep := match t.rep with | some r => decide (pc = r.at_ ∨ pc = r.at_ + 4) | none => true
  { t with
    pc := pc, wait := .none, depth := t.depth - 1, skipBp := true,
    rep := if keep then t.rep else none,
    trapc := if t.depth = 2 then t.otrapc else t.trapc,
    trappc := if t.depth = 2 then t.otrappc else t.trappc,
    trapva := if t.depth = 2 then t.otrapva else t.trapva }

/-- The remaining count REPC reads (R36). -/
def Thread.repc (t : Thread) : Nat := match t.rep with | some r => r.n - r.i | none => 0

/-! ## The debugger's stop (R278, R279, R414) -/

/-- A virtual or physical function with an ATTACH that covers a leaf (R276, R339). -/
def State.attachFor (s : State) (p leaf : Nat) : Option Nat :=
  (List.find? (fun ((_, m) : Nat × Mbox) => m.att && s.covered p leaf m.attReg) (s.pkgD p).mbox).map (·.1)

/-- The order of R278 among the causes of one stop. -/
def stopRank (c : Nat) : Nat := match c with | 6 => 0 | 5 => 1 | 2 => 2 | 4 => 3 | 3 => 4 | 1 => 5 | _ => 6

/-- The events that carry a DUMP or a READ CONTEXT on name its function plus this. -/
def contFn : Nat := 1000
/-- Of two functions that stop a group, the one that halts it: not a DUMP, which resumes it (R280, R284). -/
def haltsBy (old new : Option Nat) (better : Bool) : Option Nat :=
  if old.any (fun f => decide (contFn ≤ f)) then new
  else if new.any (fun f => decide (contFn ≤ f)) then old
  else if better then new else old

/-- Ask for a stop of a group; several in one cycle make one stop (R278), for which every asker waits. The hitting threads count. -/
def State.requestStop (s : State) (uid cause : Nat) (hit : Option Nat) (named : Nat) (fn : Option Nat) : State :=
  let s := s.modGroup uid (fun g =>
    match g.stop with
    | none => { g with stop := some { cause := cause, hits := hit.toList, named := named, fn := fn, asked := fn.toList } }
    | some st =>
      let hits := hit.toList.foldl insertNat st.hits
      let better := decide (stopRank cause < stopRank st.cause)
      { g with stop := some { cause := if better then cause else st.cause, hits := hits,
                              named := match hits with | h :: _ => h | [] => if better then named else st.named,
                              fn := haltsBy st.fn fn better, asked := fn.toList.foldl insertNat st.asked } })
  s.laterOnce (.groupStop uid)

/-! ## Flags (R107, R109) -/

/-- Merge flags into a thread by OR. -/
def Thread.addFlags (t : Thread) (f : Nat) : Thread := { t with fflags := t.fflags ||| BitVec.ofNat 32 (f % 32) }
def State.mergeFlags (s : State) (k : TKey) (f : Word) : State := s.modThread k (fun t => t.addFlags f.toNat)

/-- GSTORED is set (R72). -/
def State.stored (s : State) (u : Nat) : State := s.modGroup u (fun g => { g with gstored := true })

end Sys2Proof.Machine
end

