-- ==== Sys2Proof/Machine/Flags.lean ====
section
/-! DEFINITION. Sticky flags and results of floating-point forms in a thread (R99, R100, R107 to R109). -/

namespace Sys2Proof.Machine

/-- The rounding mode of an instruction that is no down-conversion: RM 4 acts as 0 (R100). -/
def Thread.rm (t : Thread) : Nat := rmOf t.fmode.toNat
/-- FTZ (R99). -/
def Thread.ftz (t : Thread) : Bool := ftzOf t.fmode.toNat
/-- An F32 operand read under FTZ (R103). -/
def Thread.rdF (t : Thread) (i : Nat) : FVal := fmt32.read t.ftz (t.rd i).toNat
/-- Deliver an F32 result with its flags (R107). -/
def Thread.wrF (t : Thread) (d : Nat) (r : FRes) : Thread := (t.wr d (BitVec.ofNat 32 r.bits)).addFlags r.flags

/-- Two packed halves or four packed bytes: sub-element j of width w (R93). -/
def subElem (w j : Nat) (x : Word) : Nat := x.toNat / 2 ^ (w * j) % 2 ^ w
/-- A sub-element as a signed integer. -/
def subInt (w j : Nat) (x : Word) : Int :=
  let v := subElem w j x
  if 2 ^ (w - 1) ≤ v then (v : Int) - 2 ^ w else v
/-- Replace a sub-element. -/
def setSub (w j : Nat) (x : Word) (v : Nat) : Word :=
  BitVec.ofNat 32 (x.toNat - subElem w j x * 2 ^ (w * j) + v % 2 ^ w * 2 ^ (w * j))
/-- The governing bit of a sub-element: p0 bit j for bytes, bit 2j for halves (R391). -/
def govBit (p0 : BitVec 8) (w j : Nat) : Bool := p0.getLsbD (if w = 8 then j else 2 * j)
/-- A packed result: each active sub-element computed, the others kept (R391). -/
def packed (p0 : BitVec 8) (w n : Nat) (old : Word) (f : Nat → Nat) : Word :=
  (List.range n).foldl (fun x j => if govBit p0 w j then setSub w j x (f j) else x) old
/-- A packed float result and the flags of its active sub-elements (R393). -/
def packedF (p0 : BitVec 8) (old : Word) (f : Nat → FRes) : Word × Nat :=
  (List.range 2).foldl (fun (x, fl) j =>
    if govBit p0 16 j then let r := f j; (setSub 16 j x r.bits, fl ||| r.flags) else (x, fl)) (old, 0)

end Sys2Proof.Machine
end

