-- ==== Sys2Proof/Machine/Operands.lean ====
section
/-! DEFINITION. Operand forms: the judgement of register fields (R300 step 4, R36), the wait for pending operands (R24) and the
governing by p0 (R302), once for every form. -/

namespace Sys2Proof.Machine

/-- Register fields an instruction names: (first register, how many). -/
abbrev Spans := List (Nat × Nat)

/-- Every register of a field lies in the window; in an iteration of a REP, in the allotment (R22, R36, R300 step 4). -/
def inWindow (g : Group) (t : Thread) (sp : Spans) : Bool :=
  match t.iterates with
  | some _ => sp.all (fun (i, n) => decide (t.wbase + i + n ≤ g.lr.allot))
  | none => sp.all (fun (i, n) => decide (i + n ≤ g.lr.window))

/-- An allotment fault: TRAPPC is the instruction, or the REP (R86). -/
def State.allotmentFault (s : State) (k : TKey) (t : Thread) : State :=
  s.takeTrap k (trapcOf 0x02 false false 0) (match t.iterates with | some r => r.at_ | none => t.pc) 0 some

/-- The allotment registers of the fields that are pending (R24). -/
def pendingOf (t : Thread) (sp : Spans) : List Nat :=
  sp.flatMap (fun (i, n) => ((List.range n).map (fun j => t.wbase + i + j)).filter (fun r => decide (r ∈ t.pend)))

/-- Judge the register fields, then wait for pending operands, then go on. -/
def judged (s : State) (k : TKey) (g : Group) (t : Thread) (sp : Spans) (body : State) : State :=
  if !inWindow g t sp then s.allotmentFault k t
  else match pendingOf t sp with
    | [] => body
    | r :: rs => s.stay k (.operand (r :: rs))

/-- A form that acts for every thread that issues it (R302). -/
def ungoverned (s : State) (sp : Spans) (f : TKey → Group → Thread → State) : Out :=
  withThread s (fun k g t => judged s k g t sp (f k g t))

/-- A governed form: an inactive thread only goes on (R302, R308). -/
def governed (s : State) (sp : Spans) (f : TKey → Group → Thread → State) : Out :=
  ungoverned s sp (fun k g t => if t.active then f k g t else s.retire k id)

/-- A packed form, governed by the bits of its sub-elements (R391). -/
def packedForm (s : State) (sp : Spans) (w n : Nat) (f : TKey → Group → Thread → State) : Out :=
  ungoverned s sp (fun k g t =>
    if (List.range n).any (govBit (t.rdP 0) w) then f k g t else s.retire k id)

/-- d := op a b on 32-bit registers. -/
def alu3 (s : State) (d a b : Nat) (op : Word → Word → Word) : Out :=
  governed s [(d, 1), (a, 1), (b, 1)] (fun k _ _ => s.retire k (fun t => t.wr d (op (t.rd a) (t.rd b))))
/-- d := op d a b on 32-bit registers. -/
def alu3d (s : State) (d a b : Nat) (op : Word → Word → Word → Word) : Out :=
  governed s [(d, 1), (a, 1), (b, 1)] (fun k _ _ => s.retire k (fun t => t.wr d (op (t.rd d) (t.rd a) (t.rd b))))
/-- d := op a on 32-bit registers. -/
def alu2 (s : State) (d a : Nat) (op : Word → Word) : Out :=
  governed s [(d, 1), (a, 1)] (fun k _ _ => s.retire k (fun t => t.wr d (op (t.rd a))))
/-- d := op a b on pairs (R93). -/
def alu3w (s : State) (d a b : Nat) (op : DWord → DWord → DWord) : Out :=
  governed s [(d, 2), (a, 2), (b, 2)] (fun k _ _ => s.retire k (fun t => t.wr64 d (op (t.rd64 a) (t.rd64 b))))
def alu3wd (s : State) (d a b : Nat) (op : DWord → DWord → DWord → DWord) : Out :=
  governed s [(d, 2), (a, 2), (b, 2)] (fun k _ _ => s.retire k (fun t => t.wr64 d (op (t.rd64 d) (t.rd64 a) (t.rd64 b))))
def alu2w (s : State) (d a : Nat) (op : DWord → DWord) : Out :=
  governed s [(d, 2), (a, 2)] (fun k _ _ => s.retire k (fun t => t.wr64 d (op (t.rd64 a))))
/-- A shift of a pair by a single register (R369). -/
def aluShw (s : State) (d a b : Nat) (op : DWord → Nat → DWord) : Out :=
  governed s [(d, 2), (a, 2), (b, 1)] (fun k _ _ => s.retire k (fun t => t.wr64 d (op (t.rd64 a) (t.rd b).toNat)))
/-- A float form of one, two or three F32 operands (R331). -/
def fpu2 (s : State) (d a : Nat) (op : Thread → FVal → FRes) : Out :=
  governed s [(d, 1), (a, 1)] (fun k _ _ => s.retire k (fun t => t.wrF d (op t (t.rdF a))))
def fpu3 (s : State) (d a b : Nat) (op : Thread → FVal → FVal → FRes) : Out :=
  governed s [(d, 1), (a, 1), (b, 1)] (fun k _ _ => s.retire k (fun t => t.wrF d (op t (t.rdF a) (t.rdF b))))

/-- A packed integer form (R392). -/
def packedInt (s : State) (ty : VInt) (d a b : Nat) (op : Int → Int → Int) : Out :=
  let w := match ty with | .s8x4 => 8 | .s16x2 => 16
  packedForm s [(d, 1), (a, 1), (b, 1)] w (32 / w) (fun k _ _ => s.retire k (fun t =>
    t.wr d (packed (t.rdP 0) w (32 / w) (t.rd d) (fun j => (op (subInt w j (t.rd a)) (subInt w j (t.rd b)) % 2 ^ w).toNat))))

/-- The kind of a packed float form (R393). -/
def vfmt : VFloat → Fmt | .f16x2 => ⟨5, 10, 15, .ieee⟩ | .bf16x2 => ⟨8, 7, 127, .ieee⟩
/-- A packed float form (R393): operands d, a and b of each active sub-element. -/
def packedFloat (s : State) (ty : VFloat) (d a b : Nat) (op : Fmt → Thread → FVal → FVal → FVal → FRes) : Out :=
  packedForm s [(d, 1), (a, 1), (b, 1)] 16 2 (fun k _ _ => s.retire k (fun t =>
    let f := vfmt ty
    let rd (i j : Nat) : FVal := f.read t.ftz (subElem 16 j (t.rd i))
    let (x, fl) := packedF (t.rdP 0) (t.rd d) (fun j => op f t (rd d j) (rd a j) (rd b j))
    (t.wr d x).addFlags fl))

/-- A predicate form (R370). -/
def predForm (s : State) (sp : Spans) (f : Thread → Thread) : Out := ungoverned s sp (fun k _ _ => s.retire k f)

/-- A branch (R318): every issuing thread tests its own condition. -/
def branch (s : State) (sp : Spans) (taken : Thread → Bool) (off : BitVec 16) : Out :=
  ungoverned s sp (fun k _ t =>
    if taken t then s.modThread k (fun t => t.goTo (t.pc + (off.signExtend 64 <<< 2))) else s.retire k id)

end Sys2Proof.Machine
end

