-- ==== Sys2Proof/Machine/Cross.lean ====
section
/-! DEFINITION. Cross-lane instructions: parking, the crew's execution, shuffles, votes, reductions and scans (R29 to R32, R112,
R398 to R404). -/

namespace Sys2Proof.Machine

/-- A value under reduction with the flags of the combines that formed it. -/
abbrev Leaf := Option (Word × Nat)

/-- Combine two values of the tree; an absent one passes the other (R112). -/
def joinLeaf (f : Word → Word → Word × Nat) (a b : Leaf) : Leaf :=
  match a, b with
  | none, y => y
  | x, none => x
  | some (x, p), some (y, q) => let (z, r) := f x y; some (z, p ||| q ||| r)

/-- One stride of the tree: neighbours in pairs. -/
def pairUp (f : Word → Word → Word × Nat) : List Leaf → List Leaf
  | a :: b :: l => joinLeaf f a b :: pairUp f l
  | l => l

/-- The reduction of the tree over 2^n leaves (R112). -/
def treeRed (f : Word → Word → Word × Nat) : Nat → List Leaf → Leaf
  | 0, l => (l.headD none)
  | n + 1, l => treeRed f n (pairUp f l)

/-- What stands before each child, from what stands before each parent. -/
def spread (f : Word → Word → Word × Nat) : List Leaf → List Leaf → List Leaf
  | p :: ps, a :: _ :: l => p :: joinLeaf f p a :: spread f ps l
  | _, _ => []

/-- What stands before each leaf: the down-sweep of the same tree (R112, log entry 34). -/
def treeBefore (f : Word → Word → Word × Nat) : Nat → List Leaf → List Leaf
  | 0, _ => [none]
  | n + 1, l => spread f (treeBefore f n (pairUp f l)) l

/-- The inclusive prefixes (R403). -/
def treeScan (f : Word → Word → Word × Nat) (l : List Leaf) : List Leaf :=
  (treeBefore f 5 l).zipWith (joinLeaf f) l

/-- The operators of XRED and XSCAN (R402), with RM and FTZ of a leader's FMODE. -/
def crossOp (op : XOp) (fm : Word) (x y : Word) : Word × Nat :=
  let ftz := ftzOf fm.toNat
  let v (w : Word) : FVal := fmt32.read ftz w.toNat
  let r (z : FRes) : Word × Nat := (BitVec.ofNat 32 z.bits, z.flags)
  match op with
  | .add => (x + y, 0)
  | .minS => (if y.toInt < x.toInt then y else x, 0)
  | .maxS => (if x.toInt < y.toInt then y else x, 0)
  | .minZ => (if y.toNat < x.toNat then y else x, 0)
  | .maxZ => (if x.toNat < y.toNat then y else x, 0)
  | .and => (x &&& y, 0)
  | .or => (x ||| y, 0)
  | .xor => (x ^^^ y, 0)
  | .addF => r (fmt32.add ftz (rmOf fm.toNat) (v x) (v y))
  | .minF => r (fmt32.minMax false (v x) (v y))
  | .maxF => r (fmt32.minMax true (v x) (v y))

/-- Leaves of the 32 crew indices: active members' values (R398). -/
def leavesOf (ms : List (Nat × Thread)) (a : Nat) : List Leaf :=
  (List.range 32).map (fun i => match ms.find? (fun (j, t) => decide (j = i) && t.active) with
    | some (_, t) => some (t.rd a, 0) | none => none)

/-- FMODE of the active member at the lowest crew index (R112). -/
def leaderMode (ms : List (Nat × Thread)) : Word := match ms.find? (fun (_, t) => t.active) with | some (_, t) => t.fmode | none => 0

/-- What one operation gives a member at crew index i of the members `ms` that execute it. -/
def crossMember (ins : Instr) (ms : List (Nat × Thread)) (i : Nat) (t : Thread) : Thread :=
  if !t.active then t
  else
    let act := ms.filter (fun (_, u) => u.active)
    match ins with
    | .xshf w d a b =>
      let src := match act.find? (fun (j, _) => decide (j = (t.rd b).toNat % 32)) with | some (_, u) => u | none => t
      if w = .w64 then t.wr64 d (src.rd64 a) else t.wr d (src.rd a)
    | .xbal d p => t.wr d (act.foldl (fun m (j, u) => if (u.rdP p).getLsbD 0 then m ||| (1#32 <<< j) else m) 0)
    | .xvote v p a =>
      let bs := act.map (fun (_, u) => (u.rdP a).getLsbD 0)
      t.wrP p (predOf (match v with
        | .all => bs.all id | .any => bs.any id | .eq => bs.all id || bs.all (fun b => !b)))
    | .xred op d a =>
      match treeRed (crossOp op (leaderMode ms)) 5 (leavesOf ms a) with
      | some (x, fl) => (t.wr d x).addFlags fl
      | none => t
    | .xscan op d a =>
      match (treeScan (crossOp op (leaderMode ms)) (leavesOf ms a))[i]? with
      | some (some (x, fl)) => (t.wr d x).addFlags fl
      | _ => t
    | _ => t

/-- The parked threads at the lowest PC execute as one operation; then the next PC, until none is parked (R29). -/
def crewPasses : Nat → List (Nat × Thread) → List (Nat × Thread)
  | 0, ts => ts
  | f + 1, ts =>
    let parked := ts.filter (fun (_, t) => t.park.isSome)
    match parked with
    | [] => ts
    | (_, t0) :: _ =>
      let pc := parked.foldl (fun m (_, t) => if t.pc.toNat < m then t.pc.toNat else m) t0.pc.toNat
      let ms := parked.filter (fun (_, t) => decide (t.pc.toNat = pc))
      crewPasses f (ts.map (fun (i, t) =>
        match t.park with
        | some ins => if t.pc.toNat = pc then (i, { (crossMember ins ms i t).next with park := none }) else (i, t)
        | none => (i, t)))

/-- Once every non-exited thread of a crew is parked, the crew executes (R29). -/
def Group.crewRun (g : Group) (crew : Nat) : Group :=
  let ts := (g.threads.zipIdx).filterMap (fun (t, n) => if n / 32 = crew && !t.exited then some (n % 32, t) else none)
  if ts.isEmpty || !ts.all (fun (_, t) => t.park.isSome) then g
  else
    let out := crewPasses 32 ts
    { g with threads := (g.threads.zipIdx).map (fun (t, n) =>
        if n / 32 = crew && !t.exited then
          match out.find? (fun (i, _) => decide (i = n % 32)) with | some (_, u) => u | none => t
        else t) }

/-- A thread issues a cross-lane instruction: it parks there, and the crew executes if it is complete (R29, R398). -/
def parks (s : State) (sp : Spans) (ins : Instr) : Out :=
  ungoverned s sp (fun k _ _ =>
    (s.modThread k (fun t => { t with park := some ins, wait := .none })).modGroup k.uid (fun g => g.crewRun (k.tidx / 32)))

/-- XSHF (R399). -/
def execXshf (w : Width) (d a b : Nat) (s : State) : Out :=
  let n := if w = .w64 then 2 else 1
  parks s [(d, n), (a, n), (b, 1)] (.xshf w d a b)
/-- XBAL (R400). -/
def execXbal (d p : Nat) (s : State) : Out := parks s [(d, 1)] (.xbal d p)
/-- XVOTE (R401). -/
def execXvote (v : Vote) (p a : Nat) (s : State) : Out := parks s [] (.xvote v p a)
/-- XRED (R402). -/
def execXred (op : XOp) (d a : Nat) (s : State) : Out := parks s [(d, 1), (a, 1)] (.xred op d a)
/-- XSCAN (R403). -/
def execXscan (op : XOp) (d a : Nat) (s : State) : Out := parks s [(d, 1), (a, 1)] (.xscan op d a)

/-- The remapping-table entry of a thread (R32). -/
def Place.entry (p : Place) : Word := BitVec.ofNat 32 (p.core % 512 * 2 ^ 14 + p.lane % 64 * 2 ^ 8 + p.slot % 32)
/-- XIDX (R404): the entry of a crew index, governed like an ordinary form. -/
def execXidx (d a : Nat) (s : State) : Out :=
  governed s [(d, 1), (a, 1)] (fun k g t =>
    let m := k.tidx / 32 * 32 + (t.rd a).toNat % 32
    s.retire k (fun t => t.wr d (match g.threads[m]? with | some u => u.place.entry | none => 0)))

end Sys2Proof.Machine
end

