-- ==== Sys2Proof/Decode.lean ====
section
/-! DEFINITION. Decoding and encoding of instruction words (R294 to R300): `decodeWord` judges steps 1 and 2 of R300 and is
total on every word; `decodeBytes` reads a word from memory order (R2); `encode` writes the word of an instruction row. -/

namespace Sys2Proof

/-- Why a word is illegal: step 1 or step 2 of R300. -/
inductive Illegal where
  /-- step 1: the major opcode or function code is not assigned (R295) -/
  | reservedOpcode
  /-- step 2: a zero, reserved or even field rule of R295 to R298 fails -/
  | badField
  deriving DecidableEq, Repr

/-- Step 2 of R300: the zero fields hold (`z`) and the instruction is well formed. -/
def checked (z : Bool) (i : Instr) : Except Illegal Instr := if z && i.wf then .ok i else .error .badField

/-- Step 2 of R300 for a code that the tables leave reserved. -/
def badField : Except Illegal Instr := .error .badField

/-- Step 1 of R300. -/
def reservedOp : Except Illegal Instr := .error .reservedOpcode

/-- The sign bit of a paired function code: 0 signed, 1 unsigned (R295). -/
def sgnOf (n : Nat) : Sgn := if n % 2 = 0 then .s else .z

/-- A 32- or 64-bit form bit. -/
def widthOf (n : Nat) : Width := if n % 2 = 0 then .w32 else .w64

/-- Packed integer type t of majors 11 and 13 (R295). -/
def vintOf (n : Nat) : VInt := if n % 2 = 0 then .s8x4 else .s16x2

/-- Packed float type t of major 12 (R295). -/
def vfloatOf (n : Nat) : VFloat := if n % 2 = 0 then .f16x2 else .bf16x2

/-- Scope codes of R297; 5 to 7 are reserved. -/
def scopeOf : Nat → Option Scope
  | 0 => some .grp | 1 => some .clu | 2 => some .pkg | 3 => some .pod | 4 => some .sys | _ => none

/-- Order codes of majors 22 and 23 (R297). -/
def orderOf : Nat → Order
  | 1 => .acq | 2 => .rel | 3 => .ar | _ => .rlx

/-- Order codes of FENCE (R296); 0 is reserved. -/
def fenceOrderOf : Nat → Option FenceOrder
  | 1 => some .acq | 2 => some .rel | 3 => some .ar | _ => none

/-- Kind codes of R298; 23 to 31 are reserved. -/
def kindOf : Nat → Option Kind
  | 0 => some .s8 | 1 => some .s16 | 2 => some .s32 | 3 => some .s64
  | 4 => some .z8 | 5 => some .z16 | 6 => some .z32 | 7 => some .z64
  | 8 => some .f32 | 9 => some .f16 | 10 => some .bf16 | 11 => some .e4m3
  | 12 => some .e5m2 | 13 => some .e2m3 | 14 => some .e3m2 | 15 => some .e2m1
  | 16 => some .b2 | 17 => some .b3 | 18 => some .b4 | 19 => some .b5
  | 20 => some .b6 | 21 => some .b7 | 22 => some .b8
  | _ => none

/-- Policy codes (R104, R105). -/
def policyOf : Nat → Policy
  | 0 => .sat | 1 => .inf | 2 => .nan | _ => .trap

/-- Load function codes of majors 16 and 18 (R358). -/
def ldKindOf : Nat → Option LdKind
  | 0 => some .s8 | 1 => some .s16 | 2 => some .s32 | 3 => some .d64
  | 4 => some .z8 | 5 => some .z16 | 6 => some .z32 | _ => none

/-- Store function codes of majors 17 and 19 (R379). -/
def stKindOf : Nat → Option StKind
  | 0 => some .b1 | 1 => some .b2 | 2 => some .b4 | 3 => some .b8 | _ => none

/-- Function codes of ISET (R351). -/
def icmpOf : Nat → Option (Width × ICmp)
  | 0 => some (.w32, .eq) | 1 => some (.w32, .ne) | 2 => some (.w32, .ltS) | 3 => some (.w32, .leS)
  | 4 => some (.w32, .ltZ) | 5 => some (.w32, .leZ) | 6 => some (.w64, .eq) | 7 => some (.w64, .ne)
  | 8 => some (.w64, .ltS) | 9 => some (.w64, .leS) | 10 => some (.w64, .ltZ) | 11 => some (.w64, .leZ)
  | _ => none

/-- Function codes of FCMP (R333). -/
def fcmpOf : Nat → Option FCmp
  | 0 => some .eq | 1 => some .ne | 2 => some .lt | 3 => some .le | 4 => some .un | _ => none

/-- Function codes of ATOM and ATOMS (R309). -/
def atomOpOf : Nat → Option AtomOp
  | 0 => some .add32 | 1 => some .add64 | 2 => some .addF32 | 3 => some .minS32 | 4 => some .minZ32
  | 5 => some .minS64 | 6 => some .minZ64 | 7 => some .minF32 | 8 => some .maxS32 | 9 => some .maxZ32
  | 10 => some .maxS64 | 11 => some .maxZ64 | 12 => some .maxF32 | 13 => some .and32 | 14 => some .or32
  | 15 => some .xor32 | 16 => some .xchg32 | 17 => some .xchg64 | 18 => some .cas32 | 19 => some .cas64
  | _ => none

/-- XRED function codes 8 to 18 of major 44 (R402). -/
def xredOf : Nat → Option XOp
  | 8 => some .add | 9 => some .minS | 10 => some .maxS | 11 => some .minZ | 12 => some .maxZ
  | 13 => some .and | 14 => some .or | 15 => some .xor | 16 => some .addF | 17 => some .minF | 18 => some .maxF
  | _ => none

/-- XSCAN function codes 19 to 26 of major 44 (R403). -/
def xscanOf : Nat → Option XOp
  | 19 => some .add | 20 => some .minS | 21 => some .maxS | 22 => some .minZ | 23 => some .maxZ
  | 24 => some .addF | 25 => some .minF | 26 => some .maxF
  | _ => none

/-- Special register numbers (R299); 22 to 127 are reserved. -/
def sregOf : Nat → Option SReg
  | 0 => some .tidx | 1 => some .crew | 2 => some .gidx | 3 => some .gsize | 4 => some .ngrp | 5 => some .pbase
  | 6 => some .slim | 7 => some .scrb | 8 => some .wbase | 9 => some .repc | 10 => some .prio | 11 => some .fmode
  | 12 => some .fflags | 13 => some .mprg | 14 => some .trapc | 15 => some .trappc | 16 => some .trapva
  | 17 => some .trapdepth | 18 => some .tblo | 19 => some .tbhi | 20 => some .cyc | 21 => some .seed
  | _ => none

/-- A reserved code makes the word illegal at step 2 of R300. -/
def withCode {α : Type} (o : Option α) (f : α → Except Illegal Instr) : Except Illegal Instr :=
  match o with
  | some x => f x
  | none => badField

/-- Major 1 (R295): 32-bit integer forms. -/
def major1 (fn d a b : Nat) : Except Illegal Instr :=
  match fn with
  | 0 => checked true (.iadd d a b)
  | 1 => checked true (.isub d a b)
  | 2 => checked true (.imul d a b)
  | 3 => checked true (.imulhS32 d a b)
  | 4 => checked true (.imulhZ32 d a b)
  | 5 => checked true (.imad d a b)
  | 6 => checked true (.idiv .s d a b)
  | 7 => checked true (.idiv .z d a b)
  | 8 => checked true (.irem .s d a b)
  | 9 => checked true (.irem .z d a b)
  | 10 => checked true (.imin .s d a b)
  | 11 => checked true (.imin .z d a b)
  | 12 => checked true (.imax .s d a b)
  | 13 => checked true (.imax .z d a b)
  | 14 => checked (b == 0) (.iabs d a)
  | 15 => checked (b == 0) (.ineg d a)
  | 16 => checked true (.and d a b)
  | 17 => checked true (.andn d a b)
  | 18 => checked true (.or d a b)
  | 19 => checked true (.xor d a b)
  | 20 => checked true (.shl d a b)
  | 21 => checked true (.shr d a b)
  | 22 => checked true (.sar d a b)
  | 23 => checked true (.rot d a b)
  | 24 => checked (b == 0) (.clz d a)
  | 25 => checked (b == 0) (.popc d a)
  | 26 => checked (b == 0) (.brev d a)
  | _ => reservedOp

/-- Major 2 (R295): 64-bit integer forms. -/
def major2 (fn d a b : Nat) : Except Illegal Instr :=
  match fn with
  | 0 => checked true (.iadd64 d a b)
  | 1 => checked true (.isub64 d a b)
  | 2 => checked true (.imul64 d a b)
  | 5 => checked true (.imad64 d a b)
  | 10 => checked true (.imin64 .s d a b)
  | 11 => checked true (.imin64 .z d a b)
  | 12 => checked true (.imax64 .s d a b)
  | 13 => checked true (.imax64 .z d a b)
  | 14 => checked (b == 0) (.iabs64 d a)
  | 15 => checked (b == 0) (.ineg64 d a)
  | 16 => checked true (.and64 d a b)
  | 17 => checked true (.andn64 d a b)
  | 18 => checked true (.or64 d a b)
  | 19 => checked true (.xor64 d a b)
  | 20 => checked true (.shl64 d a b)
  | 21 => checked true (.shr64 d a b)
  | 22 => checked true (.sar64 d a b)
  | 23 => checked true (.rot64 d a b)
  | _ => reservedOp

/-- Major 3 (R351): ISET; a function code of 12 to 31 is not assigned. -/
def major3 (fn d a b : Nat) : Except Illegal Instr :=
  match icmpOf fn with
  | some (w, c) => checked (d < 16) (.iset w c d a b)
  | none => reservedOp

/-- Major 4 (R350): ISEL. -/
def major4 (fn d a b : Nat) : Except Illegal Instr :=
  if fn < 8 then checked true (.isel fn d a b) else reservedOp

/-- Major 7 (R330, R334): FP32 forms. -/
def major7 (fn d a b : Nat) : Except Illegal Instr :=
  match fn with
  | 0 => checked true (.fadd d a b)
  | 1 => checked true (.fsub d a b)
  | 2 => checked true (.fmul d a b)
  | 3 => checked true (.ffma d a b)
  | 4 => checked true (.fmin d a b)
  | 5 => checked true (.fmax d a b)
  | 6 => checked (b == 0) (.frcp d a)
  | 7 => checked (b == 0) (.frsq d a)
  | 8 => checked (b == 0) (.fsqrt d a)
  | 9 => checked (b == 0) (.fexp2 d a)
  | 10 => checked (b == 0) (.flog2 d a)
  | 11 => checked (b == 0) (.fsin d a)
  | 12 => checked (b == 0) (.fcos d a)
  | 13 => checked (b == 0) (.ftanh d a)
  | _ => reservedOp

/-- Major 8 (R333): FCMP. -/
def major8 (fn d a b : Nat) : Except Illegal Instr :=
  match fcmpOf fn with
  | some c => checked (d < 16) (.fcmp c d a b)
  | none => reservedOp

/-- Major 9 (R324, R325): CVT; targets of codes 0 to 15. -/
def major9 (fn d a b : Nat) : Except Illegal Instr :=
  if fn < 16 then
    withCode (kindOf fn) fun dst => withCode (kindOf (b % 32)) fun src => checked (b < 32) (.cvt dst src d a)
  else reservedOp

/-- Major 10 (R327): CVTD. -/
def major10 (fn d a b : Nat) : Except Illegal Instr :=
  if fn < 23 then
    withCode (kindOf fn) fun dst => withCode (kindOf (b % 32)) fun src =>
      checked true (.cvtd dst src (policyOf (b / 32)) d a)
  else reservedOp

/-- Major 11 (R392): packed integer forms. -/
def major11 (fn d a b : Nat) : Except Illegal Instr :=
  match fn with
  | 0 => checked true (.vaddInt .s8x4 d a b)
  | 1 => checked true (.vaddInt .s16x2 d a b)
  | 2 => checked true (.vsubInt .s8x4 d a b)
  | 3 => checked true (.vsubInt .s16x2 d a b)
  | 4 => checked true (.vmulInt .s8x4 d a b)
  | 5 => checked true (.vmulInt .s16x2 d a b)
  | 6 => checked true (.vminInt .s8x4 d a b)
  | 7 => checked true (.vminInt .s16x2 d a b)
  | 8 => checked true (.vmaxInt .s8x4 d a b)
  | 9 => checked true (.vmaxInt .s16x2 d a b)
  | 10 => checked true (.vdot4 d a b)
  | _ => reservedOp

/-- Major 12 (R393): packed float forms. -/
def major12 (fn d a b : Nat) : Except Illegal Instr :=
  match fn with
  | 0 => checked true (.vaddFloat .f16x2 d a b)
  | 1 => checked true (.vaddFloat .bf16x2 d a b)
  | 2 => checked true (.vsubFloat .f16x2 d a b)
  | 3 => checked true (.vsubFloat .bf16x2 d a b)
  | 4 => checked true (.vmulFloat .f16x2 d a b)
  | 5 => checked true (.vmulFloat .bf16x2 d a b)
  | 6 => checked true (.vminFloat .f16x2 d a b)
  | 7 => checked true (.vminFloat .bf16x2 d a b)
  | 8 => checked true (.vmaxFloat .f16x2 d a b)
  | 9 => checked true (.vmaxFloat .bf16x2 d a b)
  | 10 => checked true (.vfma .f16x2 d a b)
  | 11 => checked true (.vfma .bf16x2 d a b)
  | _ => reservedOp

/-- Major 13 (R394): VSEL, VPACK, VUNPK. -/
def major13 (fn d a b : Nat) : Except Illegal Instr :=
  if fn < 8 then checked true (.vsel fn d a b)
  else match fn with
  | 8 => checked true (.vpack .s8x4 d a b)
  | 9 => checked true (.vpack .s16x2 d a b)
  | 10 => checked true (.vunpk .s8x4 d a b)
  | 11 => checked true (.vunpk .s16x2 d a b)
  | _ => reservedOp

/-- Major 14 (R370): predicate operations; `z` is bits 1:0. -/
def major14 (fn d a b v z : Nat) : Except Illegal Instr :=
  match fn with
  | 0 => checked (v == 0 && z == 0) (.pand d a b)
  | 1 => checked (v == 0 && z == 0) (.por d a b)
  | 2 => checked (v == 0 && z == 0) (.pxor d a b)
  | 3 => checked (b == 0 && v == 0 && z == 0) (.pnot d a)
  | 4 => checked (b == 0 && v == 0 && z == 0) (.pmovPred d a)
  | 5 => checked (a == 0 && b == 0 && z == 0) (.pmovFromV d v)
  | 6 => checked (d == 0 && b == 0 && z == 0) (.pmovToV a v)
  | _ => reservedOp

/-- Major 16 (R358): relaxed loads. -/
def major16 (fn d b o : Nat) : Except Illegal Instr :=
  if fn = 7 then checked true (.ldref d b (BitVec.ofNat 9 o))
  else withCode (ldKindOf fn) fun k => checked true (.ld k d b (BitVec.ofNat 9 o))

/-- Major 17 (R379): relaxed stores. -/
def major17 (fn d b o : Nat) : Except Illegal Instr :=
  if fn = 4 then checked true (.stref d b (BitVec.ofNat 9 o))
  else match stKindOf fn with
  | some k => checked true (.st k d b (BitVec.ofNat 9 o))
  | none => reservedOp

/-- Major 18 (R360): LDS. -/
def major18 (fn d b o : Nat) : Except Illegal Instr :=
  match ldKindOf fn with
  | some k => checked true (.lds k d b (BitVec.ofNat 9 o))
  | none => reservedOp

/-- Major 19 (R382): STS. -/
def major19 (fn d b o : Nat) : Except Illegal Instr :=
  match stKindOf fn with
  | some k => checked true (.sts k d b (BitVec.ofNat 9 o))
  | none => reservedOp

/-- Major 20 (R361, R383): LDPV and STPV. -/
def major20 (fn d b o : Nat) : Except Illegal Instr :=
  match fn with
  | 0 => checked true (.ldpv .w32 d b (BitVec.ofNat 9 o))
  | 1 => checked true (.ldpv .w64 d b (BitVec.ofNat 9 o))
  | 2 => checked true (.stpv .w32 d b (BitVec.ofNat 9 o))
  | 3 => checked true (.stpv .w64 d b (BitVec.ofNat 9 o))
  | _ => reservedOp

/-- Major 21 (R358, R360, R379, R382): ordered forms; b 6:4 is the scope and b 3:0 is zero. -/
def major21 (fn d a b : Nat) : Except Illegal Instr :=
  match fn with
  | 0 => withCode (scopeOf (b / 16)) fun sc => checked (b % 16 == 0) (.ldAcq .w32 d a sc)
  | 1 => withCode (scopeOf (b / 16)) fun sc => checked (b % 16 == 0) (.ldAcq .w64 d a sc)
  | 2 => withCode (scopeOf (b / 16)) fun sc => checked (b % 16 == 0) (.ldrefAcq d a sc)
  | 3 => withCode (scopeOf (b / 16)) fun sc => checked (b % 16 == 0) (.stRel32 d a sc)
  | 4 => withCode (scopeOf (b / 16)) fun sc => checked (b % 16 == 0) (.stRel64 d a sc)
  | 5 => withCode (scopeOf (b / 16)) fun sc => checked (b % 16 == 0) (.strefRel d a sc)
  | 6 => withCode (scopeOf (b / 16)) fun sc => checked (b % 16 == 0) (.ldsAcq .w32 d a sc)
  | 7 => withCode (scopeOf (b / 16)) fun sc => checked (b % 16 == 0) (.ldsAcq .w64 d a sc)
  | 8 => withCode (scopeOf (b / 16)) fun sc => checked (b % 16 == 0) (.stsRel .w32 d a sc)
  | 9 => withCode (scopeOf (b / 16)) fun sc => checked (b % 16 == 0) (.stsRel .w64 d a sc)
  | _ => reservedOp

/-- Major 22 (R309): ATOM; b is order 6:5, scope 4:2, NORET 1, zero 0. -/
def major22 (fn d a b : Nat) : Except Illegal Instr :=
  match atomOpOf fn with
  | some op => withCode (scopeOf (b / 4 % 8)) fun sc =>
      checked (b % 2 == 0) (.atom op d a (orderOf (b / 32)) sc (decide (b / 2 % 2 = 1)))
  | none => reservedOp

/-- Major 23 (R309): ATOMS; operations that R309 does not list for ATOMS are not assigned. -/
def major23 (fn d a b : Nat) : Except Illegal Instr :=
  match atomOpOf fn with
  | some op => if atomsOp op then withCode (scopeOf (b / 4 % 8)) fun sc =>
      checked (b % 2 == 0) (.atoms op d a (orderOf (b / 32)) sc (decide (b / 2 % 2 = 1))) else reservedOp
  | none => reservedOp

/-- Major 24 (R355): KLD and KST. -/
def major24 (fn d b o : Nat) : Except Illegal Instr :=
  match fn with
  | 0 => checked (d < 64) (.kld d b (BitVec.ofNat 9 o))
  | 1 => checked (d < 64) (.kst d b (BitVec.ofNat 9 o))
  | _ => reservedOp

/-- Major 25 (R368, R357, R371, R396, R352). -/
def major25 (fn d a b : Nat) : Except Illegal Instr :=
  match fn with
  | 0 => checked true (.oinit d a b)
  | 1 => checked (b / 16 == 0) (.launch d a (b % 16))
  | 2 => checked (d == 0 && b == 0) (.pref a)
  | 3 => checked (d == 0) (.wbr a b)
  | 4 => checked (d == 0) (.invr a b)
  | _ => reservedOp

/-- Major 28 (R322): copy commands. -/
def major28 (h fn k a x : Nat) : Except Illegal Instr :=
  match fn with
  | 0 => checked (a == 0 && x == 0) (.cpt h k)
  | 1 => checked (a == 0 && x == 0) (.cps h k)
  | 2 => checked (x == 0) (.cpg h k a)
  | 3 => checked (x == 0) (.cpsc h k a)
  | 4 => checked (x == 0) (.cpb h k a)
  | 5 => checked (x == 0) (.cpz h k a)
  | 6 => checked (x == 0) (.cpr h k a)
  | _ => reservedOp

/-- Major 29 (R363, R377): matrix commands. -/
def major29 (h fn k a x : Nat) : Except Illegal Instr :=
  match fn with
  | 0 => checked (a == 0 && x / 4 == 0) (.mma h k (x % 4))
  | 1 => checked (x / 4 == 0) (.mmas h k a (x % 4))
  | 2 => checked (k == 0 && a == 0 && x / 4 == 0) (.mz h (x % 4))
  | 3 => checked (a == 0 && x / 4 == 0) (.mst h k (x % 4))
  | 4 => checked (a == 0 && x / 4 == 0) (.mlda h k (x % 4))
  | 5 => checked (a == 0 && x / 16 == 0) (.scacc h k (x / 4 % 4) (x % 4))
  | _ => reservedOp

/-- Major 30 (R378): SCN and SCOP. -/
def major30 (h fn k a x : Nat) : Except Illegal Instr :=
  match fn with
  | 0 => checked (a == 0 && x == 0) (.scn h k)
  | 1 => checked (k == 0 && x / 4 == 0) (.scop h a (x % 4))
  | _ => reservedOp

/-- Major 31 (R373): PUB, with the scope code in fn, 1 to 4. -/
def major31 (h fn k a x : Nat) : Except Illegal Instr :=
  if fn = 0 then reservedOp
  else match scopeOf fn with
  | some sc => checked (k == 0 && x == 0) (.pub h sc a)
  | none => reservedOp

/-- Major 32 (R340): futures. -/
def major32 (h fn k a x : Nat) : Except Illegal Instr :=
  match fn with
  | 0 => checked (k == 0 && a == 0 && x == 0) (.hwait h)
  | 1 => checked (k == 0 && a == 0 && x / 16 == 0) (.htest h (x % 16))
  | 2 => checked (k == 0 && a == 0 && x == 0) (.hcan h)
  | 3 => checked (k == 0 && a == 0 && x / 16 == 0) (.hmov h (x % 16))
  | 4 => checked (k == 0 && x == 0) (.hst h a)
  | 5 => checked (k == 0 && x == 0) (.hld h a)
  | _ => reservedOp

/-- Major 33 (R386, R376): sync words and RJOIN. -/
def major33 (fn d a b : Nat) : Except Illegal Instr :=
  match fn with
  | 0 => checked (d == 0) (.swarm a b)
  | 1 => checked (d == 0) (.swadd a b)
  | 2 => checked (d == 0) (.swait a b)
  | 3 => checked (d == 0 && b == 0) (.rjoin a)
  | _ => reservedOp

/-- Major 36 (R318, R354, R320): branches, JMP and CALL. -/
def major36 (fn a o : Nat) : Except Illegal Instr :=
  match fn with
  | 0 => checked true (.brz a (BitVec.ofNat 16 o))
  | 1 => checked true (.bnz a (BitVec.ofNat 16 o))
  | 2 => checked (a < 16) (.brp a (BitVec.ofNat 16 o))
  | 3 => checked (a == 0) (.jmp (BitVec.ofNat 16 o))
  | 4 => checked (a == 0) (.call (BitVec.ofNat 16 o))
  | _ => reservedOp

/-- Major 37 (R319, R320): BR and CALL through a register. -/
def major37 (fn d a b : Nat) : Except Illegal Instr :=
  match fn with
  | 0 => checked (d == 0 && b == 0) (.br a)
  | 1 => checked (d == 0 && b == 0) (.callReg a)
  | _ => reservedOp

/-- Major 38 (R296): format S; `y` is the payload. -/
def major38 (fn y : Nat) : Except Illegal Instr :=
  match fn with
  | 0 => checked (y == 0) .nop
  | 1 => checked (y == 0) .exit
  | 2 => checked (y == 0) .yield
  | 3 => checked (y == 0) .rsync
  | 4 => checked (y == 0) .rleave
  | 5 => checked (y == 0) .tret
  | 6 => checked (y / 65536 == 0) (.trap (BitVec.ofNat 16 y))
  | 7 => checked (y == 0) .bkpt
  | 8 => checked (y == 0) .halt
  | 9 => withCode (scopeOf (y / 4 % 8)) fun sc => withCode (fenceOrderOf (y % 4)) fun o => checked (y / 32 == 0) (.fence sc o)
  | 10 => checked (y == 0) .bar
  | 11 => checked (y / 128 == 0) (.tmark y)
  | 12 => checked (y / 8 == 0) (.prio (BitVec.ofNat 3 y))
  | 13 => 
    if y / 16384 % 2 = 0 then checked true (.rep (y / 524288) (y / 131072 % 4) (y / 32768 % 4) (y % 16384))
    else checked (y / 128 % 128 == 0) (.repReg (y / 524288) (y / 131072 % 4) (y / 32768 % 4) (y % 128))
  | 14 => checked (y / 512 == 0) (.winb y)
  | 15 => checked (y == 0) .ret
  | _ => reservedOp

/-- Major 42 (R365, R355, R384, R385): moves and special registers. -/
def major42 (fn d a b : Nat) : Except Illegal Instr :=
  match fn with
  | 0 => checked (b == 0) (.mov d a)
  | 1 => checked (b == 0) (.mov64 d a)
  | 2 => checked (b == 0 && a / 64 == 0) (.kmovFromK d a)
  | 3 => checked (b == 0 && d / 64 == 0) (.kmovToK d a)
  | 4 => withCode (sregOf a) fun r => checked (b == 0) (.srd d r)
  | 5 => withCode (sregOf d) fun r => checked (b == 0) (.swr r a)
  | _ => reservedOp

/-- Major 43 (R316): bit fields. -/
def major43 (fn d a b : Nat) : Except Illegal Instr :=
  match fn with
  | 0 => checked true (.bfx .s d a b)
  | 1 => checked true (.bfx .z d a b)
  | 2 => checked true (.bfi d a b)
  | _ => reservedOp

/-- Major 44 (R398): cross-lane forms and XIDX. -/
def major44 (fn d a b : Nat) : Except Illegal Instr :=
  match fn with
  | 0 => checked true (.xshf .w32 d a b)
  | 1 => checked true (.xshf .w64 d a b)
  | 2 => checked (a / 16 == 0 && b == 0) (.xbal d a)
  | 3 => checked (d / 16 == 0 && a / 16 == 0 && b == 0) (.xvote .all d a)
  | 4 => checked (d / 16 == 0 && a / 16 == 0 && b == 0) (.xvote .any d a)
  | 5 => checked (d / 16 == 0 && a / 16 == 0 && b == 0) (.xvote .eq d a)
  | 6 => checked (b == 0) (.xidx d a)
  | _ => match xredOf fn, xscanOf fn with
    | some op, _ => checked (b == 0) (.xred op d a)
    | none, some op => checked (b == 0) (.xscan op d a)
    | none, none => reservedOp

/-- Decoding of one word by its major opcode and format (R294, R295): steps 1 and 2 of R300. -/
def decodeNat (n : Nat) : Except Illegal Instr :=
  let fA := n / 2097152 % 32
  let dA := n / 16384 % 128
  let aA := n / 128 % 128
  let bA := n % 128
  let fM := n / 8388608 % 8
  let dM := n / 65536 % 128
  let bM := n / 512 % 128
  let oM := n % 512
  let hE := n / 4194304 % 16
  let fE := n / 262144 % 16
  let kE := n / 4096 % 64
  let aE := n / 32 % 128
  let xE := n % 32
  match n / 67108864 % 64 with
  | 1 => major1 fA dA aA bA
  | 2 => major2 fA dA aA bA
  | 3 => major3 fA dA aA bA
  | 4 => major4 fA dA aA bA
  | 5 => checked true (.iaddImm (n / 524288 % 128) (n / 4096 % 128) (BitVec.ofNat 12 n))
  | 6 => checked true (.lea (n / 524288 % 128) (n / 4096 % 128) (BitVec.ofNat 12 n))
  | 7 => major7 fA dA aA bA
  | 8 => major8 fA dA aA bA
  | 9 => major9 fA dA aA bA
  | 10 => major10 fA dA aA bA
  | 11 => major11 fA dA aA bA
  | 12 => major12 fA dA aA bA
  | 13 => major13 fA dA aA bA
  | 14 => major14 fA (n / 131072 % 16) (n / 8192 % 16) (n / 512 % 16) (n / 4 % 128) (n % 4)
  | 16 => major16 fM dM bM oM
  | 17 => major17 fM dM bM oM
  | 18 => major18 fM dM bM oM
  | 19 => major19 fM dM bM oM
  | 20 => major20 fM dM bM oM
  | 21 => major21 fA dA aA bA
  | 22 => major22 fA dA aA bA
  | 23 => major23 fA dA aA bA
  | 24 => major24 fM dM bM oM
  | 25 => major25 fA dA aA bA
  | 28 => major28 hE fE kE aE xE
  | 29 => major29 hE fE kE aE xE
  | 30 => major30 hE fE kE aE xE
  | 31 => major31 hE fE kE aE xE
  | 32 => major32 hE fE kE aE xE
  | 33 => major33 fA dA aA bA
  | 36 => major36 fM dM (n % 65536)
  | 37 => major37 fA dA aA bA
  | 38 => major38 fA (n % 2097152)
  | 39 => checked (n / 33554432 % 2 == 0 && n / 262144 % 2 == 0)
      (.waitc (n / 524288 % 64) (n / 4096 % 64) (n / 64 % 64) (n % 64))
  | 40 => checked true (.movi (n / 524288 % 128) (BitVec.ofNat 19 n))
  | 41 => checked true (.movh (n / 524288 % 128) (BitVec.ofNat 19 n))
  | 42 => major42 fA dA aA bA
  | 43 => major43 fA dA aA bA
  | 44 => major44 fA dA aA bA
  | _ => reservedOp

/-- Decoding of an instruction word. -/
def decodeWord (w : Word) : Except Illegal Instr := decodeNat w.toNat

/-- The word stored at the four bytes, little-endian (R2). -/
def wordOfBytes (b0 b1 b2 b3 : Byte) : Word := b3 ++ b2 ++ b1 ++ b0

/-- Why bytes give no instruction: an illegal word, or fewer than four bytes. -/
inductive DecodeError where
  | illegal (r : Illegal)
  | tooShort
  deriving DecidableEq, Repr

/-- Decoding of any bytes: the first instruction and the rest. -/
def decodeBytes : List Byte → Except DecodeError (Instr × List Byte)
  | b0 :: b1 :: b2 :: b3 :: rest =>
    match decodeWord (wordOfBytes b0 b1 b2 b3) with
    | .ok i => .ok (i, rest)
    | .error r => .error (.illegal r)
  | _ => .error .tooShort

/-- The bytes of a word in memory order (R2). -/
def bytesOfWord (w : Word) : List Byte :=
  [w.extractLsb' 0 8, w.extractLsb' 8 8, w.extractLsb' 16 8, w.extractLsb' 24 8]

/-- The decoder's answer for the word w of nbits bits, numbered as spec/opcode_table.json numbers them; every instruction
is one 32-bit word (R294), so bits from nbits up are 0. -/
def decodeTableWord (nbits w : Nat) : Option Instr :=
  match decodeBytes (bytesOfWord (BitVec.ofNat 32 (w % 2 ^ nbits))) with
  | .ok (i, _) => some i
  | .error _ => none

/-- Format A of R294. -/
def fmtA (major fn d a b : Nat) : Nat := major * 67108864 + fn * 2097152 + d * 16384 + a * 128 + b

/-- Format B of R294 (and C with a 19-bit immediate spread over a and imm12). -/
def fmtB (major d a imm : Nat) : Nat := major * 67108864 + d * 524288 + a * 4096 + imm

/-- Format M of R294. -/
def fmtM (major fn d b o : Nat) : Nat := major * 67108864 + fn * 8388608 + d * 65536 + b * 512 + o

/-- Format J of R294. -/
def fmtJ (fn a o : Nat) : Nat := 36 * 67108864 + fn * 8388608 + a * 65536 + o

/-- Format E of R294. -/
def fmtE (major h fn k a x : Nat) : Nat := major * 67108864 + h * 4194304 + fn * 262144 + k * 4096 + a * 32 + x

/-- Format P of R294. -/
def fmtP (fn d a b v : Nat) : Nat := 14 * 67108864 + fn * 2097152 + d * 131072 + a * 8192 + b * 512 + v * 4

/-- Format S of R294. -/
def fmtS (fn payload : Nat) : Nat := 38 * 67108864 + fn * 2097152 + payload

def Sgn.code : Sgn → Nat | .s => 0 | .z => 1
def Width.code : Width → Nat | .w32 => 0 | .w64 => 1
def VInt.code : VInt → Nat | .s8x4 => 0 | .s16x2 => 1
def VFloat.code : VFloat → Nat | .f16x2 => 0 | .bf16x2 => 1
def Scope.code : Scope → Nat | .grp => 0 | .clu => 1 | .pkg => 2 | .pod => 3 | .sys => 4
def Order.code : Order → Nat | .rlx => 0 | .acq => 1 | .rel => 2 | .ar => 3
def FenceOrder.code : FenceOrder → Nat | .acq => 1 | .rel => 2 | .ar => 3
def Policy.code : Policy → Nat | .sat => 0 | .inf => 1 | .nan => 2 | .trap => 3
def LdKind.code : LdKind → Nat | .s8 => 0 | .s16 => 1 | .s32 => 2 | .d64 => 3 | .z8 => 4 | .z16 => 5 | .z32 => 6
def StKind.code : StKind → Nat | .b1 => 0 | .b2 => 1 | .b4 => 2 | .b8 => 3
def FCmp.code : FCmp → Nat | .eq => 0 | .ne => 1 | .lt => 2 | .le => 3 | .un => 4
def ICmp.code : ICmp → Nat | .eq => 0 | .ne => 1 | .ltS => 2 | .leS => 3 | .ltZ => 4 | .leZ => 5
def Vote.code : Vote → Nat | .all => 3 | .any => 4 | .eq => 5

/-- Kind codes of R298. -/
def Kind.code : Kind → Nat
  | .s8 => 0 | .s16 => 1 | .s32 => 2 | .s64 => 3 | .z8 => 4 | .z16 => 5 | .z32 => 6 | .z64 => 7
  | .f32 => 8 | .f16 => 9 | .bf16 => 10 | .e4m3 => 11 | .e5m2 => 12 | .e2m3 => 13 | .e3m2 => 14 | .e2m1 => 15
  | .b2 => 16 | .b3 => 17 | .b4 => 18 | .b5 => 19 | .b6 => 20 | .b7 => 21 | .b8 => 22

/-- Atomic function codes of R309. -/
def AtomOp.code : AtomOp → Nat
  | .add32 => 0 | .add64 => 1 | .addF32 => 2 | .minS32 => 3 | .minZ32 => 4 | .minS64 => 5 | .minZ64 => 6
  | .minF32 => 7 | .maxS32 => 8 | .maxZ32 => 9 | .maxS64 => 10 | .maxZ64 => 11 | .maxF32 => 12 | .and32 => 13
  | .or32 => 14 | .xor32 => 15 | .xchg32 => 16 | .xchg64 => 17 | .cas32 => 18 | .cas64 => 19

/-- XRED function codes of R402. -/
def XOp.redCode : XOp → Nat
  | .add => 8 | .minS => 9 | .maxS => 10 | .minZ => 11 | .maxZ => 12 | .and => 13 | .or => 14 | .xor => 15
  | .addF => 16 | .minF => 17 | .maxF => 18

/-- XSCAN function codes of R403; AND, OR and XOR have none. -/
def XOp.scanCode : XOp → Nat
  | .add => 19 | .minS => 20 | .maxS => 21 | .minZ => 22 | .maxZ => 23 | .addF => 24 | .minF => 25 | .maxF => 26
  | .and | .or | .xor => 31

/-- Special register numbers of R299. -/
def SReg.code : SReg → Nat
  | .tidx => 0 | .crew => 1 | .gidx => 2 | .gsize => 3 | .ngrp => 4 | .pbase => 5 | .slim => 6 | .scrb => 7
  | .wbase => 8 | .repc => 9 | .prio => 10 | .fmode => 11 | .fflags => 12 | .mprg => 13 | .trapc => 14
  | .trappc => 15 | .trapva => 16 | .trapdepth => 17 | .tblo => 18 | .tbhi => 19 | .cyc => 20 | .seed => 21

/-- The word of an instruction row as a number (R294 to R299); the rows that no word encodes have none. -/
def encodeNat : Instr → Option Nat
  | .iadd d a b => some (fmtA 1 0 d a b)
  | .iadd64 d a b => some (fmtA 2 0 d a b)
  | .iaddImm d a imm => some (fmtB 5 d a imm.toNat)
  | .isub d a b => some (fmtA 1 1 d a b)
  | .isub64 d a b => some (fmtA 2 1 d a b)
  | .imul d a b => some (fmtA 1 2 d a b)
  | .imul64 d a b => some (fmtA 2 2 d a b)
  | .imulhS32 d a b => some (fmtA 1 3 d a b)
  | .imulhZ32 d a b => some (fmtA 1 4 d a b)
  | .imad d a b => some (fmtA 1 5 d a b)
  | .imad64 d a b => some (fmtA 2 5 d a b)
  | .idiv sg d a b => some (fmtA 1 (6 + sg.code) d a b)
  | .irem sg d a b => some (fmtA 1 (8 + sg.code) d a b)
  | .imin sg d a b => some (fmtA 1 (10 + sg.code) d a b)
  | .imin64 sg d a b => some (fmtA 2 (10 + sg.code) d a b)
  | .imax sg d a b => some (fmtA 1 (12 + sg.code) d a b)
  | .imax64 sg d a b => some (fmtA 2 (12 + sg.code) d a b)
  | .iabs d a => some (fmtA 1 14 d a 0)
  | .iabs64 d a => some (fmtA 2 14 d a 0)
  | .ineg d a => some (fmtA 1 15 d a 0)
  | .ineg64 d a => some (fmtA 2 15 d a 0)
  | .and d a b => some (fmtA 1 16 d a b)
  | .and64 d a b => some (fmtA 2 16 d a b)
  | .andn d a b => some (fmtA 1 17 d a b)
  | .andn64 d a b => some (fmtA 2 17 d a b)
  | .or d a b => some (fmtA 1 18 d a b)
  | .or64 d a b => some (fmtA 2 18 d a b)
  | .xor d a b => some (fmtA 1 19 d a b)
  | .xor64 d a b => some (fmtA 2 19 d a b)
  | .shl d a b => some (fmtA 1 20 d a b)
  | .shl64 d a b => some (fmtA 2 20 d a b)
  | .shr d a b => some (fmtA 1 21 d a b)
  | .shr64 d a b => some (fmtA 2 21 d a b)
  | .sar d a b => some (fmtA 1 22 d a b)
  | .sar64 d a b => some (fmtA 2 22 d a b)
  | .rot d a b => some (fmtA 1 23 d a b)
  | .rot64 d a b => some (fmtA 2 23 d a b)
  | .clz d a => some (fmtA 1 24 d a 0)
  | .popc d a => some (fmtA 1 25 d a 0)
  | .brev d a => some (fmtA 1 26 d a 0)
  | .iset w c p a b => some (fmtA 3 (c.code + 6 * w.code) p a b)
  | .isel n d a b => some (fmtA 4 n d a b)
  | .lea d a imm => some (fmtB 6 d a imm.toNat)
  | .fadd d a b => some (fmtA 7 0 d a b)
  | .fsub d a b => some (fmtA 7 1 d a b)
  | .fmul d a b => some (fmtA 7 2 d a b)
  | .ffma d a b => some (fmtA 7 3 d a b)
  | .fmin d a b => some (fmtA 7 4 d a b)
  | .fmax d a b => some (fmtA 7 5 d a b)
  | .frcp d a => some (fmtA 7 6 d a 0)
  | .frsq d a => some (fmtA 7 7 d a 0)
  | .fsqrt d a => some (fmtA 7 8 d a 0)
  | .fexp2 d a => some (fmtA 7 9 d a 0)
  | .flog2 d a => some (fmtA 7 10 d a 0)
  | .fsin d a => some (fmtA 7 11 d a 0)
  | .fcos d a => some (fmtA 7 12 d a 0)
  | .ftanh d a => some (fmtA 7 13 d a 0)
  | .fcmp c p a b => some (fmtA 8 c.code p a b)
  | .cvt dst src d a => some (fmtA 9 dst.code d a src.code)
  | .cvtd dst src pol d a => some (fmtA 10 dst.code d a (pol.code * 32 + src.code))
  | .vaddInt t d a b => some (fmtA 11 (0 + t.code) d a b)
  | .vsubInt t d a b => some (fmtA 11 (2 + t.code) d a b)
  | .vmulInt t d a b => some (fmtA 11 (4 + t.code) d a b)
  | .vminInt t d a b => some (fmtA 11 (6 + t.code) d a b)
  | .vmaxInt t d a b => some (fmtA 11 (8 + t.code) d a b)
  | .vdot4 d a b => some (fmtA 11 10 d a b)
  | .vaddFloat t d a b => some (fmtA 12 (0 + t.code) d a b)
  | .vsubFloat t d a b => some (fmtA 12 (2 + t.code) d a b)
  | .vmulFloat t d a b => some (fmtA 12 (4 + t.code) d a b)
  | .vminFloat t d a b => some (fmtA 12 (6 + t.code) d a b)
  | .vmaxFloat t d a b => some (fmtA 12 (8 + t.code) d a b)
  | .vfma t d a b => some (fmtA 12 (10 + t.code) d a b)
  | .vsel n d a b => some (fmtA 13 n d a b)
  | .vpack t d a b => some (fmtA 13 (8 + t.code) d a b)
  | .vunpk t d a b => some (fmtA 13 (10 + t.code) d a b)
  | .pand d a b => some (fmtP 0 d a b 0)
  | .por d a b => some (fmtP 1 d a b 0)
  | .pxor d a b => some (fmtP 2 d a b 0)
  | .pnot d a => some (fmtP 3 d a 0 0)
  | .pmovPred d a => some (fmtP 4 d a 0 0)
  | .pmovFromV d v => some (fmtP 5 d 0 0 v)
  | .pmovToV a v => some (fmtP 6 0 a 0 v)
  | .ld k d b o => some (fmtM 16 k.code d b o.toNat)
  | .ldref d b o => some (fmtM 16 7 d b o.toNat)
  | .st k s b o => some (fmtM 17 k.code s b o.toNat)
  | .stref s b o => some (fmtM 17 4 s b o.toNat)
  | .lds k d b o => some (fmtM 18 k.code d b o.toNat)
  | .sts k s b o => some (fmtM 19 k.code s b o.toNat)
  | .ldpv w d b o => some (fmtM 20 w.code d b o.toNat)
  | .stpv w s b o => some (fmtM 20 (2 + w.code) s b o.toNat)
  | .ldAcq w d a sc => some (fmtA 21 w.code d a (sc.code * 16))
  | .ldrefAcq d a sc => some (fmtA 21 2 d a (sc.code * 16))
  | .stRel32 d a sc => some (fmtA 21 3 d a (sc.code * 16))
  | .stRel64 d a sc => some (fmtA 21 4 d a (sc.code * 16))
  | .strefRel d a sc => some (fmtA 21 5 d a (sc.code * 16))
  | .ldsAcq w d a sc => some (fmtA 21 (6 + w.code) d a (sc.code * 16))
  | .stsRel w d a sc => some (fmtA 21 (8 + w.code) d a (sc.code * 16))
  | .atom op d a ord sc noret => some (fmtA 22 op.code d a (ord.code * 32 + sc.code * 4 + bitOf noret * 2))
  | .atoms op d a ord sc noret => some (fmtA 23 op.code d a (ord.code * 32 + sc.code * 4 + bitOf noret * 2))
  | .kld n b o => some (fmtM 24 0 n b o.toNat)
  | .kst n b o => some (fmtM 24 1 n b o.toNat)
  | .oinit d a b => some (fmtA 25 0 d a b)
  | .launch d a q => some (fmtA 25 1 d a q)
  | .pref a => some (fmtA 25 2 0 a 0)
  | .wbr a b => some (fmtA 25 3 0 a b)
  | .invr a b => some (fmtA 25 4 0 a b)
  | .cpt h k => some (fmtE 28 h 0 k 0 0)
  | .cps h k => some (fmtE 28 h 1 k 0 0)
  | .cpg h k a => some (fmtE 28 h 2 k a 0)
  | .cpsc h k a => some (fmtE 28 h 3 k a 0)
  | .cpb h k a => some (fmtE 28 h 4 k a 0)
  | .cpz h k a => some (fmtE 28 h 5 k a 0)
  | .cpr h k a => some (fmtE 28 h 6 k a 0)
  | .mma h k z => some (fmtE 29 h 0 k 0 z)
  | .mmas h k a z => some (fmtE 29 h 1 k a z)
  | .mz h z => some (fmtE 29 h 2 0 0 z)
  | .mst h k z => some (fmtE 29 h 3 k 0 z)
  | .mlda h k z => some (fmtE 29 h 4 k 0 z)
  | .scacc h k p z => some (fmtE 29 h 5 k 0 (p * 4 + z))
  | .scn h k => some (fmtE 30 h 0 k 0 0)
  | .scop h a s => some (fmtE 30 h 1 0 a s)
  | .pub h sc a => some (fmtE 31 h sc.code 0 a 0)
  | .hwait h => some (fmtE 32 h 0 0 0 0)
  | .htest h p => some (fmtE 32 h 1 0 0 p)
  | .hcan h => some (fmtE 32 h 2 0 0 0)
  | .hmov h s => some (fmtE 32 h 3 0 0 s)
  | .hst h a => some (fmtE 32 h 4 0 a 0)
  | .hld h a => some (fmtE 32 h 5 0 a 0)
  | .swarm a b => some (fmtA 33 0 0 a b)
  | .swadd a b => some (fmtA 33 1 0 a b)
  | .swait a b => some (fmtA 33 2 0 a b)
  | .rjoin a => some (fmtA 33 3 0 a 0)
  | .brz a o => some (fmtJ 0 a o.toNat)
  | .bnz a o => some (fmtJ 1 a o.toNat)
  | .brp p o => some (fmtJ 2 p o.toNat)
  | .jmp o => some (fmtJ 3 0 o.toNat)
  | .call o => some (fmtJ 4 0 o.toNat)
  | .br a => some (fmtA 37 0 0 a 0)
  | .callReg a => some (fmtA 37 1 0 a 0)
  | .nop => some (fmtS 0 0)
  | .exit => some (fmtS 1 0)
  | .yield => some (fmtS 2 0)
  | .rsync => some (fmtS 3 0)
  | .rleave => some (fmtS 4 0)
  | .tret => some (fmtS 5 0)
  | .trap c => some (fmtS 6 c.toNat)
  | .bkpt => some (fmtS 7 0)
  | .halt => some (fmtS 8 0)
  | .fence sc ord => some (fmtS 9 (sc.code * 4 + ord.code))
  | .bar => some (fmtS 10 0)
  | .tmark a => some (fmtS 11 a)
  | .prio n => some (fmtS 12 n.toNat)
  | .rep sd sa sb n => some (fmtS 13 (sd * 524288 + sa * 131072 + sb * 32768 + n))
  | .repReg sd sa sb c => some (fmtS 13 (sd * 524288 + sa * 131072 + sb * 32768 + 16384 + c))
  | .winb b => some (fmtS 14 b)
  | .ret => some (fmtS 15 0)
  | .waitc l s c t => some (fmtB 39 l s (c * 64 + t))
  | .movi d imm => some (40 * 67108864 + d * 524288 + imm.toNat)
  | .movh d imm => some (41 * 67108864 + d * 524288 + imm.toNat)
  | .mov d a => some (fmtA 42 0 d a 0)
  | .mov64 d a => some (fmtA 42 1 d a 0)
  | .kmovFromK d n => some (fmtA 42 2 d n 0)
  | .kmovToK n a => some (fmtA 42 3 n a 0)
  | .srd d r => some (fmtA 42 4 d r.code 0)
  | .swr r a => some (fmtA 42 5 r.code a 0)
  | .bfx sg d a b => some (fmtA 43 sg.code d a b)
  | .bfi d a b => some (fmtA 43 2 d a b)
  | .xshf w d a b => some (fmtA 44 w.code d a b)
  | .xbal d p => some (fmtA 44 2 d p 0)
  | .xvote v p a => some (fmtA 44 v.code p a 0)
  | .xidx d a => some (fmtA 44 6 d a 0)
  | .xred op d a => some (fmtA 44 op.redCode d a 0)
  | .xscan op d a => some (fmtA 44 op.scanCode d a 0)
  | .refresh _ _ => none
  | .invalidate _ _ => none
  | .invalidateDone _ => none
  | .domainReset _ _ => none
  | .loss _ _ => none
  | .releaseLost _ _ => none
  | .resolve _ _ _ => none
  | .fqheadWrite _ _ _ => none
  | .registerWrite _ _ _ _ _ _ => none
  | .queueTailDoorbell _ _ _ _ _ => none
  | .windowRead _ _ _ _ => none
  | .windowWrite _ _ _ _ _ => none
  | .debugHalt _ _ => none
  | .haltRegion _ _ => none
  | .resume _ _ => none
  | .step _ _ => none
  | .stepWaitEnd _ _ => none
  | .readContext _ _ => none
  | .writeContext _ _ => none
  | .dump _ _ => none
  | .dumpPage _ _ => none
  | .attach _ _ => none
  | .detach _ _ => none
  | .groupStop _ => none
  | .breakpointSlotWrite _ _ _ _ _ => none
  | .watchpointSlotWrite _ _ _ _ _ => none
  | .tskWrite _ _ _ => none
  | .trrdWrite _ _ _ => none
  | .attestationRequest _ _ _ => none
  | .attestationSigned _ => none
  | .powerGood _ => none
  | .imagePhaseEnd _ _ _ _ _ _ _ => none
  | .repairPhaseEnd _ _ _ => none
  | .selftestEnd _ _ => none
  | .throttleRaise _ _ _ => none
  | .throttleLower _ _ _ => none
  | .holdoverEnter _ => none
  | .holdoverLeave _ => none
  | .ptpMessage _ _ => none
  | .bundlingRound _ _ => none
  | .priorityPromotion _ _ => none
  | .yieldDemotionEnd _ _ => none
  | .recordTake _ _ _ => none
  | .dependenceRecheck _ => none
  | .groupHandOut _ => none
  | .saveDone _ => none
  | .groupPlace _ _ => none
  | .clusterModeChange _ _ _ => none
  | .drainEnd _ => none
  | .clusterReport _ _ _ => none
  | .launchEnqueue _ => none
  | .faultPost _ _ => none
  | .accessReplay _ _ => none
  | .engineFailureTrap _ _ => none
  | .translationWalkDone _ => none
  | .homeReadRequest _ => none
  | .ownershipRequest _ => none
  | .forwardedRead _ => none
  | .writeBackArrival _ => none
  | .atomicAtHome _ => none
  | .releaseCompletion _ _ => none
  | .routerPowerDown _ _ => none
  | .routerWake _ _ => none
  | .climbingMiss _ => none
  | .pageMoveDone _ => none
  | .upgrade _ => none
  | .markArrival _ => none
  | .injectionOffer _ => none
  | .injectionConfirm _ => none
  | .holderReport _ _ _ => none
  | .windowEnd _ => none
  | .flitReceive _ _ _ => none
  | .linkReplayRequest _ _ _ => none
  | .ackCreditReturn _ _ _ _ => none
  | .windowAuditSend _ _ => none
  | .windowAuditReceive _ _ _ => none
  | .copyArrival _ => none
  | .copyComplete _ => none
  | .kBlockDone _ => none
  | .matrixComplete _ => none
  | .scanStart _ => none
  | .carryArrival _ => none
  | .scanComplete _ => none
  | .walkStart _ _ => none
  | .walkComplete _ => none
  | .timeseriesTick _ => none
  | .objectMark _ => none
  | .accessCompletion _ => none
  | .powerLoss _ => none
  | .softError _ _ => none
  | .scrub _ _ => none
  | .linkFailure _ _ => none
  | .linkTrainingDone _ _ _ => none

/-- The word of an instruction row (R294). -/
def encode (i : Instr) : Option Word := (encodeNat i).map (BitVec.ofNat 32)

end Sys2Proof
end

