-- ==== Sys2Proof/Machine/Links.lean ====
section
/-! DEFINITION. Pod-link ports: flits received, replays, acknowledgements, window audits, training and failure (R260 to R262), and the
routers' power (R177). -/

namespace Sys2Proof.Machine

/-! ## The events of a port -/

/-- The control flit that a flit of channel 0 is, by its KIND (R260). -/
def controlKind (f : Flit) : Option MsgKind :=
  if f.vc ≠ 0 then none else [MsgKind.audit, .ack, .replay].find? (fun k => decide (f.kind = k.wire))
/-- A flit is taken: the next number is expected, and control flits since the last acknowledgement count. -/
def Port.take (k : Port) (f : Flit) : Port :=
  { k with rxNext := (k.rxNext + 1) % 65536, inFlits := k.inFlits ++ [f], unacked := if (controlKind f).isSome then k.unacked + 1 else 0 }
/-- What a control flit says (R261, R262; log entry 78). -/
def flitSays (f : Flit) (p port : Nat) : Option Instr :=
  let l := Config.controlRead f.payload
  let cr := (List.range 4).map (fun i => l.getD (i + 1) 0)
  let n := l.getD 0 0 % 65536
  (controlKind f).map (fun k => match k with
    | .audit => .windowAuditReceive p port { credits := cr, lowest := n }
    | .replay => .linkReplayRequest p port n
    | _ => .ackCreditReturn p port n cr)

/-- FLIT_RECEIVE (R260, R261): a flit that fails its CRC, has a reserved bit set or is not the expected one is discarded, and a replay
is asked for; another is taken, acknowledged, and its credit returned. A control flit takes no credit; what it says happens, and an
acknowledgement of 256 of them in a row is due (log entry 96). -/
def execFlitReceive (p port : Nat) (f : Flit) (s : State) : Out := .next (
  if !s.portUp p port then s
  else
    let k := (s.pkgD p).port port
    if !crcPasses f || f.seq ≠ k.rxNext then s.sendControl p port .replay [k.rxNext]
    else
      let n := (k.rxNext + 1) % 65536
      let s := s.modPort p port (·.take f)
      match flitSays f p port with
      | none => s.sendControl p port .ack (n :: oneCredit f.vc)
      | some i =>
        let s := s.later i
        if 256 ≤ ((s.pkgD p).port port).unacked then
          (s.modPort p port (fun k => { k with unacked := 0 })).sendControl p port .ack [n, 0, 0, 0, 0]
        else s)

/-- What waits at a port that is down or to be trained again takes other ports, where one is usable (R262). -/
def State.reroute (s : State) (p port : Nat) : State :=
  let k := (s.pkgD p).port port
  let ms := k.queue.filter (fun m => !m.control && decide (State.routePort s p m.dest ≠ port))
  let s := s.modPort p port (fun k => { k with queue := k.queue.filter (fun m => !decide (m ∈ ms)) })
  ms.foldl (fun s m =>
    let n := State.routePort s p m.dest
    (s.modPort p n (fun k => { k with queue := k.queue ++ [{ m with sent := 0 }] })).pump p n) s
/-- The link is to be trained again, and the routing tables steer its traffic to other ports (R262). -/
def State.retrain (s : State) (p n : Nat) : State :=
  ((s.modPort p n (fun k => { k with trained := false, replaying := false })).count p (4, 1) n 1).reroute p n

/-- LINK_REPLAY_REQUEST (R261, R262): the flits from number n are sent again in order; a lost slot among them is rebuilt from the
buffer. A number that the buffer no longer holds forces retraining. -/
def execLinkReplayRequest (p port n : Nat) (s : State) : Out := .next (
  if !s.portUp p port then s
  else
    let k := (s.pkgD p).port port
    if n = k.txNext then s
    else match k.replay.findIdx? (fun f => decide (f.seq = n)) with
      | none => s.retrain p port
      | some i =>
        let again := k.replay.drop i
        let mended := k.lost.filter (fun q => again.any (fun f => decide (f.seq = q)))
        let s := (s.modPort p port (fun k => { k with
          outFlits := k.outFlits ++ again, replaying := true, sinceAudit := k.sinceAudit + again.length,
          lost := k.lost.filter (fun q => !decide (q ∈ mended)) })).count p (4, 0) port mended.length
        if 4096 ≤ ((s.pkgD p).port port).sinceAudit then s.laterOnce (.windowAuditSend p port) else s)

/-- ACK_CREDIT_RETURN (R261): the flits below the acknowledged number leave the replay buffer, credits come back, and what waited is
sent. -/
def execAckCreditReturn (p port ack : Nat) (cr : List Nat) (s : State) : Out := .next (
  if !s.portUp p port then s
  else (s.modPort p port (fun k =>
    let k := { k with credits := (List.range 4).map (fun i => k.credits.getD i 0 + cr.getD i 0) }
    if seqAhead k.txAck ack ≤ seqAhead k.txAck k.txNext then
      { k with txAck := ack % 65536, replaying := k.replaying && decide (ack % 65536 = k.txAck),
               replay := k.replay.filter (fun f => !decide (seqAhead k.txAck f.seq < seqAhead k.txAck ack)) }
    else k)).pump p port)

/-- WINDOW_AUDIT_SEND (R262), after every 4,096 flits: the credits of each channel and the lowest outstanding number. -/
def execWindowAuditSend (p port : Nat) (s : State) : Out := .next (
  let k := (s.pkgD p).port port
  if !s.portUp p port || decide (k.sinceAudit < 4096) then s
  else
    (s.modPort p port (fun k => { k with sinceAudit := k.sinceAudit - 4096 })).sendControl p port .audit (k.txAck :: k.rxCredits))

/-- The credits of a channel that are out with flits not yet acknowledged (R262). -/
def Port.inFlight (k : Port) (vc : Nat) : Nat := (k.replay.filter (fun f => decide (f.vc = vc))).length
/-- The credits that an audit shows to be missing, after the flits in flight are allowed for. -/
def Port.missing (k : Port) (a : Audit) (vc : Nat) : Nat := a.credits.getD vc 0 - k.inFlight vc - k.credits.getD vc 0

/-- WINDOW_AUDIT_RECEIVE (R262): missing credits are added, lost slots rebuilt from the replay buffer, each counted; a slot that it no
longer holds forces retraining. An audit during a replay is discarded; one with a bad CRC is no flit that was taken. -/
def execWindowAuditReceive (p port : Nat) (a : Audit) (s : State) : Out := .next (
  let k := (s.pkgD p).port port
  if !s.portUp p port || k.replaying then s
  else
    let short := (List.range 4).filter (fun i => decide (0 < k.missing a i))
    let held := k.lost.filter (fun q => k.replay.any (fun f => decide (f.seq = q)))
    let s := (s.modPort p port (fun k => { k with
      credits := (List.range 4).map (fun i => k.credits.getD i 0 + k.missing a i),
      lost := k.lost.filter (fun q => !decide (q ∈ held)) })).count p (4, 0) port (short.length + held.length)
    let s := if held.length < k.lost.length then s.retrain p port else s
    let s := if 1 ≤ seqAhead k.rxNext a.lowest && seqAhead k.rxNext a.lowest < 512 then s.sendControl p port .replay [k.rxNext] else s
    s.pump p port)

/-- LINK_TRAINING_DONE (R261): firmware sets the credits of each channel. -/
def execLinkTrainingDone (p port : Nat) (cr : List Nat) (s : State) : Out := .next (
  if 24 ≤ port then s
  else
    let cr := (List.range 4).map (fun i => cr.getD i 0)
    (s.modPort p port (fun k => { k with
      up := true, trained := true, credits := cr, rxCredits := cr, lost := [], replaying := false })).pump p port)

/-- LINK_FAILURE (R157, R262): the messages that wait take other ports; no package is declared lost. -/
def execLinkFailure (p port : Nat) (s : State) : Out := .next (
  if 24 ≤ port then s
  else
    (s.modPort p port (fun k => { k with up := false, trained := false, replaying := false })).reroute p port)

/-! ## Routers (R177): router r is router r mod 64 of die r / 64 in the model's numbering -/

/-- ROUTER_POWER_DOWN (R177): a wake for an approaching packet wins, and is counted. -/
def execRouterPowerDown (p r : Nat) (s : State) : Out := .next (
  if Instr.routerWake p r ∈ s.agenda ∨ Instr.routerWake p r ∈ s.inbox then s.count p (3, 0) (r / 64 % 8) 1
  else s.modPkg p (fun q => { q with routersDown := insertNat q.routersDown r }))

/-- ROUTER_WAKE (R177). -/
def execRouterWake (p r : Nat) (s : State) : Out := .next (s.modPkg p (fun q => { q with routersDown := eraseNat q.routersDown r }))

end Sys2Proof.Machine
end

