-- ==== Sys2Proof/Machine/Slots.lean ====
section
/-! DEFINITION. Breakpoint and watchpoint slots: which cover a thread, and what a hit does (R276 to R278). -/

namespace Sys2Proof.Machine

/-- A slot of a function covers a leaf: the subtree of SREG, the leaf's permission bit, and the function's own tenant (R274 to
R276). -/
def State.slotCovers (s : State) (p leaf fn sreg bit : Nat) : Bool :=
  s.covered p leaf sreg && (s.effDbg p leaf).getLsbD bit &&
    (decide (fn = 0) || decide (fn ∈ (s.pkgD p).fnsOf (s.tenantId p leaf)))

/-- The breakpoint slots that fire at a PC, with their ACT (R276). -/
def State.bpHits (s : State) (g : Group) (pc : DWord) : List (Nat × Bool) :=
  (s.pkgD g.pkg).mbox.flatMap (fun ((fn, m) : Nat × Mbox) => (List.range 64).filterMap (fun i =>
    let w0 := SMap.get m.bp 0 (2 * i)
    let w1 := (SMap.get m.bp 0 (2 * i + 1)).toNat
    if w0.getLsbD 63 && decide (bitsOf w0.toNat 55 2 = bitsOf pc.toNat 55 2) &&
        (!w0.getLsbD 61 || decide (w1 % 2 ^ 32 = g.lr.launchid)) && s.slotCovers g.pkg g.leaf fn (bitsOf w1 63 48) 2
    then some (i, w0.getLsbD 62) else none))

/-- The watchpoint slots that an access of a range fires (R277): `scr` for scratchpad offsets. -/
def State.wpHits (s : State) (g : Group) (va n : Nat) (scr reads writes : Bool) : List (Nat × Bool) :=
  (s.pkgD g.pkg).mbox.flatMap (fun ((fn, m) : Nat × Mbox) => (List.range 32).filterMap (fun j =>
    let w0 := SMap.get m.wp 0 (4 * j)
    let len := (SMap.get m.wp 0 (4 * j + 1)).toNat % 2 ^ 32
    let base := w0.toNat % 2 ^ 56
    if w0.getLsbD 63 && decide (w0.getLsbD 61 = scr) && ((w0.getLsbD 60 && reads) || (w0.getLsbD 59 && writes)) &&
        decide (len ≠ 0) && decide (va < base + len) && decide (base < va + n) &&
        s.slotCovers g.pkg g.leaf fn (bitsOf (SMap.get m.wp 0 (4 * j + 2)).toNat 63 48) 3
    then some (j, w0.getLsbD 62) else none))

/-- The slots that fire halt the group: one has ACT = 1, and an ATTACH covers its region (R276 to R278). -/
def State.slotsHalt (s : State) (g : Group) (hits : List (Nat × Bool)) : Bool := hits.any (·.2) && (s.attachFor g.pkg g.leaf).isSome

/-- Slots fire for a thread: a slot with ACT = 1 under an ATTACH halts the group, the others trap with a code 15 record
(R270, R276 to R278). -/
def State.slotsFire (s : State) (k : TKey) (g : Group) (t : Thread) (hits : List (Nat × Bool)) (stopc cause addr : Nat)
    (va : DWord) : State :=
  match hits with
  | [] => s
  | (i, _) :: _ =>
    if s.slotsHalt g hits then s.requestStop k.uid stopc (some k.tidx) k.tidx none
    else
      let s := s.trace g.pkg g.leaf 15 (threadName g k.tidx (dieOf t.place.core)) i addr
      s.trapAt k cause va

/-- A thread's access of a range has been performed: watchpoints fire, with TRAPPC or NPC after the access (R277). -/
def State.fireWatch (s : State) (k : TKey) (va n : Nat) (scr reads writes : Bool) : State :=
  match s.group? k.uid, s.thread? k with
  | some g, some t =>
    if t.exited then s
    else s.slotsFire k g t (s.wpHits g va n scr reads writes) 4 0x0B va (BitVec.ofNat 64 va)
  | _, _ => s

/-! ## The waiters of a sync word (R225, R226) -/

/-- The threads of a share that a change of scratchpad bytes releases: they wait in SWAIT at a word that it touches, whose condition
is now true, and their group lets them issue; the others test again on resumption (R226). -/
def State.swaitFreed (s : State) (u j o n : Nat) : List (TKey × Nat) :=
  match s.group? u with
  | none => []
  | some g => (g.threads.zipIdx).filterMap (fun (t, m) => match t.wait with
      | .swait w v =>
        if g.shareIndex m = j && g.lets m && decide (w < o + n) && decide (o < w + 8) && !swaitBlocks (s.snat u j w 2) v then
          some (⟨u, m⟩, w) else none
      | _ => none)

/-- Store to the scratchpad of a share: the waiters whose condition becomes true are released in the same step (R225, R226). -/
def State.sstore (s : State) (u j o : Nat) (bs : List Byte) : State :=
  let s := s.sput u j o bs
  (s.swaitFreed u j o bs.length).foldl (fun s (k, w) => (s.modThread k Thread.released).fireWatch k w 8 true true false) s

end Sys2Proof.Machine
end

