-- ==== Sys2Proof/Machine/Translate.lean ====
section
/-! DEFINITION. Translation: the region attribute file, TLBs, the table walk, the rules of access by memory type, and whether a
page lies where an access can reach it (R116 to R122, R127, R144 to R148). -/

namespace Sys2Proof.Machine

/-! ## Pages -/

/-- A package can reach a page of attraction memory for a read or a write without moving it (R144 to R148): a write to a page in
memory-side mode, also while its frame is INJECTING, since such a page does not migrate (R148, R150). -/
def State.pageReady (s : State) (p mtype peer g : Nat) (write : Bool) : Bool :=
  if mtype = 4 || mtype = 5 then true
  else if mtype = 3 then
    let x := (s.pkgD peer).pageState g
    decide (x = fsSole) || decide (x = fsShared)
  else
    let x := (s.pkgD p).pageState g
    if x = 0 then (s.memorySideAt g).isSome
    else if write then decide (x = fsSole) || (decide (x = fsInjecting) && (match (s.pkgD p).frameOf g with
      | some f => decide (((s.pkgD p).frame f).mode = 1) | none => false))
    else decide (x = fsReplica) || decide (x = fsSole) || decide (x = fsShared) || decide (x = fsInjecting)

/-- Who makes an access of a line: package, core, group instance and share. -/
structure Agent where
  pkg : Nat
  core : Nat
  uid : Nat
  share : Nat
  chain : Nat
  tenant : Nat
  /-- the access has waited for its page -/
  late : Bool

/-- An agent's access of a line reaches its page (R139, R140); on another package it goes over the pod links (R148). -/
def State.touchLine (s : State) (a : Agent) (t : Trans) (ga : Nat) (write : Bool) : State :=
  let q := s.lineAt a.pkg t.mtype t.peer (ga / 65536)
  let s := s.touchPage q a.pkg (dieOf a.core) (ga / 65536) write a.late
  if q = a.pkg then s else s.sendLine a.pkg q ga write

/-- Ask for a page that is not there: one request at a time for an asker (R144, R146). -/
def State.needPage (s : State) (p who leaf tenant mtype peer cmp g va : Nat) (side write force : Bool) (dir : Nat := bitOf write) : State :=
  if s.pageReqs.any (fun (_, r) => decide (r.pkg = p) && decide (r.page = g) && decide (r.stage < 4) && (r.write || !write)) then s
  else
    let st := (s.pkgD p).pageState g
    let r : PageReq := { pkg := p, who := who, page := g, va := va, write := write, dir := dir, leaf := leaf, tenant := tenant, mtype := mtype,
                         peer := peer, cmp := cmp, side := side, stage := 0, frame := 0, from_ := 0, force := force, missed := false, climbed := 0,
                         counted := false, waitAt := none }
    if write && decide (st ≠ 0) then
      let (s, x) := s.newItem (.page { r with stage := 2 })
      s.later (.upgrade x)
    else
      let (s, x) := s.newItem (.page r)
      s.later (.climbingMiss x)

/-! ## TLBs (R127) -/

def Trans.covers (t : Trans) (va : Nat) : Bool := decide (t.base ≤ va) && decide (va < t.base + t.bytes)
/-- The policy in force: PRIV is always write-back (R118). -/
def Trans.policy (t : Trans) : Nat := if t.mtype = 6 then 0 else t.pol
/-- The global or host address of a virtual address. -/
def Trans.addr (t : Trans) (va : Nat) : Nat := t.ga + (va - t.base)

/-- Directions of R83's ACC: 0 read, 1 write, 2 atomic, 3 execute. A cached translation serves an access it permits, and a
write only once DRTY is set (R121). -/
def Trans.serves (t : Trans) (acc : Nat) : Bool :=
  if acc = 0 then true else if acc = 3 then t.x else t.w && t.dirty

/-- Put a translation in front of a TLB; the last entry of its page size beyond the capacity is dropped. -/
def tlbPut (cap : Nat) (tl : List (Nat × Trans)) (tenant : Nat) (t : Trans) : List (Nat × Trans) :=
  let tl := tl.filter (fun (n, u) => !(decide (n = tenant) && decide (u.base = t.base)))
  let same := tl.filter (fun (_, u) => decide (u.bytes = t.bytes))
  let tl := if cap ≤ same.length then
      match same.getLast? with | some v => tl.filter (fun u => decide (u ≠ v)) | none => tl
    else tl
  (tenant, t) :: tl

/-- Install a translation in the core's and the cluster's TLB. -/
def State.install (s : State) (p core tenant : Nat) (t : Trans) : State :=
  s.modPkg p (fun q =>
    let q := q.modCore core (fun k => { k with tlb := tlbPut 64 k.tlb tenant t })
    q.modCluster (clusterOf core) (fun c => { c with tlb := (tlbPut 4096 c.tlb tenant t).take 4096 }))

/-- The cached translation of an address: the core's TLB, then the cluster's. -/
def State.tlbFind (s : State) (p core tenant va : Nat) : Option Trans :=
  let q := s.pkgD p
  let hit := List.find? (fun ((n, t) : Nat × Trans) => decide (n = tenant) && t.covers va)
  match hit (q.core core).tlb with
  | some (_, t) => some t
  | none => (hit (q.cluster (clusterOf core)).tlb).map (·.2)

/-! ## The region attribute file (R116, R117) -/

/-- Read entry bits 55:52 of an address of a leaf's tenant: cached by a die's walkers until an invalidate of the tenant (R117, R129). -/
def State.rafEntry (s : State) (p leaf va : Nat) : State × Nat :=
  let (s, bs) := s.partRead p (s.tenantField p leaf (·.rafbase) 0 + 8 * bitsOf va 55 52) 8
  (s, leNat bs)
/-- The same through the entries that a die's walkers have cached (R117). -/
def State.attr (s : State) (p die leaf va : Nat) : State × Nat :=
  let i := bitsOf va 55 52
  let tenant := s.tenantId p leaf
  match ((s.pkgD p).die die).attrs.find? (fun (n, j, _) => decide (n = tenant) && decide (j = i)) with
  | some (_, _, e) => (s, e.toNat)
  | none =>
    let (s, e) := s.rafEntry p leaf va
    (s.modDie p die (fun d => { d with attrs := (tenant, i, BitVec.ofNat 64 e) :: d.attrs }), e)
/-- The type of an entry, 8 while it is not valid and its type not known. -/
def knownType (e : Nat) : Nat := if attrValid e then attrType e else 8

/-! ## The walk (R119 to R121) -/

/-- The indices of the levels, first level first, by page size. -/
def walkIndices (psz va : Nat) : List Nat :=
  match psz with
  | 0 => [bitsOf va 51 42, bitsOf va 41 29, bitsOf va 28 16]
  | 1 => [bitsOf va 51 47, bitsOf va 46 34, bitsOf va 33 21]
  | _ => [bitsOf va 51 42, bitsOf va 41 29]

/-- The answer of a walk: a translation, a fault, or a table page that must come here first. -/
inductive WalkRes where
  | ok (t : Trans)
  | fault
  | page (g : Nat) (write : Bool)
  /-- a table entry fails its check (R292) -/
  | bad
  deriving DecidableEq, Repr

/-- A walker of a die reads a table entry at its home slice (R121, R139, R140). -/
def State.walkRead (s : State) (p die a : Nat) : State × List Byte := (s.pkgTouch p die a false).homeRead a 8

/-- Read the entries down to the leaf entry: its address and value. Table entries go through the die's walk cache. -/
def State.walkTables (s : State) (p die tenant : Nat) : List Nat → Nat → State × (WalkRes ⊕ (Nat × Nat))
  | [], _ => (s, .inl .fault)
  | [i], base =>
    let a := base + 8 * i
    if !s.pageReady p 0 0 (a / 65536) false then (s, .inl (.page (a / 65536) false))
    else if s.poisoned p a then (s, .inl .bad)
    else let (s, bs) := s.walkRead p die a; (s, .inr (a, leNat bs))
  | i :: j :: is, base =>
    let a := base + 8 * i
    match List.find? (fun ((n, b, _) : Nat × Nat × DWord) => decide (n = tenant) && decide (b = a))
        ((s.pkgD p).die die).walkCache with
    | some (_, _, e) => State.walkTables s p die tenant (j :: is) (bitsOf e.toNat 55 16 * 65536)
    | none =>
      if !s.pageReady p 0 0 (a / 65536) false then (s, .inl (.page (a / 65536) false))
      else if s.poisoned p a then (s, .inl .bad)
      else
        let (s, bs) := s.walkRead p die a
        let e := leNat bs
        if e % 2 = 0 then (s, .inl .fault)
        else
          let s := s.modDie p die (fun d =>
            { d with walkCache := ((tenant, a, BitVec.ofNat 64 e) :: d.walkCache).take 1024 })
          State.walkTables s p die tenant (j :: is) (bitsOf e 55 16 * 65536)

/-- Walk for an address and a direction; ACCD, and DRTY before a write, are set with an atomic OR at the leaf's home slice
(R121). -/
def State.walk (s : State) (p die leaf va acc : Nat) : State × WalkRes :=
  let (s, e) := s.attr p die leaf va
  let tenant := s.tenantId p leaf
  if !attrValid e || attrType e = 5 then (s, .fault)
  else
    let psz := bitsOf e 63 62
    let bytes := pageBytes psz
    match s.walkTables p die tenant (walkIndices psz va) (bitsOf e 55 16 * 65536) with
    | (s, .inl r) => (s, r)
    | (s, .inr (a, l)) =>
      let w := decide (bitsOf l 2 2 = 1)
      let x := decide (bitsOf l 3 3 = 1)
      if l % 2 = 0 || decide (4 ≤ bitsOf l 61 59) || decide (bitsOf l 57 56 = 3) ||
          decide (bitsOf l 55 16 * 65536 % bytes ≠ 0) || (decide (acc = 1 ∨ acc = 2) && !w) || (decide (acc = 3) && !x)
      then (s, .fault)
      else
        let dirty := decide (acc = 1 ∨ acc = 2) || decide (bitsOf l 62 62 = 1)
        let l' := l - bitsOf l 63 62 * 2 ^ 62 + 2 ^ 63 + bitOf dirty * 2 ^ 62
        let t : Trans := { base := va / bytes * bytes, bytes := bytes, ga := bitsOf l 55 16 * 65536, mtype := attrType e,
                           pol := bitsOf l 57 56, cmp := bitsOf l 61 59, side := decide (bitsOf l 58 58 = 1),
                           sidx := bitsOf l 15 4, w := w, x := x, dirty := dirty, peer := bitsOf e 15 4 }
        if l' = l then (s, .ok t)
        else if !s.pageReady p 0 0 (a / 65536) true then (s, .page (a / 65536) true)
        else ((s.pkgTouch p die a true).homeWrite a (leBytes 8 l'), .ok t)

/-! ## Translating one address (R121, R122) -/

/-- What an address gives at once: a translation, scratchpad, a miss, or a failure at translation. -/
inductive XRes where
  | hit (t : Trans)
  | scr
  | miss
  | fail
  deriving DecidableEq, Repr

/-- Kinds of translation by what they may address: an ordinary access, a private word, a fetch, an engine or range access. -/
inductive XKind where | data | priv | fetch | any
  deriving DecidableEq, Repr

def XKind.admits (x : XKind) (mtype : Nat) : Bool :=
  match x with
  | .data => decide (mtype ≠ 6)
  | .priv => decide (mtype = 6)
  | .fetch => decide (mtype = 0) || decide (mtype = 3)
  | .any => true

/-- Translate an address at a core for a direction. An entry that is not valid leads to a walk, which posts. -/
def State.xlate (s : State) (p core leaf va acc : Nat) (x : XKind) : State × XRes :=
  if 2 ^ 56 ≤ va then (s, .fail)
  else
    match s.tlbFind p core (s.tenantId p leaf) va with
    | some t =>
      if !x.admits t.mtype then (s, .fail)
      else if t.serves acc then (s.install p core (s.tenantId p leaf) t, .hit t) else (s, .miss)
    | none =>
      let (s, e) := s.attr p (dieOf core) leaf va
      if !attrValid e then (s, .miss)
      else if !x.admits (attrType e) then (s, .fail)
      else if attrType e = 5 then (s, .scr)
      else (s, .miss)

/-- The leaf of a die's TLBs drops what a retry may have widened (R128): the entries of a page. -/
def State.dropPage (s : State) (p die tenant va : Nat) : State :=
  s.modPkg p (fun q =>
    let out (l : List (Nat × Trans)) := l.filter (fun (n, t) => !(decide (n = tenant) && t.covers va))
    let cores := q.cores.map (fun ((c, k) : Nat × Core) => if dieOf c = die then (c, { k with tlb := out k.tlb }) else (c, k))
    let clusters := q.clusters.map
      (fun ((c, k) : Nat × Cluster) => if c / 6 = die then (c, { k with tlb := out k.tlb }) else (c, k))
    { q with cores := cores, clusters := clusters })

end Sys2Proof.Machine
end

