-- ==== Sys2Proof/Machine/Lines.lean ====
section
/-! DEFINITION. Reading and writing within one line for a core: through its L1, at the home slice, at the host bridge or in the
scratchpad (R118, R131, R164 to R176), and the operation of an atomic (R310). -/

namespace Sys2Proof.Machine

/-- A translation that names scratchpad offset bits 51:0 (R134). -/
def scrTrans (va : Nat) : Trans :=
  { base := va / 2 ^ 52 * 2 ^ 52, bytes := 2 ^ 52, ga := 0, mtype := 5, pol := 0, cmp := 0, side := false, sidx := 0,
    w := true, x := false, dirty := true, peer := 0 }

/-- A mapping's place and kind of compression for an agent's tenant (R123, R124). -/
def Agent.mapping (a : Agent) (t : Trans) : PageCmp := ⟨t.cmp, t.side, t.sidx, a.tenant, a.pkg, false⟩
/-- Two mappings name the same place of a page's line codes (R124). -/
def PageCmp.samePlace (c d : PageCmp) : Bool := decide (c.side = d.side) && (!c.side || (decide (c.sidx = d.sidx) && decide (c.tenant = d.tenant)))

/-- n unspecified bytes (R124), drawn by the model's counter. -/
def State.freeBytes (s : State) (ga n : Nat) : State × List Byte :=
  ({ s with freeTick := s.freeTick + 1 }, (List.range n).map (fun i => Config.freeByte s.freeTick (ga + i)))

/-- The number of a page of global or of host memory. -/
def cmpKey (a : Agent) (t : Trans) (ga : Nat) : Nat := if t.mtype = 4 then 2 ^ 48 + hostAddr a.pkg ga / 65536 else ga / 65536
/-- A read goes through a mapping that disagrees with the page's (R124). After an INVALIDATE of the tenant the next mapping is the page's. -/
def State.cmpDisagrees (s : State) (a : Agent) (t : Trans) (ga : Nat) : Bool :=
  match SMap.find? s.pageCmp (cmpKey a t ga) with | some c => !c.loose && !c.samePlace (a.mapping t) | none => false
/-- The page takes a mapping: the lines of a global page whose codes now lie elsewhere go over to it. -/
def State.noteCmp (s : State) (a : Agent) (t : Trans) (ga : Nat) : State :=
  let k := cmpKey a t ga
  let s := match SMap.find? s.pageCmp k with
    | some c => if c.samePlace (a.mapping t) || decide (t.mtype = 4) then s else s.recodePage c (a.mapping t) k
    | none => s
  { s with pageCmp := SMap.put s.pageCmp k (a.mapping t) }
/-- The first access through a mapping, or the first after an INVALIDATE, names the page's. -/
def State.noteCmpOnce (s : State) (a : Agent) (t : Trans) (ga : Nat) : State :=
  match SMap.find? s.pageCmp (cmpKey a t ga) with | some c => if c.loose then s.noteCmp a t ga else s | none => s.noteCmp a t ga

/-- The page is not cached in L1s of the package: it lies elsewhere (R148). -/
def State.elsewhere (s : State) (p : Nat) (t : Trans) (g : Nat) : Bool := decide (s.lineAt p t.mtype t.peer g ≠ p)

/-- A read of the line through a mapping finds an integrity mismatch: a poisoned CHECK, or a line code of 4 to 7, which a mapping that
disagrees with the page's does not look at (R123, R124, R292). -/
def State.mismatched (s : State) (a : Agent) (t : Trans) (va : Nat) : Bool :=
  let ga := t.addr va
  let code := !s.cmpDisagrees a t ga && t.side && decide (4 ≤ s.codeOf (a.mapping t) ga)
  if t.mtype = 5 then false
  else if t.mtype = 4 then code
  else s.poisoned (s.lineAt a.pkg t.mtype t.peer (ga / 65536)) ga || (!s.cmpDisagrees a t ga && !t.side && decide (4 ≤ (s.lineMeta ga).cmp)) || code

/-! ## Host memory behind the bridge (R118, R124) -/

/-- Read n bytes of one line of host memory; a mapping with CMPSIDE decodes by the line's code, whatever its CMP (R123), and one that
disagrees with the page's gives unspecified bytes (R124). -/
def State.hostRead (s : State) (a : Agent) (t : Trans) (ga n : Nat) : State × List Byte :=
  if s.cmpDisagrees a t ga then s.freeBytes ga n
  else
    let s := s.noteCmpOnce a t ga
    (s, if t.side then lineBytes (lineUnform (s.codeOf (a.mapping t) ga) (s.hbytes a.pkg (lineBase ga) 128)) (ga % 128) n
        else s.hbytes a.pkg ga n)
/-- Write bytes of one line of host memory, compressed under such a mapping. -/
def State.hostWrite (s : State) (a : Agent) (t : Trans) (ga : Nat) (bs : List Byte) : State :=
  let s := s.noteCmp a t ga
  if t.side then
    let old := lineUnform (s.codeOf (a.mapping t) ga) (s.hbytes a.pkg (lineBase ga) 128)
    let new := linePatch old (lineOfBytes (ga % 128) bs) (bytesMask (ga % 128) bs.length)
    let code := lineCode t.cmp new
    (s.putNibble (a.mapping t) ga code).hput a.pkg (lineBase ga) (lineForm code new)
  else s.hput a.pkg ga bs

/-- Bytes that an L1 holds valid (R164). -/
def State.l1Read (s : State) (p core ga n : Nat) : Option (List Byte) :=
  match (s.coreOf p (s.l1Core p core ga)).l1Line ga with
  | some l => if l.has (wordsOf (ga % 128) n) then some (lineBytes l.data (ga % 128) n) else none
  | none => none

/-- Some other L1 or a write-back in flight holds words of the line for its home (R165, R167). -/
def State.ownedElsewhere (s : State) (mtype p d ga : Nat) (keep : Nat × Nat) : Bool :=
  (s.holders mtype p d ga).any (fun (q, c, l) => decide ((q, c) ≠ keep) && decide (l.owned ≠ 0)) ||
  s.wbs.any (fun (_, w) => decide (w.ga = lineBase ga) && inDomain mtype p d w.pkg w.core && decide (w.fresh ≠ 0))

/-- The data of a line that a read brings from its home: unspecified where the mapping disagrees with the page's (R124). -/
def State.lineData (s : State) (a : Agent) (t : Trans) (ga : Nat) (home : HomeAt) : State × Line :=
  let whole : Bool := match home with
    | .mem => false
    | .proxy p d => match (s.pkgD p).sliceLine (32 * d + homeSliceIn ga) ga 1 with | some l => decide (l.valid = ~~~0) | none => false
  let s := if whole then s else s.slicePass (s.lineAt a.pkg t.mtype t.peer (ga / 65536)) ga a.chain (decide (t.policy = 2))
  let (s, data) := s.homeLine home ga a.chain (decide (t.policy = 2))
  if s.cmpDisagrees a t ga then
    let (s, bs) := s.freeBytes (lineBase ga) 128; (s, lineOfBytes 0 bs)
  else (s.noteCmpOnce a t ga, data)

/-- Fill the line in the L1: from a victim replica of the die that holds the words (R172), else from its home, which recalls owned words
first (R165). -/
def State.l1Fill (s : State) (a : Agent) (t : Trans) (ga n : Nat) : State :=
  let c := s.l1Core a.pkg a.core ga
  let d := dieOf a.core
  let fillWith (s : State) (data : Line) (valid : BitVec 32) : State :=
    let old := ((s.coreOf a.pkg c).l1Line ga).getD (emptyL1 ga t.mtype (decide (t.policy = 2)) a.chain)
    s.l1Put a.pkg c { old.fill data valid with priv := if t.mtype = 6 then some a.uid else none, stream := decide (t.policy = 2) }
  match (if s.cmpDisagrees a t ga then none else s.replicaOf a.pkg d ga (wordsOf (ga % 128) n)) with
  | some r => fillWith (s.slicePut a.pkg r false) r.data ((List.range 32).foldl (fun m i => if r.valid.getLsbD (4 * i) then m ||| (1#32 <<< i) else m) 0)
  | none =>
    let s := s.recall t.mtype a.pkg d ga (~~~0) false (some (a.pkg, c))
    let (s, data) := s.lineData a t ga (s.homeAt a.pkg d t.mtype ga)
    fillWith s data (~~~0)

/-- Read n bytes at a home without caching them, after the recall that keeps them coherent unless the policy is L1-bypass
(R148, R168). -/
def State.readAtHome (s : State) (a : Agent) (t : Trans) (ga n : Nat) : State × List Byte :=
  let d := dieOf a.core
  let s := if t.policy = 1 then s else s.recall t.mtype a.pkg d ga (wordsOf (ga % 128) n) false none
  let (s, data) := s.lineData a t ga (s.homeAt a.pkg d t.mtype ga)
  (s, lineBytes data (ga % 128) n)

/-- The access is uncached in the L1: L1-bypass, or a page of another package. PRIV is always write-back (R118). -/
def State.uncached (s : State) (p : Nat) (t : Trans) (g : Nat) : Bool :=
  decide (t.policy = 1) || s.elsewhere p t g

/-- Read n bytes of one line. -/
def State.readLine (s : State) (a : Agent) (t : Trans) (va n : Nat) : State × List Byte :=
  let ga := t.addr va
  if t.mtype = 5 then (s, s.sbytes a.uid a.share ga n)
  else if t.mtype = 4 then s.hostRead a t ga n
  else
    let s := s.touchLine a t ga false
    if s.uncached a.pkg t (ga / 65536) then s.readAtHome a t ga n
    else
      let c := s.l1Core a.pkg a.core ga
      let data (s : State) : List Byte := lineBytes (match (s.coreOf a.pkg c).l1Line ga with | some l => l.data | none => 0) (ga % 128) n
      match s.l1Read a.pkg a.core ga n, (s.coreOf a.pkg c).l1Line ga with
      | some bs, some l => (s.l1Put a.pkg c l, bs)
      | _, _ => let s := s.l1Fill a t ga n; (s, data s)

/-- Write bytes of one line of attraction memory at its home: sharers are invalidated, owners recalled (R148), unless the policy is
L1-bypass (R168). TAG bits of the written words are cleared (R201). -/
def State.writeAtHome (s : State) (a : Agent) (t : Trans) (ga : Nat) (bs : List Byte) : State :=
  let d := dieOf a.core
  let s := s.clearTags ga bs.length
  let s := if t.policy = 1 then s else s.recallAll t.mtype a.pkg d ga (wordsOf (ga % 128) bs.length)
  s.homeMerge (s.homeAt a.pkg d t.mtype ga) ga (lineOfBytes (ga % 128) bs) (bytesMask (ga % 128) bs.length) a.chain

/-- A write of a page's line: the frame is used (R139, R140), and the page takes the mapping's place of line codes (R124). -/
def State.notePageWrite (s : State) (a : Agent) (t : Trans) (ga : Nat) : State :=
  (s.touchLine a t ga true).noteCmp a t ga

/-- Write bytes of one line: in the L1 with ownership of their words, or at the home (R165, R168). TAG bits of the written words
are cleared (R201). -/
def State.writeLine (s : State) (a : Agent) (t : Trans) (va : Nat) (bs : List Byte) : State :=
  let ga := t.addr va
  if t.mtype = 5 then s.sstore a.uid a.share ga bs
  else if t.mtype = 4 then s.hostWrite a t ga bs
  else
    let s := s.notePageWrite a t ga
    let bs := s.storable ga bs
    match s.trrdStore a.pkg ga bs with
    | some s => s
    | none =>
    if s.uncached a.pkg t (ga / 65536) then s.writeAtHome a t ga bs
    else
      let d := dieOf a.core
      let words := wordsOf (ga % 128) bs.length
      let s := s.clearTags ga bs.length
      let c := s.l1Core a.pkg a.core ga
      let mine := (s.coreOf a.pkg c).l1Line ga
      let s := if (mine.map (·.owns words)).getD false then s
        else s.recall t.mtype a.pkg d ga words true (some (a.pkg, c))
      let old := ((s.coreOf a.pkg c).l1Line ga).getD (emptyL1 ga t.mtype (decide (t.policy = 2)) a.chain)
      let l := old.store (ga % 128) bs (s.coreOf a.pkg a.core).epoch a.core
      s.l1Put a.pkg c { l with priv := if t.mtype = 6 then some a.uid else none }

/-- Read bytes of one line for an engine, which caches nothing in the L1 (R220, R230, R235). -/
def State.engRead (s : State) (a : Agent) (t : Trans) (va n : Nat) : State × List Byte :=
  let ga := t.addr va
  if t.mtype = 5 then (s, s.sbytes a.uid a.share ga n)
  else if t.mtype = 4 then s.hostRead a t ga n
  else (s.touchLine a t ga false).readAtHome a t ga n
/-- Write bytes of one line for an engine, at their home. -/
def State.engWrite (s : State) (a : Agent) (t : Trans) (va : Nat) (bs : List Byte) : State :=
  let ga := t.addr va
  if t.mtype = 5 then s.sstore a.uid a.share ga bs
  else if t.mtype = 4 then s.hostWrite a t ga bs
  else
    let s := s.notePageWrite a t ga
    let bs := s.storable ga bs
    (s.trrdStore a.pkg ga bs).getD (s.writeAtHome a t ga bs)

/-! ## Atomics (R171, R310) -/

/-- An F32 in the low half of a value. -/
def f32Of (ftz : Bool) (x : DWord) : FVal := fmt32.read ftz (x.toNat % 2 ^ 32)

/-- The new value of an atomic and its flags: old value, operand x, new value y of a CAS, FMODE (R310). -/
def atomNew (op : AtomOp) (fmode : Nat) (old x y : DWord) : Option DWord × Nat :=
  let ftz := ftzOf fmode
  let o32 := pairLo old
  let x32 := pairLo x
  let w (v : Word) : Option DWord × Nat := (some (v.setWidth 64), 0)
  let f (r : FRes) : Option DWord × Nat := (some (BitVec.ofNat 64 r.bits), r.flags)
  match op with
  | .add32 => w (o32 + x32)
  | .add64 => (some (old + x), 0)
  | .addF32 => f (fmt32.add ftz (rmOf fmode) (f32Of ftz old) (f32Of ftz x))
  | .minS32 => w (if x32.toInt < o32.toInt then x32 else o32)
  | .minZ32 => w (if x32.toNat < o32.toNat then x32 else o32)
  | .minS64 => (some (if x.toInt < old.toInt then x else old), 0)
  | .minZ64 => (some (if x.toNat < old.toNat then x else old), 0)
  | .minF32 => f (fmt32.minMax false (f32Of ftz old) (f32Of ftz x))
  | .maxS32 => w (if o32.toInt < x32.toInt then x32 else o32)
  | .maxZ32 => w (if o32.toNat < x32.toNat then x32 else o32)
  | .maxS64 => (some (if old.toInt < x.toInt then x else old), 0)
  | .maxZ64 => (some (if old.toNat < x.toNat then x else old), 0)
  | .maxF32 => f (fmt32.minMax true (f32Of ftz old) (f32Of ftz x))
  | .and32 => w (o32 &&& x32)
  | .or32 => w (o32 ||| x32)
  | .xor32 => w (o32 ^^^ x32)
  | .xchg32 => w x32
  | .xchg64 => (some x, 0)
  | .cas32 => if o32 = x32 then w (pairLo y) else (none, 0)
  | .cas64 => if old = x then (some y, 0) else (none, 0)

/-- Perform an atomic at the home slice, the host bridge or the bank: the old value and the flags (R171, R310). -/
def State.atomLine (s : State) (a : Agent) (t : Trans) (va : Nat) (op : AtomOp) (n fmode : Nat) (x y : DWord) :
    State × DWord × Nat :=
  let ga := t.addr va
  let run (s : State) (old : List Byte) (put : State → List Byte → State) : State × DWord × Nat :=
    let o := BitVec.ofNat 64 (leNat old)
    let (v, fl) := atomNew op fmode o x y
    (match v with | some v => put s (leBytes n v.toNat) | none => s, o, fl)
  if t.mtype = 5 then run s (s.sbytes a.uid a.share ga n) (fun s bs => s.sstore a.uid a.share ga bs)
  else if t.mtype = 4 then let (s, old) := s.hostRead a t ga n; run s old (fun s bs => s.hostWrite a t ga bs)
  else
    let q := s.lineAt a.pkg t.mtype t.peer (ga / 65536)
    let s := s.touchLine a t ga true
    let d := dieOf a.core
    let words := wordsOf (ga % 128) n
    let s := s.recallAll t.mtype a.pkg d ga words
    let s := match s.homeAt a.pkg d t.mtype ga with
      | .mem => s
      | .proxy _ _ =>
        let sl := 32 * d + homeSliceIn ga
        let s := match (s.pkgD a.pkg).sliceLine sl ga 1 with
          | none => s
          | some l =>
            let m := wordsMask words
            let s := (s.decodeLine ga).gpatch ga l.data (l.dirty &&& m)
            s.slicePut a.pkg { l with dirty := l.dirty &&& ~~~m, valid := l.valid &&& ~~~m } false
        s.recallAll 2 q (homeDie ga) ga words
    let s := (s.slicePass q ga a.chain (decide (t.policy = 2))).count q (2, 2) (homeSlice ga) 1
    let (s, old) := if s.cmpDisagrees a t ga then s.freeBytes ga n else (s, s.gbytes ga n)
    run s old (fun s bs =>
      let bs := s.storable ga bs
      (s.trrdStore a.pkg ga bs).getD (((((s.noteCmp a t ga).gput ga bs).clearTags ga bs.length).recode ga).mirrorWrite ga))

end Sys2Proof.Machine
end

