-- ==== Sys2Proof/Machine/Nodes.lean ====
section
/-! DEFINITION. The nodes of the location directory and their hosts, a page's entry at a node, the backing area of a tenant (R141, R142,
R153), and runs of bytes that move as a whole. -/

namespace Sys2Proof.Machine

/-- Replace the entries of a run of addresses. -/
def splice {V : Type} (m : SMap V) (base n : Nat) (seg : SMap V) : SMap V :=
  (m.filter (fun ((a, _) : Nat × V) => decide (a < base))) ++ seg ++ (m.filter (fun ((a, _) : Nat × V) => decide (base + n ≤ a)))
/-- The entries of a run of addresses, moved to another base. -/
def cut {V : Type} (m : SMap V) (base n dest : Nat) : SMap V :=
  (m.filter (fun ((a, _) : Nat × V) => decide (base ≤ a) && decide (a < base + n))).map (fun ((a, v) : Nat × V) => (a - base + dest, v))

/-! ## Packages and nodes (R141) -/

/-- The package is present and not lost. -/
def State.alive (s : State) (p : Nat) : Bool := match s.pkg? p with | some q => q.present && !q.lost | none => false
/-- The next of 16 places, in increasing order modulo 16. -/
def nextOf16 (k : Nat) (ok : Nat → Bool) : Option Nat := ((List.range 16).map (fun i => (k + i) % 16)).find? ok
/-- The child of a level on a package's path, and the node of the level: its prefix. -/
def childAt (level p : Nat) : Nat := p / 16 ^ level % 16
def prefixAt (level p : Nat) : Nat := p / 16 ^ (level + 1)

/-- The host package of a page's node at a level (R141). -/
def State.nodeHost (s : State) (g level pre : Nat) : Option Nat :=
  let h := pageSet g
  let inBay (bay : Nat) : Option Nat :=
    (nextOf16 (bitsOf h 3 0) (fun i => s.alive (bay * 16 + i))).map (fun i => bay * 16 + i)
  let inRow (row : Nat) : Option Nat :=
    (nextOf16 (bitsOf h 7 4) (fun i => (inBay (row * 16 + i)).isSome)).bind (fun i => inBay (row * 16 + i))
  match level with
  | 0 => inBay pre
  | 1 => inRow pre
  | _ => (nextOf16 (bitsOf h 11 8) (fun i => (inRow i).isSome)).bind inRow

/-! ## Entries (R142) -/

/-- The directory set of a page. -/
def dsetOf (g : Nat) : Nat := (bitsOf g 24 0) ^^^ (bitsOf g 39 25)
def isEntry (g level : Nat) (e : Option DirEntry) : Bool :=
  match e with | some e => decide (e.gpn = g) && decide (e.level = level) | none => false
def DirSet.entry? (d : DirSet) (g level : Nat) : Option DirEntry := (d.entries.find? (isEntry g level)).join
def State.dirOf (s : State) (host g : Nat) : DirSet := (s.pkgD host).dirSet (dsetOf g)
/-- A page's entry at a node. -/
def State.entryAt (s : State) (g level pre : Nat) : Option DirEntry :=
  (s.nodeHost g level pre).bind (fun q => (s.dirOf q g).entry? g level)
/-! ## The backing area (R153) -/

/-- The backing area of a tenant, at the bridge of the pod node's host if it knows the tenant, else of the first package that does:
the bridge's package, BKBASE and the number of slots S. -/
def State.backing (s : State) (g owner : Nat) : Option (Nat × Nat × Nat) :=
  let at_ (p : Nat) : Option (Nat × Nat × Nat) := match s.tenantBlock p owner with
    | some (_, b) => if b.bkbase = 0 then none else some (p, b.bkbase, min b.bkpages 524288)
    | none => none
  ((s.nodeHost g 2 0).bind at_).orElse (fun _ => (s.pkgs.map (·.1)).findSome? at_)

/-- Where in host memory a page's slot of the backing area lies, while BACKED is set (R144, R153). -/
def State.backedAt (s : State) (g : Nat) : Option Nat :=
  match s.entryAt g 2 0 with
  | some e => if e.backed then (s.backing g e.owner).map (fun (b, base, _) => hostAddr b (base + e.bkslot * 65536)) else none
  | none => none

end Sys2Proof.Machine
end

