-- ==== Sys2Proof/Machine/Access.lean ====
section
/-! DEFINITION. Accesses of threads in flight: how they issue, translate, defer, wait for the pairs that are kept, are performed
and complete (R42, R81 to R85, R121, R122, R182 to R185, R359, R380). -/

namespace Sys2Proof.Machine

/-! ## What an access touches -/

/-- The direction an access posts (R83). -/
def AccKind.dir : AccKind → Nat
  | .st | .stref | .sts | .stpv _ | .spill | .kst | .oinit => 1
  | .atom .. | .atoms .. => 2
  | .fetch => 3
  | _ => 0
/-- What it may address (R122). -/
def AccKind.xkind : AccKind → XKind
  | .ldpv _ | .stpv _ | .spill | .refill => .priv
  | .fetch => .fetch
  | .oinit | .wbr | .invr | .pref => .any
  | _ => .data
/-- Accesses that name a scratchpad offset (R134). -/
def AccKind.scratch : AccKind → Bool | .lds _ | .sts | .atoms .. => true | _ => false
/-- Accesses to private words (R132). -/
def AccKind.priv : AccKind → Bool | .ldpv _ | .stpv _ | .spill | .refill => true | _ => false
/-- Accesses of two private words (R361). -/
def AccKind.two : AccKind → Bool | .ldpv m | .stpv m => decide (m = 2) | .spill | .refill => true | _ => false
/-- KLD and KST, which take no log entry (R355). -/
def AccKind.uniform : AccKind → Bool | .kld _ | .kst => true | _ => false
/-- A plain store, whose bytes a later load of its thread takes before it is performed (R182). -/
def AccKind.forwards : AccKind → Bool | .st | .stref | .sts | .stpv _ | .kst | .spill => true | _ => false
def AccKind.plainLoad : AccKind → Bool | .ld _ | .ldref | .lds _ | .ldpv _ | .kld _ | .refill => true | _ => false

/-- A run of bytes cut at 64 KiB pages: the part in each page. -/
def pageRuns (va n : Nat) : List (Nat × Nat) :=
  (List.range ((va % 65536 + n + 65535) / 65536)).map (fun i =>
    let lo := if i = 0 then va else (va / 65536 + i) * 65536
    (lo, min (va + n) ((va / 65536 + i + 1) * 65536) - lo))

/-- The pieces of an access: virtual address or offset, and length. -/
def Access.pieces (a : Access) : List (Nat × Nat) :=
  if a.kind.two then [(a.va.toNat, 4), (a.va2.toNat, 4)]
  else match a.kind with
    | .oinit => pageRuns a.va.toNat a.len
    | .wbr | .invr => [(a.va.toNat, a.len)]
    | _ => [(a.va.toNat, a.size)]

/-- The allotment registers it writes (R204, R310, R357, R358, R361, R368). -/
def Access.dests (a : Access) : List Nat :=
  match a.kind with
  | .ld k | .lds k => if k = .d64 then [a.dreg, a.dreg + 1] else [a.dreg]
  | .ldref | .oinit => [a.dreg, a.dreg + 1]
  | .ldpv m => if m = 2 then [a.dreg, a.dreg + 1] else [a.dreg]
  | .atom _ n | .atoms _ n => if n then [] else if a.size = 8 then [a.dreg, a.dreg + 1] else [a.dreg]
  | .launch _ => [a.dreg]
  | _ => []

/-- The virtual addresses whose pages an access needs: of its pieces, and of the headers that a STREF reads (R82, R203, R205, R381). -/
def Access.vas (a : Access) : List Nat :=
  match a.kind with
  | .stref => a.va.toNat :: ((if a.vtag then [a.opa.toNat] else []) ++ (if a.tagd then [a.data.toNat] else []))
  | _ => a.pieces.map (·.1)

/-- The memory type of an access, as far as it is known (R118). -/
def Access.mtype (a : Access) : Nat :=
  if a.kind.scratch then 5 else if a.kind.priv then 6 else match a.trans with | t :: _ => t.mtype | [] => a.atype
/-- A type that the access has, or may turn out to have (R117). -/
def Access.mayBe (a : Access) (n : Nat) : Bool := decide (a.mtype = n) || decide (a.mtype = 8)
/-- The access is held in its thread's operand log, or replays from it (R81, R184). -/
def Access.deferred (a : Access) : Bool := decide (a.stage = .logged) || a.replay

/-- A place of a piece: 0 a virtual address, 1 global, 2 host, 3 scratchpad. -/
def Access.place (a : Access) (i va : Nat) : Nat × Nat :=
  if a.kind.scratch then (3, va)
  else match a.trans[i]? with
    | none => (0, va)
    | some t => (if t.mtype = 5 then 3 else if t.mtype = 4 then 2 else 1, t.addr va)

/-- Where byte j of a piece of one access lies in a piece of another, as far as it is known: by place when both are translated, by
virtual address otherwise, where one address is one byte. -/
def sameByte (a b : Access) (i vi j vj : Nat) : Option Int :=
  let (s1, p1) := a.place i vi
  let (s2, p2) := b.place j vj
  if s1 = s2 && decide (s1 ≠ 0) then some ((p1 : Int) - p2)
  else if (s1 = 0 || s2 = 0) && !a.kind.scratch && !b.kind.scratch then some ((vi : Int) - vj) else none

/-- Two runs of bytes meet, the first n bytes long, the second m, with the first byte of one at distance d from the other's. -/
def runsMeet (d : Int) (n m : Nat) : Bool := decide (d < (m : Int)) && decide (-d < (n : Int)) && decide (0 < n) && decide (0 < m)

/-- Two accesses of a thread are known to touch a common byte. -/
def overlaps (a b : Access) : Bool :=
  (a.pieces.zipIdx).any (fun ((va, n), i) => (b.pieces.zipIdx).any (fun ((vb, m), j) =>
    match sameByte a b i va j vb with
    | some d => runsMeet d n m
    | none => false))

/-- What an access may address, as far as its type is known: 3 scratchpad, 2 host, 1 global, 0 any of them (R117, R118). -/
def Access.space (a : Access) : Nat := if a.mtype = 5 then 3 else if a.mtype = 4 then 2 else if a.mtype = 8 then 0 else 1

/-- Two runs may name common bytes through two virtual pages: their places in a 64 KiB page, the smallest that a translation maps,
meet (R119). -/
def aliasRuns (va n vb m : Nat) : Bool :=
  decide (va / 65536 ≠ vb / 65536) &&
    (let d : Int := ((va % 65536 : Nat) : Int) - (vb % 65536 : Nat)
     runsMeet d n m || runsMeet (d + 65536) n m || runsMeet (d - 65536) n m || decide (65536 ≤ n + m))

/-- Two accesses of a thread of which one is not translated yet may touch a common byte through two virtual addresses. -/
def mayAlias (a b : Access) : Bool :=
  (decide (a.space = 0) || decide (b.space = 0) || decide (a.space = b.space)) && decide (a.kind.priv = b.kind.priv) &&
  (a.pieces.zipIdx).any (fun ((va, n), i) => (b.pieces.zipIdx).any (fun ((vb, m), j) =>
    (decide ((a.place i va).1 = 0) || decide ((b.place j vb).1 = 0)) && aliasRuns va n vb m))

/-- An access touches a byte of the range that a WBR or INVR names (R352, R353, R396). -/
def inRange (r a : Access) : Bool :=
  !a.kind.scratch && a.pieces.any (fun (va, n) => runsMeet ((va : Int) - r.va.toNat) n r.len)
/-- It touches one through another virtual address, as far as the translations are known (R119). -/
def State.rangeAlias (s : State) (r a : Access) : Bool :=
  !a.kind.scratch && (a.pieces.zipIdx).any (fun ((va, n), i) => match a.trans[i]? with
    | none => false
    | some t => decide (t.mtype ≠ 4 ∧ t.mtype ≠ 5) && (pageRuns r.va.toNat r.len).any (fun (vr, m) =>
        match s.tlbFind r.pkg r.core (s.tenantId r.pkg r.leaf) vr with
        | some u => decide (u.mtype ≠ 4) && runsMeet ((t.addr va : Int) - u.addr vr) n m
        | none => false))

def Access.acquires (a : Access) : Bool := decide (a.order = .acq) || decide (a.order = .ar)
def Access.releases (a : Access) : Bool :=
  decide (a.order = .rel) || decide (a.order = .ar) || (match a.kind with | .launch _ => true | _ => false)
def Access.range (a : Access) : Bool := decide (a.kind = .wbr) || decide (a.kind = .invr)

/-- An earlier access b of the thread must be performed before a (R183 to R185, R192, R352, R353). -/
def keepsBefore (b a : Access) : Bool :=
  if !b.unperformed || decide (b.kind = .pref) || decide (a.kind = .pref) then false
  else if b.range then
    (decide (b.kind = .invr) && !a.range && inRange b a) || (a.releases && decide (a.scope ≠ .grp ∧ a.scope ≠ .clu))
  else if a.range then b.acquires || (b.kind.writes && inRange a b)
  else
    b.acquires || a.releases ||
    (overlaps b a && !(b.kind.forwards && a.kind.plainLoad)) || mayAlias b a ||
    (b.kind.reads && a.kind.writes && !a.kind.priv && (!b.kind.priv || b.deferred)) ||
    (b.mayBe 5 && a.mayBe 5 && ((b.kind.reads && a.kind.reads) || (b.kind.writes && a.kind.writes))) ||
    (b.mayBe 4 && a.mayBe 4 && b.kind.writes && a.kind.writes)

/-- A range instruction and another access of its thread of which one must wait for the other meet through two virtual addresses. -/
def State.rangeKeeps (s : State) (b a : Access) : Bool :=
  b.unperformed && ((decide (b.kind = .invr) && !a.range && decide (a.kind ≠ .pref) && s.rangeAlias b a) ||
    (a.range && !b.range && b.kind.writes && s.rangeAlias a b))

/-- A thread is alone in its group: the others have exited, and nothing of theirs is still to be performed. -/
def State.alone (s : State) (k : TKey) : Bool :=
  match s.group? k.uid with
  | none => false
  | some g => (g.threads.zipIdx).all (fun (t, n) => decide (n = k.tidx) || t.exited) &&
      s.accesses.all (fun (_, a) => decide (a.thr.uid ≠ k.uid) || decide (a.thr = k) || !a.unperformed) &&
      s.ops.all (fun (_, o) => decide (o.thr.uid ≠ k.uid) || decide (o.thr = k) || decide (o.st = .done))
/-- An access without the pairs of a construct at GROUP scope of a thread that is alone: every outcome with another thread is one in which
the construct does not count (R186; log entry 114). -/
def State.unscoped (s : State) (a : Access) : Access :=
  if decide (a.scope = .grp) && decide (a.order ≠ .rlx) && s.alone a.thr then { a with order := .rlx } else a
/-- Every earlier access that must come first has been performed. -/
def State.mayPerform (s : State) (x : Nat) (a : Access) : Bool :=
  (s.accOf a.thr).all (fun (y, b) =>
    !(decide (y < x) && (keepsBefore (s.unscoped b) (s.unscoped a) || s.rangeKeeps b a)))

/-- The thread's own earlier stores that are not performed yet overlay what a load reads (R182, item 2). -/
def State.overlay (s : State) (x : Nat) (a : Access) (i va : Nat) (bs : List Byte) : List Byte :=
  (s.accOf a.thr).foldl (fun bs (y, b) =>
    if decide (y < x) && b.unperformed && b.kind.forwards then
      (b.pieces.zipIdx).foldl (fun (bs : List Byte) ((vb, m), j) =>
        match sameByte a b i va j vb with
        | none => bs
        | some d => (bs.zipIdx).map (fun (v, n) =>
            let o := d + n
            if 0 ≤ o && o < (m : Int) then
              let w := if j = 1 then b.data.toNat / 2 ^ 32 else b.data.toNat
              BitVec.ofNat 8 (w / 2 ^ (8 * o.toNat))
            else v)) bs
    else bs) bs

/-- The tag a load sees: of its latest unperformed store to the word, or of the line (R201, R204). -/
def State.tagSeen (s : State) (x : Nat) (a : Access) (ga : Nat) : Bool :=
  (s.accOf a.thr).foldl (fun tg (y, b) =>
    if decide (y < x) && b.unperformed && b.kind.forwards && overlaps b a then decide (b.kind = .stref) else tg) (s.tagAt ga)

/-! ## The event that performs an access -/

def AccKind.event (k : AccKind) (x : Nat) : Instr :=
  match k with
  | .atom .. | .atoms .. => .atomicAtHome x
  | .st | .stref | .sts | .stpv _ | .spill | .kst | .oinit | .wbr | .invr => .ownershipRequest x
  | _ => .homeReadRequest x

/-- The access tries again later. -/
def State.again (s : State) (x : Nat) (a : Access) : State := s.later (a.kind.event x)

/-! ## The operand log (R81, R82) -/

/-- The lowest free entry of a thread's log. -/
def Thread.freeIx (t : Thread) : Option Nat := (List.range 4).find? (fun i => t.log.all (fun e => decide (e.ix ≠ i)))

/-- The log entry of an access (R81). -/
def Access.entry (a : Access) (x ix fid lstate cause : Nat) (va : DWord) : LogEntry :=
  { ix := ix, faultId := fid, lstate := lstate, dreg := a.dreg, word := a.word, ipc := a.ipc, opa := a.opa,
    opb := if a.kind = .oinit then a.data else a.data2, opc := if a.kind = .oinit then 0 else a.data, va := va, pmask := a.pmask, iter := a.iter, acc := x, cause := cause }

/-- Put an entry into a log, which is kept in the order of the accesses (R82). -/
def insertEntry (e : LogEntry) : List LogEntry → List LogEntry
  | [] => [e]
  | q :: l => if e.acc < q.acc then e :: q :: l else q :: insertEntry e l

/-- An attached access leaves a fault: an entry still to be written counts fewer, or is not written at all (R80, R83). -/
def State.detach (s : State) (p id : Nat) : State :=
  s.modPkg p (fun q => { q with faults := q.faults.filterMap (fun f =>
    if f.id = id && f.open_ && !f.posted then (if f.count ≤ 1 then none else some { f with count := f.count - 1 }) else some f) })

/-- An access attaches to a fault by its log entry: COUNT counts it while the entry is not written (R83). -/
def State.attach (s : State) (p id : Nat) : State :=
  s.modPkg p (fun q => { q with faults := q.faults.map (fun f =>
    if f.id = id && f.open_ && !f.posted then { f with count := f.count + 1 } else f) })

/-- A full log gives an entry up to an earlier access of the thread: the youngest entry, if it is later, goes back to its walk, which
takes it to the log again (R82). -/
def State.makeRoom (s : State) (x : Nat) (a : Access) (t : Thread) : State :=
  match t.freeIx, t.log.getLast? with
  | none, some e =>
    if e.acc ≤ x then s
    else
      let s := if e.lstate = 1 then s.detach a.pkg e.faultId else s
      let s := s.modThread a.thr (fun t => { t with log := t.log.filter (fun q => decide (q.acc ≠ e.acc)) })
      let s := s.modAccess e.acc (fun b => { b with stage := .translate, trans := [], replay := false })
      match s.access? e.acc with
      | none => s
      | some b =>
        let (s, y) := s.newItem (.walk { pkg := b.pkg, core := b.core, tenant := s.tenantId b.pkg b.leaf, leaf := b.leaf,
                                         va := e.va.toNat, acc := e.acc, kind := 1, dir := b.kind.dir, force := b.force, thr := b.thr,
                                         redo := false, fault := 0, failed := 0 })
        s.later (.translationWalkDone y)
  | _, _ => s

/-- Put an access into its thread's log, or change its entry there; none when the log is full. -/
def State.logIt (s : State) (x : Nat) (a : Access) (fid lstate cause : Nat) (va : DWord) : Option State :=
  match s.thread? a.thr with
  | none => some (s.dropItem x)
  | some t =>
    let put (f : Thread → Thread) : State :=
      let s := (s.modThread a.thr f).modAccess x (fun a => { a with stage := .logged })
      if lstate = 1 then s else s.later (.accessReplay a.thr.uid a.thr.tidx)
    match t.log.find? (fun e => decide (e.acc = x)) with
    | some _ => some (put (fun t => { t with log := t.log.map (fun e =>
        if e.acc = x then { e with faultId := fid, lstate := lstate, cause := cause, va := va } else e) }))
    | none => match t.freeIx with
      | none => none
      | some ix => some (put (fun t => { t with log := insertEntry (a.entry x ix fid lstate cause va) t.log }))

/-- The same, after an earlier access has taken a later one's place in a full log. -/
def State.logAccess (s : State) (x : Nat) (a : Access) (fid lstate cause : Nat) (va : DWord) : Option State :=
  match s.thread? a.thr with
  | none => some (s.dropItem x)
  | some t => (if t.log.any (fun e => decide (e.acc = x)) then s else s.makeRoom x a t).logIt x a fid lstate cause va

/-- The entry that an access is logged behind, and the access's address there: the youngest of an earlier access for a 64 KiB page that
it needs (R82). -/
def Thread.behind (t : Thread) (x : Nat) (a : Access) : Option (LogEntry × Nat) :=
  (t.log.reverse.filter (fun e => decide (e.acc < x))).findSome? (fun e =>
    (a.vas.find? (fun v => decide (v / 65536 = e.va.toNat / 65536))).map (fun v => (e, v)))

/-- An access is logged behind an entry of its page without translation: attached to its fault while that is open, else resolved with
it (R82; log entry 118); none when the log is full. -/
def State.logBehind (s : State) (x : Nat) (a : Access) (e : LogEntry) (va : Nat) : Option State :=
  if e.lstate = 1 then (s.logAccess x a e.faultId 1 0 (BitVec.ofNat 64 va)).map (fun s => s.attach a.pkg e.faultId)
  else s.logAccess x a 0 2 0 (BitVec.ofNat 64 va)

/-- The thread is stalled on its full log (R81). -/
def State.logStall (s : State) (k : TKey) : State :=
  s.modThread k (fun t => if t.wait = .none then { t with wait := .logFull } else t)

/-- An access has faulted: it posts KIND 1 and defers; with no queue it fails at once (R81, R83). `retry` happens again when the
log is full. -/
def State.deferAccess (s : State) (x : Nat) (a : Access) (va : Nat) (retry : Instr) : State :=
  match s.group? a.thr.uid with
  | none => s.dropItem x
  | some g =>
    match s.logAccess x a 0 1 0 (BitVec.ofNat 64 va) with
    | none => (s.logStall a.thr).later retry
    | some s =>
      let (s, id) := s.postFault a.pkg a.leaf 1 a.kind.dir 0 va (threadName g a.thr.tidx (dieOf a.core)) (dieOf a.core)
      match id with
      | some n => (s.logIt x a n 1 0 (BitVec.ofNat 64 va)).getD s
      | none => (s.logIt x a 0 3 0x0E (BitVec.ofNat 64 va)).getD s

/-- An access fails with a cause and no fault-queue entry (R122, R158). -/
def State.failAccess (s : State) (x : Nat) (a : Access) (cause : Nat) (va : DWord) (retry : Instr) : State :=
  match s.logAccess x a 0 3 cause va with
  | none => (s.logStall a.thr).later retry
  | some s => s

/-! ## Translating -/

/-- How far the translation of an access has come. -/
inductive XStat where
  | done
  | miss (va dir : Nat)
  | fail (va : DWord)
  deriving DecidableEq, Repr

/-- Translate addresses in order, adding to those the access has; scratchpad is bounded by 2,048 × SCRG (R135). -/
def State.xlateList (s : State) (scr : Nat) (a : Access) : List (Nat × Nat × Nat) → State × Access × XStat
  | [] => (s, a, .done)
  | (va, n, dir) :: rest =>
    match s.xlate a.pkg a.core a.leaf va dir a.kind.xkind with
    | (s, .fail) => (s, a, .fail (BitVec.ofNat 64 va))
    | (s, .miss) => (s, a, .miss va dir)
    | (s, .scr) =>
      if va % 2 ^ 52 + n ≤ scr then State.xlateList s scr { a with trans := a.trans ++ [scrTrans va] } rest
      else (s, a, .fail (BitVec.ofNat 64 va))
    | (s, .hit t) => State.xlateList s scr { a with trans := a.trans ++ [t] } rest

/-- The 64 KiB pages of a range of an OINIT: first address, and a byte in each later page (R203). -/
def rangePages (va n : Nat) : List (Nat × Nat × Nat) := (pageRuns va n).map (fun (v, _) => (v, 1, 1))

/-- The addresses an access needs translated, beyond those done. A STREF needs the headers it reads (R205, R381). -/
def Access.needs (a : Access) : List (Nat × Nat × Nat) :=
  let all := match a.kind with
    | .oinit => rangePages a.va.toNat a.len
    | .wbr | .invr | .lds _ | .sts | .atoms .. => []
    | .stref =>
      (a.va.toNat, 8, 1) ::
      (match a.trans with
        | [] => []
        | t :: _ =>
          if !a.tagd || t.mtype = 5 then []
          else if t.mtype = 1 then (if a.vtag then [(a.opa.toNat, 16, 0)] else []) ++ [(a.data.toNat, 16, 0)]
          else [(a.data.toNat, 16, 0)])
    | .launch _ => [(a.va.toNat, 128, 0)]
    | _ => a.pieces.map (fun (v, n) => (v, n, a.kind.dir))
  all.drop a.trans.length

/-- Translate what is left; a STREF's headers become known once its destination is. -/
def State.xlateAccess (s : State) (a : Access) : State × Access × XStat :=
  let scr := match s.group? a.thr.uid with | some g => g.lr.scrBytes | none => 0
  match s.xlateList scr a (a.needs.take (if a.kind = .stref && a.trans.isEmpty then 1 else a.needs.length)) with
  | (s, a, .done) => s.xlateList scr a a.needs
  | r => r

/-- GSTORED is set by a store to memory other than SCR and PRIV (R72). -/
def State.noteStored (s : State) (a : Access) : State :=
  let m := a.mtype
  match a.kind with
  | .oinit | .launch _ => s.stored a.thr.uid
  | _ => if a.kind.writes && decide (m ≠ 5) && decide (m ≠ 6) then s.stored a.thr.uid else s

/-- Go on with an access in stage translate. -/
def State.translateAccess (s : State) (x : Nat) (a : Access) (retry : Instr) : State :=
  match s.xlateAccess a with
  | (s, a, .done) =>
    let a := { a with stage := .ready }
    let s := s.setItem x (.access a)
    (if a.kind = .stref || a.kind = .oinit then s else s.noteStored a).again x a
  | (s, a, .miss va dir) =>
    let s := s.setItem x (.access { a with stage := .translate })
    let w : Walk := { pkg := a.pkg, core := a.core, tenant := s.tenantId a.pkg a.leaf, leaf := a.leaf, va := va, acc := x,
                      kind := if a.kind = .pref then 0 else 1, dir := dir, force := a.force, thr := a.thr, redo := false,
                      fault := 0, failed := 0 }
    let (s, y) := s.newItem (.walk w)
    s.later (.translationWalkDone y)
  | (s, a, .fail va) =>
    if a.kind = .pref then s.dropItem x else s.failAccess x a 0x0D va retry

/-! ## Performing -/

/-- The agent of a thread. -/
def State.threadAgent (s : State) (k : TKey) (g : Group) (t : Thread) : Agent :=
  { pkg := g.pkg, core := t.place.core, uid := k.uid, share := g.shareIndex k.tidx, chain := s.chainTag g.pkg g.leaf g.lr.chain,
    tenant := g.tenant, late := false }
/-- The agent of an access. -/
def State.agentOf (s : State) (a : Access) : Agent :=
  { pkg := a.pkg, core := a.core, uid := a.thr.uid, share := a.share,
    chain := match s.group? a.thr.uid with | some g => s.chainTag a.pkg a.leaf g.lr.chain | none => 0,
    tenant := match s.group? a.thr.uid with | some g => g.tenant | none => 0, late := a.late }

/-- A trap is due at the replay of a logged access: its entry stays until the thread can take it (R86, R87). -/
def State.trapEntry (s : State) (x : Nat) (a : Access) (cause : Nat) : State :=
  ((s.modThread a.thr (fun t => { t with log := t.log.map (fun e => if e.acc = x then { e with cause := cause } else e) })).modAccess x
    (fun a => { a with stage := .logged })).later (.accessReplay a.thr.uid a.thr.tidx)

/-- A watchpoint may cover the access: a load, store or atomic of memory or scratchpad, LDREF or STREF (R277). -/
def AccKind.watchable : AccKind → Bool
  | .ld _ | .ldref | .lds _ | .kld _ | .st | .stref | .sts | .kst | .atom .. | .atoms .. => true
  | _ => false

/-- The watchpoint slots that an access fires once performed: by its address, and by its offset where it reaches scratchpad (R277). -/
def State.watchHits (s : State) (g : Group) (a : Access) : List (Nat × Bool) :=
  if !a.kind.watchable then [] else a.pieces.flatMap (fun (va, n) =>
    s.wpHits g va n a.kind.scratch a.kind.plainLoad a.kind.writes ++
      (if a.mtype = 5 && !a.kind.scratch then s.wpHits g (va % 2 ^ 52) n true a.kind.plainLoad a.kind.writes else []))

/-- The access has been performed: its reply is on its way, its log entry empties and the next replay follows (R82), and
watchpoints fire (R277); one that traps at a replay is a replay trap (R86). -/
def State.performed (s : State) (x : Nat) (f : Access → Access) : State :=
  match s.access? x with
  | none => s
  | some a =>
    let s := s.modAccess x (fun a => { f a with stage := .performed })
    let done (s : State) : State :=
      let s := match a.kind with | .launch _ => s.later (.launchEnqueue x) | _ => s.later (.accessCompletion x)
      if a.replay then
        (s.modThread a.thr (fun t => { t with log := t.log.filter (fun e => decide (e.acc ≠ x)) })).later
          (.accessReplay a.thr.uid a.thr.tidx)
      else s
    match s.group? a.thr.uid, s.thread? a.thr with
    | some g, some t =>
      match (if t.exited then [] else s.watchHits g a) with
      | [] => done s
      | (i, b) :: hs =>
        if a.replay && !s.slotsHalt g ((i, b) :: hs) then
          (s.trace g.pkg g.leaf 15 (threadName g a.thr.tidx (dieOf a.core)) i a.va.toNat).trapEntry x a 0x0B
        else (done s).slotsFire a.thr g t ((i, b) :: hs) 4 0x0B a.va.toNat a.va
    | _, _ => done s

/-- The piece of an access and its translation. -/
def Access.tr (a : Access) (i va : Nat) : Trans := if a.kind.scratch then scrTrans va else (a.trans[i]?).getD (scrTrans va)

/-- The page each piece needs, with its direction. -/
def Access.pages (a : Access) : List (Trans × Nat × Bool) :=
  if a.kind.scratch then [] else
  match a.kind with
  | .oinit => (a.trans.zip (rangePages a.va.toNat a.len)).map (fun (t, (v, _, _)) => (t, t.addr v / 65536, true))
  | .stref => match a.trans with
    | [] => []
    | t :: hs => (t, t.addr a.va.toNat / 65536, true) ::
        (hs.zip (if hs.length = 2 then [a.opa.toNat, a.data.toNat] else [a.data.toNat])).map
          (fun (u, v) => (u, u.addr v / 65536, false))
  | _ => (a.trans.zip a.pieces).map (fun (t, (v, _)) => (t, t.addr v / 65536, a.kind.writes))

/-- A page is LOST: its pod node's entry says so, found in any directory set that names it (R157, R158). -/
def State.pageLost (s : State) (g : Nat) : Bool :=
  s.pkgs.any (fun (_, p) => p.dirs.any (fun ((_, d) : Nat × DirSet) => d.entries.any (fun e =>
    match e with | some e => decide (e.gpn = g) && decide (e.dstate = 5) | none => false)))

/-- The owner of a LOST page. -/
def State.lostOwner (s : State) (g : Nat) : Option Nat :=
  s.pkgs.findSome? (fun (_, p) => p.dirs.findSome? (fun ((_, d) : Nat × DirSet) => d.entries.findSome? (fun e =>
    match e with | some e => if e.gpn = g && e.dstate = 5 then some e.owner else none | none => none)))
/-- A KIND 6 notice of a LOST page goes to its owning tenant's fault queue (R158), at a package that knows the tenant's block. -/
def State.lostNotice (s : State) (p leaf g dir va : Nat) (n : TraceName) (die : Nat) : State :=
  match s.lostOwner g with
  | none => s
  | some t =>
    if t = s.tenantId p leaf then (s.postFault p leaf 6 dir 0 va n die).1
    else match (p :: s.pkgs.map (·.1)).findSome? (fun q => (s.tenantBlock q t).map (fun (a, _) => (q, a))) with
      | some (q, a) => (s.postFault q a 6 dir 0 va n die).1
      | none => s

/-- A KLD or KST that has issued fails later: it is over, and its thread traps at its next boundary with TRAPPC naming the instruction
(R355; log entry 11). -/
def State.failK (s : State) (x : Nat) (a : Access) (cause : Nat) (va : DWord) : State :=
  let fail (t : Thread) : Thread :=
    let t := { t with engFail := t.engFail ++ [(⟨false, cause, va, some a.ipc⟩ : EngFail)] }
    let t := match a.kind with | .kld n => { t with kpend := eraseNat t.kpend n } | _ => t
    t.doneOut x
  ((s.modThread a.thr (fun t => if t.exited then t else fail t)).dropItem x).later (.engineFailureTrap a.thr.uid a.thr.tidx)

/-- A page lost for an access: it fails with CAUSE 0x09 and a KIND 6 notice goes to the owning tenant (R158, R355). -/
def State.lostAccess (s : State) (x : Nat) (a : Access) (pg va : Nat) (retry : Instr) : State :=
  match s.group? a.thr.uid with
  | none => s.dropItem x
  | some g =>
    let note (s : State) : State :=
      s.lostNotice a.pkg a.leaf pg a.kind.dir va (threadName g a.thr.tidx (dieOf a.core)) (dieOf a.core)
    if a.kind.uniform then (note s).failK x a 0x09 (BitVec.ofNat 64 va)
    else match s.logAccess x a 0 3 0x09 (BitVec.ofNat 64 va) with
    | none => (s.logStall a.thr).later retry
    | some s => note s

/-- Load bytes of every piece, the thread's own waiting stores laid over them. -/
def State.loadPieces (s : State) (x : Nat) (a : Access) : State × List Byte :=
  (a.pieces.zipIdx).foldl (fun (s, bs) ((va, n), i) =>
    let (s, b) := s.readLine (s.agentOf a) (a.tr i va) va n
    (s, bs ++ s.overlay x a i va b)) (s, [])

/-- Store the data of every piece. -/
def State.storePieces (s : State) (a : Access) : State :=
  (a.pieces.zipIdx).foldl (fun s ((va, n), i) =>
    s.writeLine (s.agentOf a) (a.tr i va) va (leBytes n (if i = 1 then a.data.toNat / 2 ^ 32 else a.data.toNat))) s

/-! ## References (R200, R205) -/

/-- A read of a page's line by the part for an agent: the frame is used (R139, R140). -/
def State.notePageRead (s : State) (a : Agent) (t : Trans) (ga : Nat) : State :=
  s.touchLine a t ga false
/-- The header at an address of a translation, read at its home slice for an agent: its two words. -/
def State.header (s : State) (a : Agent) (t : Trans) (va : Nat) : State × Nat × Nat :=
  let s := s.notePageRead a t (t.addr va)
  let (s, a) := s.homeRead (t.addr va) 8
  let (s, b) := s.homeRead (t.addr va + 8) 8
  (s, leNat a, leNat b)
def hdrLen (h : Nat) : Nat := bitsOf h 63 32
def hdrState (h : Nat) : Nat := bitsOf h 15 14
def hdrScope (h : Nat) : Nat := bitsOf h 13 11
/-- A header is valid (R200). -/
def hdrValid (h h8 : Nat) : Bool :=
  decide (hdrState h ≠ 3) && decide (h % 2 ^ 11 = 0) && decide (h8 % 2 ^ 46 = 0) &&
  (if hdrState h = 0 then decide (hdrScope h = 0) else decide (1 ≤ hdrScope h ∧ hdrScope h ≤ 4))
/-- What the checks of R205 decide. -/
inductive RefRes where
  | store
  | wait (ga : Nat)
  | trap (cause : Nat)
  /-- a header fails its check (R292) -/
  | bad
  deriving DecidableEq, Repr

/-- The checks of a STREF, in order (R205). `off` is the distance of its address from the header at pair vb. -/
def State.strefCheck (s : State) (a : Access) : State × RefRes :=
  if !a.tagd then (s, .trap 0x07)
  else if a.va.toNat % 8 ≠ 0 then (s, .trap 0x04)
  else match a.trans with
    | [] => (s, .store)
    | t :: hs =>
      if t.mtype = 5 then (s, .store)
      else if t.mtype = 1 then
        if !a.vtag then (s, .trap 0x07)
        else match hs with
          | td :: ts :: _ =>
            if s.mismatched (s.agentOf a) td a.opa.toNat then (s, .bad) else
            let (s, d, d8) := s.header (s.agentOf a) td a.opa.toNat
            let dv := s.liveHeader d d8
            if hdrState dv = 1 then (s, .wait (td.addr a.opa.toNat))
            else
              let off : Int := (a.va.toNat : Int) - a.opa.toNat
              if !hdrValid dv d8 || decide (off < 16) || decide ((16 : Int) + hdrLen dv < off + 8) then (s, .trap 0x07)
              else if s.mismatched (s.agentOf a) ts a.data.toNat then (s, .bad)
              else
                let (s, r, r8) := s.header (s.agentOf a) ts a.data.toNat
                let sv := s.liveHeader r r8
                if hdrState sv = 1 then (s, .wait (ts.addr a.data.toNat))
                else if !hdrValid sv r8 then (s, .trap 0x07)
                else if hdrState dv = 2 && (decide (hdrState sv = 0) || decide (hdrScope sv < hdrScope dv)) then (s, .trap 0x06)
                else (s, .store)
          | _ => (s, .trap 0x07)
      else match hs with
        | ts :: _ =>
          if s.mismatched (s.agentOf a) ts a.data.toNat then (s, .bad) else
          let (s, r, r8) := s.header (s.agentOf a) ts a.data.toNat
          let sv := s.liveHeader r r8
          if hdrState sv = 1 then (s, .wait (ts.addr a.data.toNat))
          else if !hdrValid sv r8 then (s, .trap 0x07)
          else if hdrState sv = 0 then (s, .trap 0x06)
          else (s, .store)
        | [] => (s, .trap 0x07)

/-- Mint a header, clear the tags of the object's words and set VIS (R203, R207). -/
def State.mint (s : State) (a : Access) : State :=
  let gaOf (va : Nat) : Nat :=
    match (a.trans.zip (rangePages a.va.toNat a.len)).find? (fun (_, (v, _, _)) => decide (v / 65536 = va / 65536)) with
    | some (t, _) => t.addr va
    | none => 0
  let x := a.va.toNat
  let s := (a.trans.zip (rangePages a.va.toNat a.len)).foldl (fun s (t, (v, _, _)) => s.notePageWrite (s.agentOf a) t (t.addr v)) s
  let s := s.homeWrite (gaOf x) (leBytes 8 (a.data.toNat * 2 ^ 32))
  let s := s.homeWrite (gaOf (x + 8)) (leBytes 8 0)
  (List.range ((x % 128 + a.len + 127) / 128)).foldl (fun s i =>
    let lo := max x (x / 128 * 128 + 128 * i)
    let hi := min (x + a.len) (x / 128 * 128 + 128 * i + 128)
    let ga := gaOf lo
    let s := s.clearTags ga (hi - lo)
    let vis := (s.lineMeta ga).vis
    let v := if hi - lo = 128 then 0 else if vis = 2 || vis = 3 then 3 else vis
    if v = vis then s else s.modMeta ga (fun m => { m with vis := v })) s

/-! ## Range write-back (R173, R352, R396) -/

/-- The lines of one page's part of a range, from the die's L1s, buffers and proxies to the true home; INVR drops them. A write-back on its
way brings nothing more: the range operation has carried its bytes on. -/
def State.rangeLines (s : State) (p d ga n : Nat) (drop : Bool) : State :=
  let inR (g : Nat) : Bool := decide (lineBase ga ≤ g) && decide (g < ga + n)
  let s := s.wbs.foldl (fun s (x, w) =>
    if decide (w.pkg = p) && decide (dieOf w.core = d) && decide (w.mtype = 2) && inR w.ga then
      let n := ((List.range 128).filter (fun i => (w.mask &&& wordsMask w.fresh).getLsbD i)).length
      let s := if decide (s.homeAt p d 2 w.ga = .mem) then s.count p (2, 4) (homeSlice w.ga) n else s
      (s.wbMerge x w (~~~0)).wbKill 2 p d w.ga (~~~0) s.nextId
    else s) s
  let lines := (s.pkgD p).cores.flatMap (fun ((c, k) : Nat × Core) =>
    if dieOf c = d then (k.l1.filter (fun l => decide (l.mtype = 2) && inR l.ga)).map (fun l => (c, l)) else [])
  let s := lines.foldl (fun s (c, l) =>
    let direct := decide (s.homeAt p d 2 l.ga = .mem)
    let bytes := ((List.range 128).filter (fun i => (l.carried (l.owned &&& l.dirty)).getLsbD i)).length
    let s := if direct then s.count p (2, 4) (homeSlice l.ga) bytes else s
    let s := s.l1Recall p c l (~~~0) false
    if drop then s.modCore p c (fun k => k.l1Drop l.ga) else s) s
  let prox := (s.pkgD p).slices.filter (fun l => decide (l.kind = 1) && decide (l.slice / 32 = d) && inR l.ga)
  prox.foldl (fun s l =>
    let bytes := ((List.range 128).filter (fun i => l.dirty.getLsbD i)).length
    let s := (s.proxyFlush p l).count p (2, 4) l.slice bytes
    if drop then s.modPkg p (fun q => q.dropSlice l.slice l.ga 1) else s) s

/-- A mismatch in data that a thread or an engine consumes is fatal for its domain, with CAUSE 0x00 (R292). -/
def State.integrityFail (s : State) (k : TKey) (core : Nat) : State :=
  match s.group? k.uid with
  | some g => s.freeze g.pkg g.leaf 0x00 (threadName g k.tidx (dieOf core)) (dieOf core)
  | none => s

/-- A page that WBR and INVR skip: nothing holds it, neither a package nor the backing area, or it is LOST (R144, R157, R173). -/
def State.rangeSkips (s : State) (g : Nat) : Bool := ((s.masterOf g).isNone && (s.backedAt g).isNone) || s.pageLost g

/-- WBR and INVR over a range: every page with a valid translation and type SWM (R173). A page of the tables or of the range that lies
elsewhere, in the backing area too, is waited for; then the whole range is gone over again. Answers whether it is done. -/
def State.rangeOp (s : State) (x : Nat) (a : Access) (drop : Bool) : State × Bool :=
  (rangePages a.va.toNat a.len).foldl (fun (s, ok) (va, _, _) =>
    if !ok then (s, ok) else
    let n := min (a.va.toNat + a.len) (va / 65536 * 65536 + 65536) - va
    let (s, r) := match s.tlbFind a.pkg a.core (s.tenantId a.pkg a.leaf) va with
      | some t => (s, WalkRes.ok t)
      | none => s.walk a.pkg (dieOf a.core) a.leaf va 0
    match r with
    | .fault => (s, true)
    | .bad => (s.integrityFail a.thr a.core, false)
    | .page g w =>
      if s.rangeSkips g then (s, true)
      else (s.needPage a.pkg x a.leaf (s.tenantId a.pkg a.leaf) 0 0 0 g va false w false, false)
    | .ok t =>
      if t.mtype ≠ 2 then (s, true)
      else if s.rangeSkips (t.addr va / 65536) then (s, true)
      else if !s.pageReady a.pkg 2 0 (t.addr va / 65536) true then
        (s.needPage a.pkg x a.leaf (s.tenantId a.pkg a.leaf) 2 0 t.cmp (t.addr va / 65536) va t.side true false, false)
      else (s.rangeLines a.pkg (dieOf a.core) (t.addr va) n drop, true)) (s, true)

/-! ## One attempt to perform -/

/-- A trap that a deferred access raises at its replay (R86, R87): TRAPPC is the next instruction to issue, the entry goes to the
trap frame, the entry and the pending mark are cleared; the access is over. TRAPVA is the access's address; of two private words each
is its own access, and it is the one that failed (R361). -/
def State.replayTrap (s : State) (x : Nat) (a : Access) (cause : Nat) (frame : LogEntry → Thread → State → Option State) : State :=
  match s.thread? a.thr with
  | none => s.dropItem x
  | some t =>
    match t.log.find? (fun e => decide (e.acc = x)) with
    | none => s.failAccess x a cause a.va (a.kind.event x)
    | some e =>
      let clear (s : State) : State :=
        let s := s.modThread a.thr (fun t =>
          let t := { t with log := t.log.filter (fun q => decide (q.acc ≠ x)), kpend := match a.kind with
                                                                                         | .kld n => eraseNat t.kpend n
                                                                                         | _ => t.kpend }
          (a.dests.foldl Thread.unmark t).doneOut x)
        (s.dropItem x).later (.accessReplay a.thr.uid a.thr.tidx)
      let s := if cause = 0x06 then s.tally a.pkg 27 else s
      let pc := match s.group? a.thr.uid with | some g => s.nextPc a.thr g t | none => t.pc
      s.takeTrap a.thr (trapcOf cause false true e.ix) pc (if a.kind.two then e.va else a.va) (fun s => (frame e t s).map clear)

/-- Where and how the 64 bytes of a log entry lie in the trap frame (R81, R87): words 16·depth to 16·depth + 15. -/
def LogEntry.bytes (e : LogEntry) : List Byte :=
  leBytes 8 (e.faultId * 2 ^ 48 + e.lstate * 2 ^ 46 + e.dreg % 512 * 2 ^ 37 + e.word.toNat) ++
  leBytes 8 (e.ipc.toNat % 2 ^ 56 / 4 * 4) ++ leBytes 8 e.opa.toNat ++ leBytes 8 e.opb.toNat ++ leBytes 8 e.opc.toNat ++
  leBytes 8 e.va.toNat ++ leBytes 8 (e.pmask.toNat + e.iter % 2 ^ 32 * 256) ++ leBytes 8 0

/-- The virtual address of private word w of a thread (R132). -/
def Group.privVa (g : Group) (t w : Nat) : Nat :=
  ((g.lr.pbase g.gidx : Nat) + (w * g.lr.threads + t) * 4) % 2 ^ 64

/-- The translation of an address of the trap frame: cached, or by a walk. -/
def State.frameTrans (s : State) (g : Group) (t : Thread) (va : Nat) : State × WalkRes :=
  match s.xlate g.pkg t.place.core g.leaf va 1 .priv with
  | (s, .hit tr) => (s, .ok tr)
  | (s, .miss) => s.walk g.pkg (dieOf t.place.core) g.leaf va 1
  | (s, _) => (s, .fault)

/-- The addresses of the words of the trap frame that a thread's next trap writes (R87, R132). -/
def Thread.frameVas (t : Thread) (k : TKey) (g : Group) : List Nat := (List.range 16).map (fun i => g.privVa k.tidx (16 * t.depth + i))

/-- The first address of the trap frame that is translated but whose page, or a table page of its walk, must come here first. -/
def State.frameAway (s : State) (g : Group) (t : Thread) : List Nat → State × Option Nat
  | [] => (s, none)
  | va :: vas => match s.frameTrans g t va with
    | (s, .ok tr) =>
      if s.pageReady g.pkg tr.mtype tr.peer (tr.addr va / 65536) true then State.frameAway s g t vas else (s, some va)
    | (s, .page _ _) | (s, .bad) => (s, some va)
    | (s, .fault) => (s, none)

/-- Write an entry to the trap frame in private memory; a translation miss makes it fail (R87, step 4). -/
def State.writeFrame (s : State) (k : TKey) (e : LogEntry) (t : Thread) : Option State :=
  match s.group? k.uid with
  | none => none
  | some g =>
    let ag := s.threadAgent k g t
    ((t.frameVas k g).zipIdx).foldl (fun (o : Option State) (va, i) =>
      match o with
      | none => none
      | some s => match s.frameTrans g t va with
        | (s, .ok tr) =>
          if s.pageReady g.pkg tr.mtype tr.peer (tr.addr va / 65536) true then
            some (s.writeLine ag tr va ((e.bytes.drop (4 * i)).take 4))
          else none
        | _ => none) (some s)

/-- The trap of a deferred access, with its frame. It waits while a page of the frame comes here; a frame that cannot be translated
is fatal (R87, step 4). -/
def State.deferredTrap (s : State) (x : Nat) (a : Access) (cause : Nat) : State :=
  match s.group? a.thr.uid, s.thread? a.thr with
  | some g, some t =>
    match s.walks.find? (fun (_, w) => decide (w.acc = x) && decide (w.kind = 6)) with
    | some (y, w) => if w.failed = 0 then s else (s.dropItem y).replayTrap x a cause (fun _ _ _ => none)
    | none =>
      if s.effTrapvec g.pkg g.leaf = 0 || decide (2 ≤ t.depth) then s.replayTrap x a cause (fun _ _ _ => none)
      else match s.frameAway g t (t.frameVas a.thr g) with
        | (s, none) => s.replayTrap x a cause (fun e t s => s.writeFrame a.thr e t)
        | (s, some va) =>
          let (s, y) := s.newItem (.walk { pkg := a.pkg, core := a.core, tenant := s.tenantId a.pkg a.leaf, leaf := a.leaf, va := va,
                                           acc := x, kind := 6, dir := 1, force := false, thr := a.thr, redo := false, fault := 0,
                                           failed := 0 })
          s.later (.translationWalkDone y)
  | _, _ => s.dropItem x

/-- The walk for a trap frame has ended: the deferred access that traps goes on. -/
def State.frameWake (s : State) (w : Walk) : State :=
  match s.access? w.acc with
  | none => s
  | some a => s.later (.accessReplay a.thr.uid a.thr.tidx)

/-- An access consumes data with a mismatch: words that its L1 holds are good (R292). -/
def State.consumesBad (s : State) (a : Access) : Bool :=
  let ag := s.agentOf a
  a.kind.reads && !a.kind.scratch && (a.pieces.zipIdx).any (fun ((va, n), i) =>
    let t := a.tr i va
    s.mismatched ag t va &&
      !(decide (t.mtype ≠ 4) && !s.uncached a.pkg t (t.addr va / 65536) && (s.l1Read a.pkg a.core (t.addr va) n).isSome))

/-- PREF is dropped without effect: its type is HOST, SCR or PRIV or the page is memory-side, nothing holds the page, or it is LOST
(R371). -/
def State.prefDropped (s : State) (a : Access) : Bool :=
  decide (a.kind = .pref) && a.pages.any (fun (t, pg, _) =>
    decide (t.mtype = 4 ∨ t.mtype = 5 ∨ t.mtype = 6) ||
    (!s.pageReady a.pkg t.mtype t.peer pg false && (s.masterOf pg).isNone) || (s.memorySideAt pg).isSome || s.pageLost pg)

/-- A checked STREF that has not stored yet names a header, at a home address, as destination or as reference: a publication walk does
not enter that object before the store (R205, R210; log entry 117). -/
def State.refPending (s : State) (ga : Nat) : Bool :=
  s.accesses.any (fun (_, a) => decide (a.kind = .stref) && a.checked && a.unperformed &&
    ((a.trans.drop 1).zip (if a.trans.length = 3 then [a.opa.toNat, a.data.toNat] else [a.data.toNat])).any
      (fun (t, v) => decide (t.addr v = ga)))

/-- One attempt to perform an access that is translated: it waits for kept pairs, closes a release phase, asks for pages, and
then takes effect. -/
def State.tryAccess (s : State) (x : Nat) : State :=
  match s.access? x with
  | none => s
  | some a =>
    if a.stage ≠ .ready && a.stage ≠ .forwarded then s
    else match s.group? a.thr.uid with
      | none => s.dropItem x
      | some g =>
        if !s.mayPerform x a then s.again x a
        else if a.releases && closesPhase a.scope g && a.closed.isNone then
          let s := if a.stalled then s else s.countStall a.pkg a.core
          let (s, n) := s.closePhase a.pkg a.core
          (s.modAccess x (fun a => { a with closed := n, stalled := true, epoch := (s.coreOf a.pkg a.core).epoch })).again x a
        else if !s.phaseDone a.pkg a.core a.closed then s.again x a
        else if s.prefDropped a then s.dropItem x
        else match a.pages.find? (fun (t, pg, w) => !s.pageReady a.pkg t.mtype t.peer pg w) with
          | some (t, pg, w) =>
            let va := match (a.trans.zip a.pieces).find? (fun (u, (v, _)) => decide (u.addr v / 65536 = pg)) with
              | some (_, (v, _)) => v | none => a.va.toNat
            if s.walks.any (fun (_, w) => decide (w.kind = 7) && decide (w.acc = x)) then s
            else if s.pageLost pg then s.lostAccess x a pg va (a.kind.event x)
            else
              let tenant := s.tenantId a.pkg a.leaf
              ((s.needPage a.pkg x a.leaf tenant t.mtype t.peer t.cmp pg va t.side w a.force).modAccess x (fun a => { a with late := true })).again x a
          | none =>
            if s.consumesBad a then s.integrityFail a.thr a.core else
            match a.kind with
            | .ld _ | .lds _ | .ldpv _ | .kld _ | .refill =>
              let (s, bs) := s.loadPieces x a
              s.performed x (fun a => { a with value := BitVec.ofNat 64 (leNat bs) })
            | .ldref =>
              let (s, bs) := s.loadPieces x a
              let t := a.tr 0 a.va.toNat
              let tg := decide (t.mtype = 1) && s.tagSeen x a (t.addr a.va.toNat)
              s.performed x (fun a => { a with value := BitVec.ofNat 64 (leNat bs), vtag := tg })
            | .launch _ =>
              let (s, bs) := s.readLine (s.agentOf a) (a.tr 0 a.va.toNat) a.va.toNat 128
              s.performed x (fun a => { a with line := lineOfBytes 0 bs })
            | .pref =>
              let t := a.tr 0 a.va.toNat
              let ga := t.addr a.va.toNat
              let s := s.dropItem x
              if t.policy = 1 then s.slicePass a.pkg ga (s.agentOf a).chain false
              else (s.readLine (s.agentOf a) t a.va.toNat 1).1
            | .st | .sts | .stpv _ | .kst | .spill => (s.storePieces a).performed x id
            | .stref =>
              match (if a.checked then (s, RefRes.store) else s.strefCheck a) with
              | (s, .bad) => s.integrityFail a.thr a.core
              | (s, .wait ga) => (s.modAccess x (fun a => { a with hdr := some ga })).again x a
              | (s, .trap c) =>
                if a.replay then s.trapEntry x a c else s.failAccess x a c a.va (.ownershipRequest x)
              | (s, .store) =>
                let s := (s.storePieces a).noteStored a
                let t := a.tr 0 a.va.toNat
                let s := if t.mtype = 1 then s.setTag (t.addr a.va.toNat) true else s
                s.performed x id
            | .oinit =>
              if a.trans.all (fun t => decide (t.mtype = 1)) then ((s.mint a).noteStored a).performed x id
              else if a.replay then s.trapEntry x a 0x07 else s.failAccess x a 0x07 a.va (.ownershipRequest x)
            | .atom op _ | .atoms op _ =>
              let (s, o, fl) := s.atomLine (s.agentOf a) (a.tr 0 a.va.toNat) a.va.toNat op a.size a.rm.toNat a.data a.data2
              s.performed x (fun a => { a with value := o, flags := BitVec.ofNat 32 fl })
            | .wbr | .invr =>
              match s.rangeOp x a (decide (a.kind = .invr)) with
              | (s, true) => s.performed x id
              | (s, false) => s.again x a
            | .fetch => s.dropItem x

/-- A write that leaves the core: an atomic, or a store that its L1 does not hold (R174). -/
def State.leavesCore (s : State) (a : Access) : Bool :=
  a.kind.writes && !a.kind.scratch &&
  (match a.kind with
    | .atom .. | .oinit => true
    | _ => a.pieces.zipIdx.any (fun ((va, _), i) =>
        let t := a.tr i va
        decide (t.mtype = 4) || (decide (t.mtype ≠ 5) && s.uncached a.pkg t (t.addr va / 65536))))

/-- A release whose phase is still to be closed: its write leaves the core after that, with a later epoch (R174, R175). -/
def State.closesLater (s : State) (a : Access) : Bool :=
  a.releases && a.closed.isNone && (match s.group? a.thr.uid with | some g => closesPhase a.scope g | none => false)

/-- A write tagged with an epoch of a core is on its way (R174): a write-back, or a write of a thread that has left the core, its kept
pairs done, and has not reached its home. -/
def State.epochOpen (s : State) (p c e : Nat) : Bool :=
  s.wbs.any (fun (_, w) => decide (w.pkg = p) && decide ((c, e) ∈ w.tags)) ||
  s.accesses.any (fun (x, a) => decide (a.pkg = p) && decide (a.core = c) && decide (a.epoch = e) &&
    (decide (a.stage = .ready) || decide (a.stage = .forwarded)) && s.leavesCore a && s.mayPerform x a && !s.closesLater a)

/-- At issue: plain loads from scratchpad, loads whose words the L1 already holds, and scratchpad accesses that a watchpoint holds their
thread for (R277) are performed at once where their order allows; the others wait for their event. -/
def State.startAccess (s : State) (x : Nat) : State :=
  match s.access? x with
  | none => s
  | some a =>
    let held : Bool := match s.thread? a.thr with | some t => decide (t.wait = .watched x) | none => false
    let hit := (decide (a.mtype = 5) && held) || a.kind.plainLoad && (a.mtype = 5 || a.pieces.zipIdx.all (fun ((va, n), i) =>
      let t := a.tr i va
      decide (t.mtype ≠ 4) && s.pageReady a.pkg t.mtype t.peer (t.addr va / 65536) false &&
        !s.uncached a.pkg t (t.addr va / 65536) && (s.l1Read a.pkg a.core (t.addr va) n).isSome))
    if hit && s.mayPerform x a && !a.releases then s.tryAccess x else s.again x a

/-! ## Issue (R42, R81, R82) -/

/-- An access that takes part in the log (R81, R355, R371). -/
def AccKind.defers (k : AccKind) : Bool :=
  match k with | .lds _ | .sts | .atoms .. | .kld _ | .kst | .pref | .wbr | .invr | .fetch => false | _ => true

/-- Hold the issuing thread of an access that a watchpoint covers until it has been performed (R277). One that can be performed now
stops its group at once where the slot halts it: no further bundle of the group issues (R414). -/
def State.watchHold (s : State) (k : TKey) (g : Group) (x : Nat) (a : Access) : State :=
  match s.watchHits g a with
  | [] => s
  | hits =>
    let s := s.stay k (.watched x)
    if decide (a.stage = .ready) && s.slotsHalt g hits && a.pages.all (fun (t, pg, w) => s.pageReady a.pkg t.mtype t.peer pg w) then
      s.requestStop k.uid 4 (some k.tidx) k.tidx none
    else s

/-- Issue an access: the counter of its class, the page rule of the log, translation; then the thread goes on, unless the access
belongs to a CALL or RET (R39). `mark` marks its destination pending. -/
def State.issueAccess (s : State) (k : TKey) (g : Group) (t : Thread) (a : Access) (retire : Bool)
    (mark : Thread → Thread) : State :=
  let full := t.freeIx.isNone
  let cntFull := match a.kind.cls with | some c => if 63 ≤ t.cnt c then some c else none | none => none
  match cntFull with
  | some c => s.stay k (.counter c.num)
  | none =>
    let go (s : State) (x : Nat) : State :=
      let f (t : Thread) : Thread :=
        let t := mark (match a.kind.cls with | some c => t.addOut c x | none => t)
        if retire then t.next else { t with wait := .held }
      (s.modThread k f).watchHold k g x a
    match (if a.kind.defers then t.behind s.nextId a else none) with
    | some (e, va) =>
      if full then s.stay k .logFull
      else
        let (s, x) := s.newItem (.access a)
        go ((s.logBehind x a e va).getD s) x
    | none =>
      match s.xlateAccess a with
      | (s, a, .fail va) =>
        if a.kind = .pref then s.retire k id
        else if full then s.stay k .logFull
        else let (s, x) := s.newItem (.access a); go (s.failAccess x a 0x0D va .nop) x
      | (s, a, .miss va _) =>
        if s.missFull g.pkg (clusterOf t.place.core) g.tenant va then s.stay k (.missing va) else
        let (s, x) := s.newItem (.access { a with stage := .translate })
        go (s.translateAccess x a .nop) x
      | (s, a, .done) =>
        let a := { a with stage := .ready }
        let (s, x) := s.newItem (.access a)
        (go (s.noteStored a) x).startAccess x

end Sys2Proof.Machine
end

