-- ==== Sys2Proof/Machine/LoadStore.lean ====
section
/-! DEFINITION. Load, store, atomic, uniform-register, object, launch and range instructions as they issue (R309 to R312, R352,
R355, R357 to R361, R368, R371, R379 to R383, R396). -/

namespace Sys2Proof

/-- The size and register count of a load kind (R358). -/
def LdKind.bytes : LdKind → Nat | .s8 | .z8 => 1 | .s16 | .z16 => 2 | .s32 | .z32 => 4 | .d64 => 8
def LdKind.regs : LdKind → Nat | .d64 => 2 | _ => 1
def StKind.bytes : StKind → Nat | .b1 => 1 | .b2 => 2 | .b4 => 4 | .b8 => 8
def StKind.regs : StKind → Nat | .b8 => 2 | _ => 1
def Width.bytes : Width → Nat | .w32 => 4 | .w64 => 8
def Width.regs : Width → Nat | .w32 => 1 | .w64 => 2
def Width.ld : Width → LdKind | .w32 => .s32 | .w64 => .d64

/-- Registers field d spans. -/
def AtomOp.span : AtomOp → Nat
  | .cas64 => 4
  | .cas32 | .add64 | .minS64 | .minZ64 | .maxS64 | .maxZ64 | .xchg64 => 2
  | _ => 1
end Sys2Proof

namespace Sys2Proof.Machine

/-- An access of the issuing thread, before its operands are filled in. -/
def State.newAccess (s : State) (k : TKey) (g : Group) (t : Thread) (kind : AccKind) (size : Nat) (va : DWord) : Access :=
  { thr := k, pkg := g.pkg, core := t.place.core, share := g.shareIndex k.tidx, leaf := g.leaf,
    atype := if kind.scratch then 5 else knownType (s.attr g.pkg (dieOf t.place.core) g.leaf va.toNat).2, kind := kind, size := size, va := va,
    va2 := 0, len := 0, data := 0, data2 := 0, dreg := 0, tagd := false, order := .rlx, scope := .grp, rm := t.fmode,
    word := s.fetched, ipc := t.pc, opa := va, pmask := t.rdP 0, iter := (t.rep.map (·.i)).getD 0,
    epoch := (s.coreOf g.pkg t.place.core).epoch, stage := .translate, trans := [], value := 0, line := 0, vtag := false,
    flags := 0, closed := none, stalled := false, replay := false, force := false, late := false, checked := false,
    hdr := none }

/-- An ordered access waits for an empty operand log (R82). -/
def ordered (s : State) (k : TKey) (t : Thread) (body : State) : State :=
  if s.logEmpty k t then body else s.stay k .logEmpty

/-- A naturally aligned address, or a misalignment trap (R359). -/
def aligned (s : State) (k : TKey) (ea : DWord) (n : Nat) (body : State) : State :=
  if ea.toNat % n = 0 then body else s.trapAt k 0x04 ea

/-- Mark destination registers pending (R24). -/
def markRegs (d n : Nat) (t : Thread) : Thread := (List.range n).foldl (fun t i => t.mark (d + i)) t

/-- Data of n registers. -/
def Thread.rdData (t : Thread) (r n : Nat) : DWord := if n = 2 then t.rd64 r else (t.rd r).setWidth 64

/-- The address of a relaxed memory form: pair base + size × off9 (R359). -/
def Thread.ea (t : Thread) (b : Nat) (o : BitVec 9) (size : Nat) : DWord :=
  t.rd64 b + o.signExtend 64 * BitVec.ofNat 64 size

/-- A load to memory at an address (R359). -/
def issueLoad (s : State) (k : TKey) (g : Group) (t : Thread) (kind : AccKind) (size regs d : Nat) (base ea : DWord)
    (ord : Order) (sc : Scope) : State :=
  aligned s k ea size
    (let a := s.newAccess k g t kind size ea
     s.issueAccess k g t { a with dreg := t.abs d, order := ord, scope := sc, opa := base } true (markRegs (t.abs d) regs))

/-- LD (R359). -/
def execLd (kd : LdKind) (d b : Nat) (o : BitVec 9) (s : State) : Out :=
  governed s [(d, kd.regs), (b, 2)] (fun k g t =>
    issueLoad s k g t (.ld kd) kd.bytes kd.regs d (t.rd64 b) (t.ea b o kd.bytes) .rlx .grp)
/-- LDREF (R204, R359). -/
def execLdref (d b : Nat) (o : BitVec 9) (s : State) : Out :=
  governed s [(d, 2), (b, 2)] (fun k g t => issueLoad s k g t .ldref 8 2 d (t.rd64 b) (t.ea b o 8) .rlx .grp)
/-- LD.ACQ (R359). -/
def execLdAcq (w : Width) (d a : Nat) (sc : Scope) (s : State) : Out :=
  governed s [(d, w.regs), (a, 2)] (fun k g t => ordered s k t
    (issueLoad s k g t (.ld w.ld) w.bytes w.regs d (t.rd64 a) (t.rd64 a) .acq sc))
/-- LDREF.ACQ (R204, R359). -/
def execLdrefAcq (d a : Nat) (sc : Scope) (s : State) : Out :=
  governed s [(d, 2), (a, 2)] (fun k g t => ordered s k t (issueLoad s k g t .ldref 8 2 d (t.rd64 a) (t.rd64 a) .acq sc))

/-- A store to memory at an address (R380). -/
def issueStore (s : State) (k : TKey) (g : Group) (t : Thread) (size regs r : Nat) (base ea : DWord) (ord : Order)
    (sc : Scope) : State :=
  aligned s k ea size
    (let a := s.newAccess k g t .st size ea
     s.issueAccess k g t { a with data := t.rdData r regs, order := ord, scope := sc, opa := base } true id)
/-- ST (R380). -/
def execSt (kd : StKind) (r b : Nat) (o : BitVec 9) (s : State) : Out :=
  governed s [(r, kd.regs), (b, 2)] (fun k g t =>
    issueStore s k g t kd.bytes kd.regs r (t.rd64 b) (t.ea b o kd.bytes) .rlx .grp)
/-- ST.REL of 32 bits (R380). -/
def execStRel32 (d a : Nat) (sc : Scope) (s : State) : Out :=
  governed s [(d, 1), (a, 2)] (fun k g t => ordered s k t (issueStore s k g t 4 1 d (t.rd64 a) (t.rd64 a) .rel sc))
/-- ST.REL of 64 bits (R380). -/
def execStRel64 (d a : Nat) (sc : Scope) (s : State) : Out :=
  governed s [(d, 2), (a, 2)] (fun k g t => ordered s k t (issueStore s k g t 8 2 d (t.rd64 a) (t.rd64 a) .rel sc))

/-- Hold the thread until a page of an address is translated and here (R355, R381): a walk that it waits for. -/
def State.holdWalk (s : State) (k : TKey) (a : Access) (kind va dir : Nat) : State :=
  let w : Walk := { pkg := a.pkg, core := a.core, tenant := s.tenantId a.pkg a.leaf, leaf := a.leaf, va := va, acc := 0,
                    kind := kind, dir := dir, force := false, thr := k, redo := false, fault := 0, failed := 0 }
  let (s, y) := s.newItem (.walk w)
  (s.later (.translationWalkDone y)).stay k .held

/-- A thread's walk of a kind for the page of an address that has failed (R84): its number and itself. -/
def State.failedWalk (s : State) (k : TKey) (kind va : Nat) : Option (Nat × Walk) :=
  s.walks.find? (fun (_, w) => decide (w.thr = k) && decide (w.kind = kind) && decide (w.failed ≠ 0) &&
    decide (w.va / 65536 = va / 65536))

/-- A held thread's walk that has posted or failed, for one of the addresses its instruction needs: its number and itself (R81,
R381). -/
def State.heldWalk (s : State) (k : TKey) (vs : List Nat) : Option (Nat × Walk) :=
  s.walks.find? (fun (_, w) => decide (w.thr = k) && decide (w.kind = 5) && vs.any (fun v => decide (v / 65536 = w.va / 65536)))

/-- Issue an access that translates every address it needs before it checks anything: a TLB miss holds the thread for the walk, one still
under way too; a walk that posts defers the whole instruction as a store (R81, R203, R381). `fails` answers an address that cannot be
translated, `check` goes on once all are translated. -/
def issueChecked (s : State) (k : TKey) (g : Group) (t : Thread) (a : Access) (mark : Thread → Thread)
    (fails : State → DWord → State) (check : State → Access → State) : State :=
  if (t.behind s.nextId a).isSome || decide (63 ≤ t.cnt .store) then s.issueAccess k g t a true mark
  else match s.heldWalk k a.vas with
    | some (y, w) =>
      if w.open_ then s.stay k .held
      else if t.freeIx.isNone then s.stay k .logFull
      else
        let s := s.dropItem y
        let (s, x) := s.newItem (.access a)
        let s := (s.logIt x a w.fault (if w.failed = 0 then 1 else 3) w.failed (BitVec.ofNat 64 w.va)).getD s
        s.retire k (fun t => mark (t.addOut .store x))
    | none =>
      match s.xlateAccess a with
      | (s, _, .fail va) => fails s va
      | (s, a, .miss va dir) => s.holdWalk k a 5 va dir
      | (s, a1, .done) => check s a1

/-- STREF (R205, R381): when every translation hits, the checks run at issue; a miss that posts defers the whole STREF. -/
def issueStref (s : State) (k : TKey) (g : Group) (t : Thread) (r b : Nat) (ea : DWord) (ord : Order) (sc : Scope) : State :=
  let a := s.newAccess k g t .stref 8 ea
  let a := { a with data := t.rd64 r, tagd := t.tag r, vtag := t.tag b, opa := t.rd64 b, order := ord, scope := sc }
  issueChecked s k g t a id (fun s _ => s.issueAccess k g t a true id) (fun s a1 =>
    match a1.pages.find? (fun (u, pg, w) => !w && !s.pageReady a1.pkg u.mtype u.peer pg false) with
    | some (u, pg, _) => s.holdWalk k a 5 (u.base + (pg * 65536 - u.ga)) 0
    | none =>
      match s.strefCheck a1 with
      | (s, .bad) => s.integrityFail k t.place.core
      | (s, .wait ga) => s.stay k (.header ga)
      | (s, .trap c) => (if c = 0x06 then s.tally g.pkg 27 else s).trapAt k c ea
      | (s, .store) => s.issueAccess k g t { a with checked := true } true id)

/-- STREF (R381). -/
def execStref (r b : Nat) (o : BitVec 9) (s : State) : Out :=
  governed s [(r, 2), (b, 2)] (fun k g t => issueStref s k g t r b (t.ea b o 8) .rlx .grp)
/-- STREF.REL (R381): without offset. -/
def execStrefRel (d a : Nat) (sc : Scope) (s : State) : Out :=
  governed s [(d, 2), (a, 2)] (fun k g t => ordered s k t (issueStref s k g t d a (t.rd64 a) .rel sc))

/-! ## Scratchpad forms (R360, R382) -/

/-- The offset of a scratchpad form, as an integer. -/
def Thread.so (t : Thread) (b : Nat) (o : BitVec 9) (size : Nat) : Int := ((t.rd b).toNat : Int) + o.toInt * size

/-- Check an offset: alignment, then the bound of R135; TRAPVA is wrap(o, 32). -/
def scratchOk (s : State) (k : TKey) (g : Group) (o : Int) (size : Nat) (body : State) : State :=
  let va : DWord := (wrapTo 32 o).setWidth 64
  if o % size ≠ 0 then s.trapAt k 0x04 va
  else if o < 0 || (g.lr.scrBytes : Int) < o + size then s.trapAt k 0x0D va
  else body

def issueLds (s : State) (k : TKey) (g : Group) (t : Thread) (kd : LdKind) (d : Nat) (o : Int) (ord : Order) (sc : Scope) :
    State :=
  scratchOk s k g o kd.bytes
    (let a := s.newAccess k g t (.lds kd) kd.bytes (BitVec.ofInt 64 o)
     s.issueAccess k g t { a with dreg := t.abs d, order := ord, scope := sc } true (markRegs (t.abs d) kd.regs))
/-- LDS (R360). -/
def execLds (kd : LdKind) (d b : Nat) (o : BitVec 9) (s : State) : Out :=
  governed s [(d, kd.regs), (b, 1)] (fun k g t => issueLds s k g t kd d (t.so b o kd.bytes) .rlx .grp)
/-- LDS.ACQ (R360). -/
def execLdsAcq (w : Width) (d a : Nat) (sc : Scope) (s : State) : Out :=
  governed s [(d, w.regs), (a, 1)] (fun k g t => ordered s k t (issueLds s k g t w.ld d ((t.rd a).toNat : Int) .acq sc))

def issueSts (s : State) (k : TKey) (g : Group) (t : Thread) (size regs r : Nat) (o : Int) (ord : Order) (sc : Scope) :
    State :=
  scratchOk s k g o size
    (let a := s.newAccess k g t .sts size (BitVec.ofInt 64 o)
     s.issueAccess k g t { a with data := t.rdData r regs, order := ord, scope := sc } true id)
/-- STS (R382). -/
def execSts (kd : StKind) (r b : Nat) (o : BitVec 9) (s : State) : Out :=
  governed s [(r, kd.regs), (b, 1)] (fun k g t => issueSts s k g t kd.bytes kd.regs r (t.so b o kd.bytes) .rlx .grp)
/-- STS.REL (R382). -/
def execStsRel (w : Width) (d a : Nat) (sc : Scope) (s : State) : Out :=
  governed s [(d, w.regs), (a, 1)] (fun k g t => ordered s k t
    (issueSts s k g t w.bytes w.regs d ((t.rd a).toNat : Int) .rel sc))

/-! ## Private words (R132, R133, R361, R383) -/

/-- The virtual address of a word, which may lie below 0 (R361). -/
def Group.privAddr (g : Group) (t : Nat) (w : Int) : DWord :=
  BitVec.ofInt 64 ((g.lr.pbase g.gidx : Int) + (w * g.lr.threads + t) * 4)

/-- Test the words of an access against SLIM; the first that fails traps (R133). -/
def slimOk (s : State) (k : TKey) (g : Group) (w : Int) (m : Nat) (body : State) : State :=
  match (List.range m).find? (fun (i : Nat) => decide (w + i < 0) || decide ((g.lr.slimw : Int) ≤ w + i)) with
  | some i => s.trapAt k 0x03 (g.privAddr k.tidx (w + i))
  | none => body

/-- Private word numbers of a form: zext(v[base]) + off9. -/
def Thread.pw (t : Thread) (b : Nat) (o : BitVec 9) : Int := ((t.rd b).toNat : Int) + o.toInt

/-- LDPV (R361). -/
def execLdpv (w : Width) (d b : Nat) (o : BitVec 9) (s : State) : Out :=
  governed s [(d, w.regs), (b, 1)] (fun k g t => slimOk s k g (t.pw b o) w.regs
    (let a := s.newAccess k g t (.ldpv w.regs) 4 (g.privAddr k.tidx (t.pw b o))
     s.issueAccess k g t
       { a with va2 := g.privAddr k.tidx (t.pw b o + 1), dreg := t.abs d, opa := (t.rd b).setWidth 64 } true
       (markRegs (t.abs d) w.regs)))
/-- STPV (R383). -/
def execStpv (w : Width) (r b : Nat) (o : BitVec 9) (s : State) : Out :=
  governed s [(r, w.regs), (b, 1)] (fun k g t => slimOk s k g (t.pw b o) w.regs
    (let a := s.newAccess k g t (.stpv w.regs) 4 (g.privAddr k.tidx (t.pw b o))
     s.issueAccess k g t
       { a with va2 := g.privAddr k.tidx (t.pw b o + 1), data := t.rdData r w.regs, opa := (t.rd b).setWidth 64 } true id))

/-! ## Atomics (R309 to R312) -/

/-- Wait for an empty log where the order asks for it (R82). -/
def orderedBy (s : State) (k : TKey) (t : Thread) (ord : Order) (body : State) : State :=
  if ord = .rlx then body else ordered s k t body
/-- Operand, new value of a CAS, order and scope of an atomic; the destination is pending when the old value returns. -/
def issueAtom (s : State) (k : TKey) (g : Group) (t : Thread) (a : Access) (op : AtomOp) (d : Nat) (ord : Order) (sc : Scope)
    (noret : Bool) : State :=
  let n := op.size / 4
  s.issueAccess k g t
    { a with data := t.rdData d n, data2 := (match op with | .cas32 => t.rdData (d + 1) 1 | .cas64 => t.rd64 (d + 2) | _ => 0),
             dreg := t.abs d, order := ord, scope := sc } true
    (if noret then id else markRegs (t.abs d) n)
/-- ATOM (R310). -/
def execAtom (op : AtomOp) (d a : Nat) (ord : Order) (sc : Scope) (noret : Bool) (s : State) : Out :=
  governed s [(d, op.span), (a, 2)] (fun k g t => orderedBy s k t ord (aligned s k (t.rd64 a) op.size
    (issueAtom s k g t (s.newAccess k g t (.atom op noret) op.size (t.rd64 a)) op d ord sc noret)))
/-- ATOMS (R310): field a names a pair of which the even register holds the offset. -/
def execAtoms (op : AtomOp) (d a : Nat) (ord : Order) (sc : Scope) (noret : Bool) (s : State) : Out :=
  governed s [(d, op.span), (a, 1)] (fun k g t => orderedBy s k t ord (scratchOk s k g ((t.rd a).toNat : Int) op.size
    (issueAtom s k g t (s.newAccess k g t (.atoms op noret) op.size ((t.rd a).setWidth 64)) op d ord sc noret)))

/-! ## Uniform registers and memory (R355, R356) -/

/-- KLD and KST hold their thread until the address is translated and its page is here; then they go on as a load or a store. -/
def issueK (s : State) (k : TKey) (g : Group) (t : Thread) (kind : AccKind) (ea : DWord) (data : DWord)
    (mark : Thread → Thread) : State :=
  ordered s k t (aligned s k ea 8
    (let a := { s.newAccess k g t kind 8 ea with data := data }
     match s.failedWalk k 4 ea.toNat with
     | some (y, w) => (s.dropItem y).trapAt k w.failed ea
     | none =>
     match s.xlateAccess a with
     | (s, _, .fail va) => s.trapAt k 0x0D va
     | (s, a, .miss va dir) => s.holdWalk k a 4 va dir
     | (s, a1, .done) =>
       match a1.pages.find? (fun (u, pg, w) => !s.pageReady a1.pkg u.mtype u.peer pg w) with
       | some (_, _, w) => s.holdWalk k a 4 ea.toNat (bitOf w)
       | none => s.issueAccess k g t a true mark))
/-- KLD (R355). -/
def execKld (n b : Nat) (o : BitVec 9) (s : State) : Out :=
  governed s [(b, 2)] (fun k g t =>
    if n ∈ t.kpend then s.stay k (.kreg n)
    else issueK s k g t (.kld n) (t.ea b o 8) 0 (fun t => { t with kpend := insertNat t.kpend n }))
/-- KST (R355). -/
def execKst (n b : Nat) (o : BitVec 9) (s : State) : Out :=
  governed s [(b, 2)] (fun k g t =>
    if n ∈ t.kpend then s.stay k (.kreg n)
    else issueK s k g t .kst (t.ea b o 8) (g.rdK (g.shareIndex k.tidx) n) id)

/-! ## Objects, launches, prefetch, ranges -/

/-- OINIT (R203, R368). -/
def execOinit (d a b : Nat) (s : State) : Out :=
  governed s [(d, 2), (a, 2), (b, 1)] (fun k g t =>
    let x := t.rd64 a
    let n := (t.rd b).toNat
    let acc := { s.newAccess k g t .oinit 8 x with len := 16 + n, data := BitVec.ofNat 64 n, dreg := t.abs d }
    let mark := markRegs (t.abs d) 2
    let go (s : State) : State := s.issueAccess k g t acc true mark
    if x.toNat / 2 ^ 56 ≠ 0 then go s
    else if x.toNat % 16 ≠ 0 || n % 8 ≠ 0 then s.trapAt k 0x04 x
    else issueChecked s k g t acc mark
      (fun s va => if va.toNat / 2 ^ 56 ≠ 0 then go s else s.trapAt k 0x07 x)
      (fun s a => if a.trans.all (fun u => decide (u.mtype = 1)) then go s else s.trapAt k 0x07 x))
/-- LAUNCH (R357). -/
def execLaunch (d a q : Nat) (s : State) : Out :=
  governed s [(d, 1), (a, 2)] (fun k g t => ordered s k t (aligned s k (t.rd64 a) 128
    (let acc := { s.newAccess k g t (.launch q) 128 (t.rd64 a) with dreg := t.abs d, scope := .sys }
     s.issueAccess k g t acc true (markRegs (t.abs d) 1))))
/-- PREF (R371). -/
def execPref (a : Nat) (s : State) : Out :=
  governed s [(a, 2)] (fun k g t => s.issueAccess k g t (s.newAccess k g t .pref 1 (t.rd64 a)) true id)

/-- The range check, then the access, which needs no translation of its own (R352, R396). -/
def issueRange (s : State) (k : TKey) (g : Group) (t : Thread) (kind : AccKind) (ea : DWord) (len : Nat) : State :=
  if len = 0 then s.retire k id
  else if ea.toNat / 2 ^ 56 ≠ 0 || (ea + BitVec.ofNat 64 (len - 1)).toNat / 2 ^ 56 ≠ 0 then s.trapAt k 0x0D ea
  else s.issueAccess k g t { s.newAccess k g t kind 8 ea with len := len } true id
/-- WBR (R396). -/
def execWbr (a b : Nat) (s : State) : Out :=
  governed s [(a, 2), (b, 1)] (fun k g t => issueRange s k g t .wbr (t.rd64 a) (t.rd b).toNat)
/-- INVR (R352). -/
def execInvr (a b : Nat) (s : State) : Out :=
  governed s [(a, 2), (b, 1)] (fun k g t => issueRange s k g t .invr (t.rd64 a) (t.rd b).toNat)

end Sys2Proof.Machine
end

