-- ==== Sys2Proof/Machine/Fetch.lean ====
section
/-! DEFINITION. Fetching an instruction word for a thread (R85, R118, R121, R122), and the repetition of REP: which instructions
may follow it, how fields step, and how iterations succeed one another (R36 to R38, R374). -/

namespace Sys2Proof.Machine

/-- What a fetch gives. -/
inductive FetchRes where
  | word (w : Word)
  /-- the page is being translated or brought -/
  | wait
  /-- it fails with a cause (R84, R122) -/
  | fail (cause : Nat)
  deriving DecidableEq, Repr

/-- Fetch the word at an address for a thread: translated in the direction execute, read coherently at its home. A miss starts a
walk that posts KIND 3, and the thread waits without a log entry (R85), for the walk that a thread of its bundle has started if
there is one (R23). -/
def State.fetchWord (s : State) (k : TKey) (g : Group) (t : Thread) (pc : DWord) : State × FetchRes :=
  match s.failedWalk k 3 pc.toNat with
  | some (y, w) => (s.dropItem y, .fail w.failed)
  | none =>
    let miss (s : State) : State × FetchRes :=
      if s.walks.any (fun (_, w) => decide (w.thr.uid = k.uid) && decide (w.kind = 3) && decide (w.failed = 0) &&
          decide (w.va = pc.toNat)) then (s, .wait) else
      let w : Walk := { pkg := g.pkg, core := t.place.core, tenant := s.tenantId g.pkg g.leaf, leaf := g.leaf, va := pc.toNat,
                        acc := 0, kind := 3, dir := 3, force := false, thr := k, redo := false, fault := 0, failed := 0 }
      let (s, y) := s.newItem (.walk w)
      (s.later (.translationWalkDone y), .wait)
    match s.xlate g.pkg t.place.core g.leaf pc.toNat 3 .fetch with
    | (s, .hit tr) =>
      if s.pageReady g.pkg tr.mtype tr.peer (tr.addr pc.toNat / 65536) false then
        let ag := s.threadAgent k g t
        if s.mismatched ag tr pc.toNat then (s.integrityFail k t.place.core, .wait) else
        let ga := tr.addr pc.toNat
        let s := (s.notePageRead ag tr ga).slicePass (s.lineAt g.pkg tr.mtype tr.peer (ga / 65536)) ga ag.chain (decide (tr.policy = 2))
        let (s, bs) := s.homeRead ga 4
        (s, .word (BitVec.ofNat 32 (leNat bs)))
      else miss s
    | (s, .miss) => miss s
    | (s, _) => (s, .fail 0x0D)

/-- Fetch and go on with the word; a wait holds the thread, a failure traps with TRAPPC and TRAPVA at the unfetched address
(R85, R86). -/
def State.withFetch (s : State) (k : TKey) (g : Group) (t : Thread) (pc : DWord) (f : State → Word → State) : State :=
  match s.fetchWord k g t pc with
  | (s, .word w) => f s w
  | (s, .wait) => s.stay k .fetch
  | (s, .fail c) => s.takeTrap k (trapcOf c false false 0) pc pc some

/-! ## Followers of REP (R36, R37) -/

end Sys2Proof.Machine

namespace Sys2Proof

/-- The thread-register fields of an instruction that may follow REP, by position d, a, b (R36, R37, R374, R387): none for an
instruction that may not. A field that names no thread register takes no stride. -/
def Instr.repFields : Instr → Option (List (Option Nat))
  | .iadd d a b => some [some d, some a, some b]
  | .iadd64 d a b => some [some d, some a, some b]
  | .iaddImm d a _ => some [some d, some a, none]
  | .isub d a b => some [some d, some a, some b]
  | .isub64 d a b => some [some d, some a, some b]
  | .imul d a b => some [some d, some a, some b]
  | .imul64 d a b => some [some d, some a, some b]
  | .imulhS32 d a b => some [some d, some a, some b]
  | .imulhZ32 d a b => some [some d, some a, some b]
  | .imad d a b => some [some d, some a, some b]
  | .imad64 d a b => some [some d, some a, some b]
  | .idiv _ d a b => some [some d, some a, some b]
  | .irem _ d a b => some [some d, some a, some b]
  | .imin _ d a b => some [some d, some a, some b]
  | .imin64 _ d a b => some [some d, some a, some b]
  | .imax _ d a b => some [some d, some a, some b]
  | .imax64 _ d a b => some [some d, some a, some b]
  | .iabs d a => some [some d, some a, none]
  | .iabs64 d a => some [some d, some a, none]
  | .ineg d a => some [some d, some a, none]
  | .ineg64 d a => some [some d, some a, none]
  | .and d a b => some [some d, some a, some b]
  | .and64 d a b => some [some d, some a, some b]
  | .andn d a b => some [some d, some a, some b]
  | .andn64 d a b => some [some d, some a, some b]
  | .or d a b => some [some d, some a, some b]
  | .or64 d a b => some [some d, some a, some b]
  | .xor d a b => some [some d, some a, some b]
  | .xor64 d a b => some [some d, some a, some b]
  | .shl d a b => some [some d, some a, some b]
  | .shl64 d a b => some [some d, some a, some b]
  | .shr d a b => some [some d, some a, some b]
  | .shr64 d a b => some [some d, some a, some b]
  | .sar d a b => some [some d, some a, some b]
  | .sar64 d a b => some [some d, some a, some b]
  | .rot d a b => some [some d, some a, some b]
  | .rot64 d a b => some [some d, some a, some b]
  | .clz d a => some [some d, some a, none]
  | .popc d a => some [some d, some a, none]
  | .brev d a => some [some d, some a, none]
  | .iset _ _ _ a b => some [none, some a, some b]
  | .isel _ d a b => some [some d, some a, some b]
  | .lea d a _ => some [some d, some a, none]
  | .fadd d a b => some [some d, some a, some b]
  | .fsub d a b => some [some d, some a, some b]
  | .fmul d a b => some [some d, some a, some b]
  | .ffma d a b => some [some d, some a, some b]
  | .fmin d a b => some [some d, some a, some b]
  | .fmax d a b => some [some d, some a, some b]
  | .frcp d a => some [some d, some a, none]
  | .frsq d a => some [some d, some a, none]
  | .fsqrt d a => some [some d, some a, none]
  | .fexp2 d a => some [some d, some a, none]
  | .flog2 d a => some [some d, some a, none]
  | .fsin d a => some [some d, some a, none]
  | .fcos d a => some [some d, some a, none]
  | .ftanh d a => some [some d, some a, none]
  | .fcmp _ _ a b => some [none, some a, some b]
  | .cvt _ _ d a => some [some d, some a, none]
  | .cvtd _ _ _ d a => some [some d, some a, none]
  | .vaddInt _ d a b => some [some d, some a, some b]
  | .vsubInt _ d a b => some [some d, some a, some b]
  | .vmulInt _ d a b => some [some d, some a, some b]
  | .vminInt _ d a b => some [some d, some a, some b]
  | .vmaxInt _ d a b => some [some d, some a, some b]
  | .vdot4 d a b => some [some d, some a, some b]
  | .vaddFloat _ d a b => some [some d, some a, some b]
  | .vsubFloat _ d a b => some [some d, some a, some b]
  | .vmulFloat _ d a b => some [some d, some a, some b]
  | .vminFloat _ d a b => some [some d, some a, some b]
  | .vmaxFloat _ d a b => some [some d, some a, some b]
  | .vfma _ d a b => some [some d, some a, some b]
  | .vsel _ d a b => some [some d, some a, some b]
  | .vpack _ d a b => some [some d, some a, some b]
  | .vunpk _ d a b => some [some d, some a, some b]
  | .ld _ d b _ => some [some d, some b, none]
  | .ldref d b _ => some [some d, some b, none]
  | .st _ s b _ => some [some s, some b, none]
  | .stref s b _ => some [some s, some b, none]
  | .lds _ d b _ => some [some d, some b, none]
  | .sts _ s b _ => some [some s, some b, none]
  | .ldpv _ d b _ => some [some d, some b, none]
  | .stpv _ s b _ => some [some s, some b, none]
  | .ldAcq _ d a _ => some [some d, some a, none]
  | .ldrefAcq d a _ => some [some d, some a, none]
  | .stRel32 d a _ => some [some d, some a, none]
  | .stRel64 d a _ => some [some d, some a, none]
  | .strefRel d a _ => some [some d, some a, none]
  | .ldsAcq _ d a _ => some [some d, some a, none]
  | .stsRel _ d a _ => some [some d, some a, none]
  | .atom _ d a _ _ _ => some [some d, some a, none]
  | .atoms _ d a _ _ _ => some [some d, some a, none]
  | .kld _ b _ => some [none, some b, none]
  | .kst _ b _ => some [none, some b, none]
  | .oinit d a b => some [some d, some a, some b]
  | .launch d a _ => some [some d, some a, none]
  | .pref a => some [none, some a, none]
  | .wbr a b => some [none, some a, some b]
  | .invr a b => some [none, some a, some b]
  | .swarm a b => some [none, some a, some b]
  | .swadd a b => some [none, some a, some b]
  | .swait a b => some [none, some a, some b]
  | .mov d a => some [some d, some a, none]
  | .mov64 d a => some [some d, some a, none]
  | .kmovFromK d _ => some [some d, none, none]
  | .kmovToK _ a => some [none, some a, none]
  | .srd d _ => some [some d, none, none]
  | .swr r a => if r = .wbase then none else some [none, some a, none]
  | .bfx _ d a b => some [some d, some a, some b]
  | .bfi d a b => some [some d, some a, some b]
  | .xidx d a => some [some d, some a, none]
  | .pand _ _ _ => none
  | .por _ _ _ => none
  | .pxor _ _ _ => none
  | .pnot _ _ => none
  | .pmovPred _ _ => none
  | .pmovFromV _ _ => none
  | .pmovToV _ _ => none
  | .cpt _ _ => none
  | .cps _ _ => none
  | .cpg _ _ _ => none
  | .cpsc _ _ _ => none
  | .cpb _ _ _ => none
  | .cpz _ _ _ => none
  | .cpr _ _ _ => none
  | .mma _ _ _ => none
  | .mmas _ _ _ _ => none
  | .mz _ _ => none
  | .mst _ _ _ => none
  | .mlda _ _ _ => none
  | .scacc _ _ _ _ => none
  | .scn _ _ => none
  | .scop _ _ _ => none
  | .pub _ _ _ => none
  | .hwait _ => none
  | .htest _ _ => none
  | .hcan _ => none
  | .hmov _ _ => none
  | .hst _ _ => none
  | .hld _ _ => none
  | .rjoin _ => none
  | .brz _ _ => none
  | .bnz _ _ => none
  | .brp _ _ => none
  | .jmp _ => none
  | .call _ => none
  | .br _ => none
  | .callReg _ => none
  | .nop => none
  | .exit => none
  | .yield => none
  | .rsync => none
  | .rleave => none
  | .tret => none
  | .trap _ => none
  | .bkpt => none
  | .halt => none
  | .fence _ _ => none
  | .bar => none
  | .tmark _ => none
  | .prio _ => none
  | .rep _ _ _ _ => none
  | .repReg _ _ _ _ => none
  | .winb _ => none
  | .ret => none
  | .waitc _ _ _ _ => none
  | .movi _ _ => none
  | .movh _ _ => none
  | .xshf _ _ _ _ => none
  | .xbal _ _ => none
  | .xvote _ _ _ => none
  | .xred _ _ _ => none
  | .xscan _ _ _ => none
  | .invalidateDone _ => none
  | .windowRead _ _ _ _ => none
  | .windowWrite _ _ _ _ _ => none
  | .stepWaitEnd _ _ => none
  | .dump _ _ => none
  | .groupStop _ => none
  | .attestationSigned _ => none
  | .imagePhaseEnd _ _ _ _ _ _ _ => none
  | .repairPhaseEnd _ _ _ => none
  | .selftestEnd _ _ => none
  | .throttleRaise _ _ _ => none
  | .throttleLower _ _ _ => none
  | .holdoverEnter _ => none
  | .holdoverLeave _ => none
  | .ptpMessage _ _ => none
  | .bundlingRound _ _ => none
  | .priorityPromotion _ _ => none
  | .yieldDemotionEnd _ _ => none
  | .recordTake _ _ _ => none
  | .dependenceRecheck _ => none
  | .groupHandOut _ => none
  | .saveDone _ => none
  | .groupPlace _ _ => none
  | .clusterModeChange _ _ _ => none
  | .drainEnd _ => none
  | .clusterReport _ _ _ => none
  | .launchEnqueue _ => none
  | .faultPost _ _ => none
  | .accessReplay _ _ => none
  | .engineFailureTrap _ _ => none
  | .translationWalkDone _ => none
  | .homeReadRequest _ => none
  | .ownershipRequest _ => none
  | .forwardedRead _ => none
  | .writeBackArrival _ => none
  | .atomicAtHome _ => none
  | .releaseCompletion _ _ => none
  | .routerPowerDown _ _ => none
  | .routerWake _ _ => none
  | .climbingMiss _ => none
  | .pageMoveDone _ => none
  | .upgrade _ => none
  | .markArrival _ => none
  | .injectionOffer _ => none
  | .injectionConfirm _ => none
  | .holderReport _ _ _ => none
  | .windowEnd _ => none
  | .flitReceive _ _ _ => none
  | .linkReplayRequest _ _ _ => none
  | .ackCreditReturn _ _ _ _ => none
  | .windowAuditSend _ _ => none
  | .windowAuditReceive _ _ _ => none
  | .copyArrival _ => none
  | .copyComplete _ => none
  | .kBlockDone _ => none
  | .matrixComplete _ => none
  | .scanStart _ => none
  | .carryArrival _ => none
  | .scanComplete _ => none
  | .walkStart _ _ => none
  | .walkComplete _ => none
  | .timeseriesTick _ => none
  | .objectMark _ => none
  | .accessCompletion _ => none
  | .scrub _ _ => none
  | .linkTrainingDone _ _ _ => none
  | .refresh _ _ => none
  | .invalidate _ _ => none
  | .domainReset _ _ => none
  | .loss _ _ => none
  | .releaseLost _ _ => none
  | .resolve _ _ _ => none
  | .fqheadWrite _ _ _ => none
  | .registerWrite _ _ _ _ _ _ => none
  | .queueTailDoorbell _ _ _ _ _ => none
  | .debugHalt _ _ => none
  | .haltRegion _ _ => none
  | .resume _ _ => none
  | .step _ _ => none
  | .readContext _ _ => none
  | .writeContext _ _ => none
  | .dumpPage _ _ => none
  | .attach _ _ => none
  | .detach _ _ => none
  | .breakpointSlotWrite _ _ _ _ _ => none
  | .watchpointSlotWrite _ _ _ _ _ => none
  | .tskWrite _ _ _ => none
  | .trrdWrite _ _ _ => none
  | .attestationRequest _ _ _ => none
  | .powerLoss _ => none
  | .softError _ _ => none
  | .linkFailure _ _ => none
  | .powerGood _ => none

/-- The instruction with the register fields at positions d, a and b replaced. -/
def Instr.withFields (i : Instr) (x y z : Nat) : Instr :=
  match i with
  | .iadd _ _ _ => .iadd x y z
  | .iadd64 _ _ _ => .iadd64 x y z
  | .iaddImm _ _ imm => .iaddImm x y imm
  | .isub _ _ _ => .isub x y z
  | .isub64 _ _ _ => .isub64 x y z
  | .imul _ _ _ => .imul x y z
  | .imul64 _ _ _ => .imul64 x y z
  | .imulhS32 _ _ _ => .imulhS32 x y z
  | .imulhZ32 _ _ _ => .imulhZ32 x y z
  | .imad _ _ _ => .imad x y z
  | .imad64 _ _ _ => .imad64 x y z
  | .idiv sg _ _ _ => .idiv sg x y z
  | .irem sg _ _ _ => .irem sg x y z
  | .imin sg _ _ _ => .imin sg x y z
  | .imin64 sg _ _ _ => .imin64 sg x y z
  | .imax sg _ _ _ => .imax sg x y z
  | .imax64 sg _ _ _ => .imax64 sg x y z
  | .iabs _ _ => .iabs x y
  | .iabs64 _ _ => .iabs64 x y
  | .ineg _ _ => .ineg x y
  | .ineg64 _ _ => .ineg64 x y
  | .and _ _ _ => .and x y z
  | .and64 _ _ _ => .and64 x y z
  | .andn _ _ _ => .andn x y z
  | .andn64 _ _ _ => .andn64 x y z
  | .or _ _ _ => .or x y z
  | .or64 _ _ _ => .or64 x y z
  | .xor _ _ _ => .xor x y z
  | .xor64 _ _ _ => .xor64 x y z
  | .shl _ _ _ => .shl x y z
  | .shl64 _ _ _ => .shl64 x y z
  | .shr _ _ _ => .shr x y z
  | .shr64 _ _ _ => .shr64 x y z
  | .sar _ _ _ => .sar x y z
  | .sar64 _ _ _ => .sar64 x y z
  | .rot _ _ _ => .rot x y z
  | .rot64 _ _ _ => .rot64 x y z
  | .clz _ _ => .clz x y
  | .popc _ _ => .popc x y
  | .brev _ _ => .brev x y
  | .iset w c p _ _ => .iset w c p y z
  | .isel n _ _ _ => .isel n x y z
  | .lea _ _ imm => .lea x y imm
  | .fadd _ _ _ => .fadd x y z
  | .fsub _ _ _ => .fsub x y z
  | .fmul _ _ _ => .fmul x y z
  | .ffma _ _ _ => .ffma x y z
  | .fmin _ _ _ => .fmin x y z
  | .fmax _ _ _ => .fmax x y z
  | .frcp _ _ => .frcp x y
  | .frsq _ _ => .frsq x y
  | .fsqrt _ _ => .fsqrt x y
  | .fexp2 _ _ => .fexp2 x y
  | .flog2 _ _ => .flog2 x y
  | .fsin _ _ => .fsin x y
  | .fcos _ _ => .fcos x y
  | .ftanh _ _ => .ftanh x y
  | .fcmp c p _ _ => .fcmp c p y z
  | .cvt dst src _ _ => .cvt dst src x y
  | .cvtd dst src pol _ _ => .cvtd dst src pol x y
  | .vaddInt t _ _ _ => .vaddInt t x y z
  | .vsubInt t _ _ _ => .vsubInt t x y z
  | .vmulInt t _ _ _ => .vmulInt t x y z
  | .vminInt t _ _ _ => .vminInt t x y z
  | .vmaxInt t _ _ _ => .vmaxInt t x y z
  | .vdot4 _ _ _ => .vdot4 x y z
  | .vaddFloat t _ _ _ => .vaddFloat t x y z
  | .vsubFloat t _ _ _ => .vsubFloat t x y z
  | .vmulFloat t _ _ _ => .vmulFloat t x y z
  | .vminFloat t _ _ _ => .vminFloat t x y z
  | .vmaxFloat t _ _ _ => .vmaxFloat t x y z
  | .vfma t _ _ _ => .vfma t x y z
  | .vsel n _ _ _ => .vsel n x y z
  | .vpack t _ _ _ => .vpack t x y z
  | .vunpk t _ _ _ => .vunpk t x y z
  | .ld k _ _ o => .ld k x y o
  | .ldref _ _ o => .ldref x y o
  | .st k _ _ o => .st k x y o
  | .stref _ _ o => .stref x y o
  | .lds k _ _ o => .lds k x y o
  | .sts k _ _ o => .sts k x y o
  | .ldpv w _ _ o => .ldpv w x y o
  | .stpv w _ _ o => .stpv w x y o
  | .ldAcq w _ _ sc => .ldAcq w x y sc
  | .ldrefAcq _ _ sc => .ldrefAcq x y sc
  | .stRel32 _ _ sc => .stRel32 x y sc
  | .stRel64 _ _ sc => .stRel64 x y sc
  | .strefRel _ _ sc => .strefRel x y sc
  | .ldsAcq w _ _ sc => .ldsAcq w x y sc
  | .stsRel w _ _ sc => .stsRel w x y sc
  | .atom op _ _ ord sc noret => .atom op x y ord sc noret
  | .atoms op _ _ ord sc noret => .atoms op x y ord sc noret
  | .kld n _ o => .kld n y o
  | .kst n _ o => .kst n y o
  | .oinit _ _ _ => .oinit x y z
  | .launch _ _ q => .launch x y q
  | .pref _ => .pref y
  | .wbr _ _ => .wbr y z
  | .invr _ _ => .invr y z
  | .swarm _ _ => .swarm y z
  | .swadd _ _ => .swadd y z
  | .swait _ _ => .swait y z
  | .mov _ _ => .mov x y
  | .mov64 _ _ => .mov64 x y
  | .kmovFromK _ n => .kmovFromK x n
  | .kmovToK n _ => .kmovToK n y
  | .srd _ r => .srd x r
  | .swr r _ => .swr r y
  | .bfx sg _ _ _ => .bfx sg x y z
  | .bfi _ _ _ => .bfi x y z
  | .xidx _ _ => .xidx x y
  | i => i

end Sys2Proof

namespace Sys2Proof.Machine

/-- The follower word of a REP with strides: an instruction that R37 allows there. -/
def followerOf (sd sa sb : Nat) (w : Word) : Option Instr :=
  match decodeWord w with
  | .error _ => none
  | .ok i => match i.repFields with
    | none => none
    | some fs => if (fs.zip [sd, sa, sb]).all (fun (f, st) => f.isSome || decide (st = 0)) then some i else none

/-- The fields of iteration `r.i` (R36 step 2). -/
def Rep.fields (r : Rep) (fs : List (Option Nat)) : List Nat :=
  (fs.zip [r.sd, r.sa, r.sb]).map (fun (f, st) => match f with | some x => x + r.i * st | none => 0)

/-- REP issues: a stopped repetition of this REP goes on; else the follower is fetched and judged, a count of 0 skips it, and the
repetition begins (R36 to R38, R300 step 3, R374). `sp` is the count register's field. -/
def startRep (s : State) (sd sa sb : Nat) (sp : Spans) (count : Thread → Nat) : Out :=
  withThread s (fun k g t =>
    match t.rep with
    | some r =>
      if r.at_ = t.pc then s.retire k id else go k g t
    | none => go k g t)
where
  go (k : TKey) (g : Group) (t : Thread) : State :=
    s.withFetch k g t (t.pc + 4) (fun s w =>
      if (followerOf sd sa sb w).isNone then s.trapAt k 0x01 0
      else judged s k g t sp
        (let n := count t
         if n = 0 then s.modThread k (fun t => { t.next with pc := t.pc + 8, rep := none })
         else s.retire k (fun t => { t with rep := some { at_ := t.pc, word := w, i := 0, n := n, sd := sd, sa := sa, sb := sb } })))

/-- REP with an immediate count (R36, R374). -/
def execRep (sd sa sb n : Nat) (s : State) : Out := startRep s sd sa sb [] (fun _ => n)
/-- REP with a register count (R36, R374). -/
def execRepReg (sd sa sb c : Nat) (s : State) : Out := startRep s sd sa sb [(c, 1)] (fun t => (t.rd c).toNat)

/-- What an iteration performs: the stepped instruction, or a trap with TRAPPC at the REP (R36 steps 3 and 4). -/
inductive IterRes where
  | run (i : Instr)
  | trap (cause : Nat)
  deriving DecidableEq, Repr

/-- The instruction of the iteration under way. Registers are tested against the allotment first, then evenness. -/
def iteration (g : Group) (t : Thread) (r : Rep) : IterRes :=
  match followerOf r.sd r.sa r.sb r.word with
  | none => .trap 0x01
  | some i =>
    let fs := i.repFields.getD []
    let xs := r.fields fs
    let at_ (l : List Nat) (j : Nat) : Nat := l.getD j 0
    let with_ (l : List Nat) : Instr := i.withFields (at_ l 0) (at_ l 1) (at_ l 2)
    if (fs.zip xs).any (fun (f, x) => f.isSome && decide (g.lr.allot ≤ t.wbase + x)) then .trap 0x02
    else if !(with_ (xs.map (· % 2))).wf then .trap 0x01
    else .run (with_ xs)

/-- After an iteration's instruction: if it has retired, the next iteration is due, or the repetition is over (R36 step 5). -/
def State.afterIteration (s : State) (k : TKey) (r : Rep) (depth : Nat) : State :=
  s.modThread k (fun t =>
    if t.rep = some r && decide (t.pc = r.at_ + 8) && decide (t.depth = depth) then
      if r.i + 1 < r.n then { t with pc := r.at_ + 4, rep := some { r with i := r.i + 1 } }
      else { t with rep := none }
    else t)

end Sys2Proof.Machine
end

