-- ==== Sys2Proof/Machine/Engine.lean ====
section
/-! DEFINITION. What the engine commands share: the role check (R34), issue with a handle and a counter (R40, R42), the engine's
own translation and its suspension (R85, R122), sync words (R224, R225), completion, failure and removal (R85, R108, R343). -/

namespace Sys2Proof.Machine

/-! ## Issue -/

/-- A role-bound command of another role raises a role fault (R34). -/
def roleCheck (s : State) (k : TKey) (g : Group) (role : Nat) (body : State) : State :=
  if g.lr.role (k.tidx / 32) = role then body else s.trapAt k 0x05 0

/-- Uniform registers that a command reads: the thread waits for its own pending KLD (R356). -/
def kReady (s : State) (k : TKey) (t : Thread) (kb n : Nat) (body : State) : State :=
  match t.kpend.find? (fun i => decide (kb ≤ i) && decide (i < kb + n)) with
  | some i => s.stay k (.kreg i)
  | none => body

/-- The operand block k(kb) to k(kb + n − 1). -/
def Group.kblock (g : Group) (j kb n : Nat) : List DWord := (List.range n).map (fun i => g.rdK j (kb + i))

/-- A new operation of the issuing thread: FMODE and SEED are captured (R99). -/
def newOpOf (k : TKey) (g : Group) (t : Thread) (kind : OpKind) (blk : List DWord) (arg : Word) : Op :=
  { kind := kind, thr := k, leaf := g.leaf, force := false, pkg := g.pkg, core := t.place.core, share := g.shareIndex k.tidx,
    st := .queued, cancelled := false, blk := blk, arg := arg, ga := 0, fmode := t.fmode, seed := t.seed, z := 0, zp := 0,
    row := 0, off := 0, cur := 0, next := 0, later := [], held := [], acked := 0, flags := 0, engine := 0, scope := .grp, started := false, carry := none, sent := false,
    formed := false, scribe := 0, stamp := 0, stack := [], waitList := [], entered := [], blocks := [], marking := none, doneAt := 0 }

/-- A MATRIX command (R34). -/
def OpKind.matrix : OpKind → Bool | .mma | .mz | .mst | .mlda | .scacc => true | _ => false
/-- The event that carries an operation on. -/
def Op.event (o : Op) (x : Nat) : Instr :=
  match o.kind with
  | .cpt | .cps | .cpg | .cpsc | .cpb | .cpz | .cpr => .copyArrival x
  | .mma => .kBlockDone x
  | .mz | .mst | .mlda | .scacc => .matrixComplete x
  | .scn => if o.st = .queued then .scanStart x else .scanComplete x
  | .scop => .scanComplete x
  | .pub => .objectMark x

/-- A suspended operation goes on where it stood: an SCN that has not read its inputs is still to start (R84, R85). -/
def Op.resumed (o : Op) : Op :=
  if o.st = .suspended then { o with st := if o.kind = .scn && !o.started then .queued else .running } else o

/-- Field words of a block. -/
def Op.w (o : Op) (i hi lo : Nat) : Nat := bitsOf (o.blk.getD i 0).toNat hi lo

/-- Issue a command: the counter of its class, the queue, the handle and the operation's number (R40, R42). `put` places it in
its queue. -/
def issueOp (s : State) (k : TKey) (g : Group) (t : Thread) (h : Nat) (c : Cls) (which : Option Nat) (o : Op)
    (put : State → Nat → State) : State :=
  if 63 ≤ t.cnt c then s.stay k (.counter c.num)
  else
    let full := match which with | some q => s.queueFull g k.uid t.place.core q | none => false
    if full then s.stay k (.queue (which.getD 0))
    else
      let (s, x) := s.newItem (.op o)
      let s := s.modThread k (fun t => ((t.addOut c x).wrH h x).next)
      put s x

/-! ## Sync words (R224, R225) -/

/-- The fields of a sync word: TARGET, ARRIVED, GEN. -/
def State.syncWord (s : State) (u j o : Nat) : Nat × Nat × Nat :=
  let w := s.snat u j o 8
  (bitsOf w 63 40, bitsOf w 39 16, bitsOf w 15 0)

/-- The loop of R225 in closed form: generations completed and bytes left. -/
def arriveBy (target a : Nat) : Nat × Nat := if target = 0 then (0, a) else (a / target, a % target)

/-- Write a sync word with a target after an arrival of n bytes (R225); SW_ADVANCE counts the generations (R239). -/
def State.syncPut (s : State) (p c u j o target arrived gen n : Nat) : State :=
  let (d, left) := arriveBy target (arrived + n)
  let s := if d = 0 then s else s.count p (0, 17) c d
  s.sstore u j o (leBytes 8 (target % 2 ^ 24 * 2 ^ 40 + left % 2 ^ 24 * 2 ^ 16 + (gen + d) % 2 ^ 16))

/-- An arrival of n bytes at the sync word of a share (R225). -/
def State.arrive (s : State) (p c u j o n : Nat) : State :=
  let (tg, a, gen) := s.syncWord u j o
  s.syncPut p c u j o tg a gen n

/-! ## Queues -/

/-- Take an operation out of every queue of its core and die, and let the next head go on. -/
def State.dequeue (s : State) (x : Nat) (o : Op) : State :=
  let out (l : List Nat) : List Nat := l.filter (fun y => decide (y ≠ x))
  let s := s.modCore o.pkg o.core (fun k => { k with copyQ := out k.copyQ, matQ := out k.matQ, scanQ := out k.scanQ })
  let s := s.modDie o.pkg (dieOf o.core) (fun d => { d with bulk := (d.bulk.map (fun ((e, l) : Nat × List Nat) => (e, out l))).filter
                                                                     (fun ((_, l) : Nat × List Nat) => !l.isEmpty),
                                                            pubQ := out d.pubQ })
  let k := s.coreOf o.pkg o.core
  let heads := match o.kind with
    | .cpb | .cpz => (SMap.get ((s.pkgD o.pkg).die (dieOf o.core)).bulk [] o.engine).take 1
    | .mma | .mz | .mst | .mlda | .scacc => k.matQ.take 1
    | .scn | .scop => k.scanQ.take 1
    | _ => []
  heads.foldl (fun s y => match s.op? y with | some q => s.laterOnce (q.event y) | none => s) s

/-! ## Completion, failure, removal -/

/-- An operation completes: its handle is DONE, its flags merge unless it was cancelled, and it retires from its class (R40, R42,
R108, R109). -/
def State.finishOp (s : State) (x : Nat) : State :=
  match s.op? x with
  | none => s
  | some o =>
    let s := s.modOp x (fun o => { o with st := .done, doneAt := s.nextId })
    let s := { s with nextId := s.nextId + 1 }
    let s := if o.cancelled then s else s.modThread o.thr (fun t => t.addFlags o.flags.toNat)
    (s.modThread o.thr (fun t => t.doneOut x)).dequeue x o

/-- Drop the translation walks of an operation. -/
def State.dropWalksOf (s : State) (x : Nat) : State :=
  s.walks.foldl (fun s (y, w) => if w.acc = x && decide (w.kind = 2) then s.dropItem y else s) s

/-! ## Publication walks as they end (R211 to R213) -/

/-- An effect on bytes of a line wherever its page lies: with a master, in the backing area, or nowhere any more. -/
def State.whereverKept (s : State) (ga : Nat) (f : State → State) : State :=
  let g := ga / 65536
  if s.pageLost g then s
  else if (s.masterOf g).isSome then f s
  else match s.backedAt g with
    | none => s
    | some slot =>
      let line := lineBase ga
      let at_ := slot + line % 65536
      let s := f { s with gmem := splice s.gmem line 128 (cut s.hmem at_ 128 line) }
      { s with hmem := splice s.hmem at_ 128 (cut s.gmem line 128 at_), gmem := splice s.gmem line 128 [] }

/-- A scribe of a die takes a block of a walk buffer or gives it back: its bit of the bitmap in block 0 (R212). -/
def State.setBlockBit (s : State) (p die base i : Nat) (v : Bool) : State :=
  let (s, bs) := (s.pkgTouch p die (base + i / 8) true).homeRead (base + i / 8) 1
  let b := bs.headD 0
  s.homeWrite (base + i / 8) [if v then b ||| (1#8 <<< (i % 8)) else b &&& ~~~(1#8 <<< (i % 8))]

/-- The walk leaves its scribe, which becomes idle; the die's queue goes on (R208, R421). -/
def State.freeScribe (s : State) (o : Op) : State :=
  (s.modDie o.pkg (dieOf o.core) (fun d => { d with scribes := SMap.del d.scribes o.scribe })).later
    (.walkStart o.pkg (dieOf o.core))

/-- A header that a walk entered is PRIVATE again, with OSCOPE 0 (R213). -/
def State.headerBack (s : State) (p die ga : Nat) : State :=
  let (s, b) := (s.pkgTouch p die ga true).homeRead ga 8
  let h := leNat b
  s.homeWrite ga (leBytes 8 (h - bitsOf h 15 11 * 2 ^ 11))
/-- The same wherever the header's page lies: with a master, in the backing area, or nowhere any more. -/
def State.undoHeader (s : State) (p die ga : Nat) : State :=
  s.whereverKept ga (fun s => s.headerBack p die ga)

/-- A walk ends before its time: what it entered and did not mark returns to PRIVATE, its blocks are free, its wait list is dropped
(R91, R213). `entered` holds the home addresses of those headers. -/
def State.undoWalk (s : State) (x : Nat) (o : Op) : State :=
  let s := o.entered.foldl (fun s ga => s.undoHeader o.pkg (dieOf o.core) ga) s
  let base := (s.effWalkBuf o.pkg o.leaf).1
  let s := o.blocks.foldl (fun s i => s.whereverKept (base + i / 8) (fun s => s.setBlockBit o.pkg (dieOf o.core) base i false)) s
  (s.modOp x (fun o => { o with entered := [], blocks := [], waitList := [], stack := [], marking := none })).freeScribe o
/-- A walk fault is counted (R213, R216). -/
def State.faultWalk (s : State) (x : Nat) (o : Op) : State := (s.undoWalk x o).tally o.pkg 23

/-- An operation fails: it ends with its handle DONE, and its thread traps with ENGINE = 1 at its next boundary, unless the
operation was cancelled (R85, R343). MPRG of an MMA takes FAIL (R236). -/
def State.failOp (s : State) (x cause : Nat) (va : DWord) : State :=
  match s.op? x with
  | none => s
  | some o =>
    let s := s.modOp x (fun o => { o with flags := 0 })
    let s := if o.kind = .pub && decide (o.st ≠ .done) then s.faultWalk x o else s
    let s := (s.dropWalksOf x).finishOp x
    let s := if o.kind = .mma then
        s.modThread o.thr (fun t => { t with mprg := (t.mprg &&& ~~~0x40000000#32) ||| 0x80000000#32 }) else s
    if o.cancelled then s
    else (s.modThread o.thr (fun t => if t.exited then t else { t with engFail := t.engFail ++ [⟨true, cause, va, none⟩] })).later
      (.engineFailureTrap o.thr.uid o.thr.tidx)

/-- An operation that has not started is removed: it leaves its class at once and its handle reads DONE (R343). -/
def State.removeOp (s : State) (x : Nat) : State :=
  match s.op? x with
  | none => s
  | some o =>
    let s := s.modOp x (fun o => { o with st := .done, cancelled := true, doneAt := s.nextId })
    let s := { s with nextId := s.nextId + 1 }
    (s.modThread o.thr (fun t => t.removeOut x)).dequeue x o

/-- An operation may start: the issuing thread's earlier acquires, and its earlier scratchpad accesses, are performed (R185,
R188). -/
def State.opMayStart (s : State) (x : Nat) (o : Op) : Bool :=
  (s.accOf o.thr).all (fun (y, a) => !(decide (y < x) && a.unperformed && (a.acquires || decide (a.mtype = 5))))

/-! ## The engine's operands (R85, R122) -/

/-- The agent of an operation: it is judged as its thread (R186). -/
def State.opAgent (s : State) (o : Op) : Agent :=
  { pkg := o.pkg, core := o.core, uid := o.thr.uid, share := o.share,
    chain := match s.group? o.thr.uid with | some g => s.chainTag o.pkg o.leaf g.lr.chain | none => 0,
    tenant := match s.group? o.thr.uid with | some g => g.tenant | none => 0, late := false }

/-- Whether a run of bytes can be accessed now. -/
inductive RunRes where
  | ready
  /-- a walk or a page is on its way; the operation's event comes again -/
  | wait
  | fail (cause : Nat) (va : DWord)
  deriving DecidableEq, Repr

/-- The pieces of a run of virtual addresses, one in each line. -/
def runPieces (va n : Nat) : List (Nat × Nat) := linePieces (n / 128 + 2) va n

/-- A walk for an operation: it posts KIND 2 and suspends the operation when it faults (R85). -/
def State.opWalk (s : State) (x : Nat) (o : Op) (va dir : Nat) : State :=
  let w : Walk := { pkg := o.pkg, core := o.core, tenant := s.tenantId o.pkg o.leaf, leaf := o.leaf, va := va, acc := x,
                    kind := 2, dir := dir, force := o.force, thr := o.thr, redo := false, fault := 0, failed := 0 }
  let (s, y) := s.newItem (.walk w)
  s.later (.translationWalkDone y)

/-- An engine or a scribe meets a LOST page: a KIND 6 notice goes to the owning tenant's queue (R158). -/
def State.opLost (s : State) (o : Op) (pg va dir : Nat) : State :=
  match s.group? o.thr.uid with
  | some g => s.lostNotice o.pkg o.leaf pg dir va (threadName g o.thr.tidx (dieOf o.core)) (dieOf o.core)
  | none => s

/-- The translation of one piece: an engine operand of an admitted type with its page here; a bad line stops an operation that consumes it
(R292). -/
def State.opPiece (s : State) (x : Nat) (o : Op) (va n dir : Nat) (admits : Nat → Bool) (consumes : Bool := true) : State × RunRes × Trans :=
  let bad (s : State) (c : Nat) : State × RunRes × Trans := (s, .fail c (BitVec.ofNat 64 va), scrTrans va)
  let scr := match s.group? o.thr.uid with | some g => g.lr.scrBytes | none => 0
  match s.xlate o.pkg o.core o.leaf va dir .any with
  | (s, .fail) => bad s 0x0D
  | (s, .miss) =>
    let (s, e) := s.attr o.pkg (dieOf o.core) o.leaf va
    if attrValid e && !admits (attrType e) then bad s 0x0D else (s.opWalk x o va dir, .wait, scrTrans va)
  | (s, .scr) => if admits 5 && decide (va % 2 ^ 52 + n ≤ scr) then (s, .ready, scrTrans va) else bad s 0x0D
  | (s, .hit t) =>
    let pg := t.addr va / 65536
    if !admits t.mtype then bad s 0x0D
    else if s.pageReady o.pkg t.mtype t.peer pg (decide (dir = 1)) then
      if dir = 0 && consumes && s.mismatched (s.opAgent o) t va then (s.integrityFail o.thr o.core, .wait, t) else (s, .ready, t)
    else if s.pageLost pg then bad (s.opLost o pg va dir) 0x09
    else
      let s := s.needPage o.pkg x o.leaf (s.tenantId o.pkg o.leaf) t.mtype t.peer t.cmp pg va t.side (decide (dir = 1)) o.force
      (s.later (o.event x), .wait, t)

/-- How many words an engine accesses next, 0 for as many as it can, and how many rows of a copy it passes over (R179, R188). -/
def State.takeGrain (s : State) : State × Nat × Nat :=
  ({ s with grain := s.grain.drop 1 }, s.grain.headD 0 % 64, s.grain.headD 0 / 64)
/-- The part of some runs from a byte of them on, at most w words of it, and all that is left for 0. -/
def partRuns (w : Nat) : Nat → List (Nat × Nat) → List (Nat × Nat)
  | _, [] => []
  | off, (va, n) :: rest =>
    if n ≤ off then partRuns w (off - n) rest
    else if w = 0 then (va + off, n - off) :: rest
    else [(va + off, min (n - off) (4 * w - (va + off) % 4))]

/-- Every piece of several runs can be accessed: (address, bytes, direction), in order. -/
def State.opRuns (s : State) (x : Nat) (o : Op) (admits : Nat → Bool) (consumes : Bool) : List (Nat × Nat × Nat) → State × RunRes
  | [] => (s, .ready)
  | (va, n, dir) :: rest =>
    match s.opPiece x o va n dir admits consumes with
    | (s, .ready, _) => State.opRuns s x o admits consumes rest
    | (s, r, _) => (s, r)

/-- The pieces of runs with a direction. -/
def piecesOf (dir : Nat) (runs : List (Nat × Nat)) : List (Nat × Nat × Nat) :=
  runs.flatMap (fun (va, n) => (runPieces va n).map (fun (a, k) => (a, k, dir)))

/-- The translation of an address that is known to be ready. -/
def State.opTrans (s : State) (o : Op) (va dir : Nat) : State × Trans :=
  match s.xlate o.pkg o.core o.leaf va dir .any with
  | (s, .hit t) => (s, t)
  | (s, _) => (s, scrTrans va)

/-- Read a run that is ready. -/
def State.opRead (s : State) (o : Op) (va n : Nat) : State × List Byte :=
  (runPieces va n).foldl (fun (s, bs) (a, k) =>
    let (s, t) := s.opTrans o a 0
    let (s, b) := s.engRead (s.opAgent o) t a k
    (s, bs ++ b)) (s, [])
/-- Write a run that is ready. -/
def State.opWrite (s : State) (o : Op) (va : Nat) (bs : List Byte) : State :=
  ((runPieces va bs.length).foldl (fun (s, rest) (a, k) =>
    let (s, t) := State.opTrans s o a 1
    (s.engWrite (s.opAgent o) t a (rest.take k), rest.drop k)) (s, bs)).1

/-- A failed engine operation traps its issuing thread at its next instruction boundary, with ENGINE = 1; TRAPPC is the next
instruction to issue (R85, R86). Where the thread cannot trap now it stays due. -/
def State.engineTrap (s : State) (k : TKey) : State :=
  match s.group? k.uid, s.thread? k with
  | some g, some t =>
    match t.engFail with
    | [] => s
    | e :: es =>
      if t.exited then s.modThread k (fun t => { t with engFail := [] })
      else if !(g.issues || (decide (g.stepT = some k.tidx) && !g.frozen)) then s
      else
        let s := s.modThread k (fun t => { t with engFail := es })
        s.takeTrap k (trapcOf e.cause e.engine false 0) (e.pc.getD (s.nextPc k g t)) e.va some
  | _, _ => s

/-- ENGINE_FAILURE_TRAP (R85). -/
def execEngineFailureTrap (g t : Nat) (s : State) : Out := .next (s.engineTrap ⟨g, t⟩)

end Sys2Proof.Machine
end

