-- ==== Sys2Proof/Machine/Copy.lean ====
section
/-! DEFINITION. Copy commands: descriptors and their checks (R217, R218, R322, R323), the bytes that move (R219, R220), the copy
unit and the bulk engines (R221, R222), the scratchpad ring (R223). -/

namespace Sys2Proof.Machine

/-! ## Descriptors (R217, R218) -/

/-- Fields of a descriptor. -/
structure CopyDesc where
  ga : Nat
  xa : Nat
  rows : Nat
  rowb : Nat
  syncen : Bool
  stepen : Bool
  sync : Nat
  gstr : Nat
  sstr : Nat
  /-- the bits that R217 marks reserved -/
  rsv : Nat
  deriving DecidableEq, Repr

def copyDesc (blk : List DWord) : CopyDesc :=
  let f (i hi lo : Nat) : Nat := bitsOf (blk.getD i 0).toNat hi lo
  { ga := f 0 55 0, xa := f 1 55 0, rows := f 2 63 48, rowb := f 2 47 24, syncen := decide (f 2 23 23 = 1),
    stepen := decide (f 2 22 22 = 1), sync := f 2 18 0, gstr := f 3 63 32, sstr := f 3 31 0,
    rsv := f 0 63 56 + f 1 63 56 + f 2 21 19 }
def Op.desc (o : Op) : CopyDesc := copyDesc o.blk

/-- The command reads or writes scratchpad by its XA field. -/
def OpKind.scrSide : OpKind → Bool | .cpt | .cps | .cpg | .cpsc | .cpr => true | _ => false

/-- The checks of R218 on a descriptor: the cause and the offset at fault. -/
def copyCheck (kind : OpKind) (g : Group) (d : CopyDesc) (arg : Word) : Option (Nat × Nat) :=
  let scr := g.lr.scrBytes
  let indexed := decide (kind = .cpg) || decide (kind = .cpsc)
  let past (o : Nat) : Bool := decide (scr < o + (d.rows - 1) * d.sstr + d.rowb)
  if d.rsv ≠ 0 || (decide (kind ≠ .cpb) && (d.stepen || decide (d.xa / 2 ^ 19 ≠ 0))) ||
      (decide (kind = .cpr) && decide (arg.toNat / 256 ≠ 0)) then some (0x01, 0)
  else if d.syncen && decide (d.sync % 8 ≠ 0) then some (0x04, d.sync)
  else if indexed && decide (arg.toNat % 4 ≠ 0) then some (0x04, arg.toNat)
  else if d.syncen && decide (scr < d.sync + 8) then some (0x0D, d.sync)
  else if d.rows = 0 || d.rowb = 0 then none
  else if kind.scrSide && past (d.xa % 2 ^ 19) then some (0x0D, d.xa % 2 ^ 19)
  else if kind = .cpr && past (d.ga % 2 ^ 19) then some (0x0D, d.ga % 2 ^ 19)
  else if indexed && decide (scr < arg.toNat + 4 * d.rows) then some (0x0D, arg.toNat)
  else none

/-- The op is on a bulk engine. -/
def Op.bulk (o : Op) : Bool := decide (o.kind = .cpb) || (decide (o.kind = .cpz) && decide (o.engine < 16))

/-! ## Ring rotation (R223) -/

/-- The launch of an operation's group, while it is not saved. -/
def State.opLaunch (s : State) (o : Op) : Option Nat :=
  match s.group? o.thr.uid with | some g => if g.phase = .saved then none else some g.launch | none => none

/-- The first uncompleted CPR of a key on a core. -/
def State.ringAt (s : State) (p launch ring core : Nat) : Option (Nat × Op) :=
  s.ops.find? (fun (_, o) => decide (o.kind = .cpr) && decide (o.st ≠ .done) && decide (o.pkg = p) && decide (o.core = core) &&
    decide (o.arg.toNat = ring) && decide (s.opLaunch o = some launch))

/-- The core before and after a core on its cluster's ring. -/
def ringPred (c : Nat) : Nat := c / 8 * 8 + (c % 8 + 7) % 8
def ringSucc (c : Nat) : Nat := c / 8 * 8 + (c % 8 + 1) % 8

/-- The next CPR of a key on each of some cores tries to form a ring. -/
def State.retryRing (s : State) (p launch ring cluster : Nat) : State :=
  match (List.range 8).findSome? (fun n => s.ringAt p launch ring (cluster * 8 + n)) with
  | some (x, _) => s.laterOnce (.copyArrival x)
  | none => s

/-- Every access that the issuing thread made before the command has been performed (R187). -/
def State.opFollows (s : State) (x : Nat) (o : Op) : Bool := (s.accOf o.thr).all (fun (y, a) => !(decide (y < x) && a.unperformed))

/-- Form a ring once each of the eight cores has issued a CPR under the key and the accesses that its thread made before it are performed
(R187, R223); sizes that differ fail every member. -/
def State.tryRing (s : State) (p launch ring cluster : Nat) : State :=
  let ms := (List.range 8).filterMap (fun n => s.ringAt p launch ring (cluster * 8 + n))
  if ms.length < 8 || ms.any (fun (_, o) => o.formed) then s
  else
    let size (o : Op) : Nat := o.desc.rows * o.desc.rowb
    let ok := ms.all (fun (_, o) => ms.all (fun (_, q) => decide (q.core ≠ ringPred o.core) || decide (size q = size o)))
    if !ok then (ms.foldl (fun s (x, _) => s.failOp x 0x01 0) s).retryRing p launch ring cluster
    else if !ms.all (fun (x, o) => s.opFollows x o) then s.retryRing p launch ring cluster
    else ms.foldl (fun s (x, _) => (s.modOp x (fun o => { o with formed := true, st := .running })).later (.copyArrival x)) s

/-- A waiting CPR tries to form its ring. -/
def State.ringAgain (s : State) (o : Op) : State :=
  match s.opLaunch o with | some l => s.tryRing o.pkg l o.arg.toNat (clusterOf o.core) | none => s

/-- The bytes of the stream that a member has written, and the members that run together (R223). -/
def Op.moved (o : Op) : Nat := o.row * o.desc.rowb + o.off
def State.ringBehind (s : State) (o : Op) : Bool :=
  match s.opLaunch o with
  | some l => (List.range 8).any (fun n => match s.ringAt o.pkg l o.arg.toNat (o.core / 8 * 8 + n) with
      | some (_, q) => q.formed && decide (q.row < q.desc.rows) && decide (q.moved < o.moved)
      | none => false)
  | none => false

/-! ## Issue (R322, R323) -/

/-- Issue a copy command. -/
def copyIssue (kind : OpKind) (h kb : Nat) (a : Option Nat) (s : State) : Out :=
  ungoverned s (a.map (fun r => (r, 1))).toList (fun k g t =>
    roleCheck s k g 0
      (if 60 < kb then s.trapAt k 0x01 0
       else kReady s k t kb 4
        (let j := g.shareIndex k.tidx
         let blk := g.kblock j kb 4
         let arg := match a with | some r => t.rd r | none => 0
         let d := copyDesc blk
         match copyCheck kind g d arg with
         | some (c, va) => s.trapAt k c (BitVec.ofNat 64 va)
         | none =>
           let o := newOpOf k g t kind blk arg
           let toScr := decide (kind = .cpz) && decide (attrType (s.attr g.pkg (dieOf t.place.core) g.leaf d.ga).2 = 5)
           let onBulk := decide (kind = .cpb) || (decide (kind = .cpz) && !toScr)
           let mem := decide (kind ∈ [.cps, .cpsc, .cpb, .cpz])
           let note (s : State) : State := if mem then s.stored k.uid else s
           let none_ := decide (d.rows = 0) || decide (d.rowb = 0)
           if none_ then issueOp s k g t h .copy none o (fun s x => (note s).finishOp x)
           else if kind = .cpr then
             issueOp s k g t h .copy none o (fun s _ => s.tryRing g.pkg g.launch arg.toNat (clusterOf o.core))
           else if onBulk then
             let e := (s.bulkFree g.pkg (dieOf t.place.core)).getD 0
             issueOp s k g t h .copy (some 3) { o with engine := e } (fun s x =>
               let s := (note s).modDie g.pkg (dieOf t.place.core)
                 (fun q => { q with bulk := SMap.put q.bulk e (SMap.get q.bulk [] e ++ [x]) })
               if (SMap.get ((s.pkgD g.pkg).die (dieOf t.place.core)).bulk [] e).head? = some x then s.later (.copyArrival x)
               else s)
           else
             issueOp s k g t h .copy (some 0) { o with engine := 16 } (fun s x =>
               ((note s).modCore g.pkg t.place.core (fun c => { c with copyQ := c.copyQ ++ [x] })).later (.copyArrival x)))))

/-- CPT (R219, R322). -/
def execCpt (h k : Nat) (s : State) : Out := copyIssue .cpt h k none s
/-- CPS (R219, R322). -/
def execCps (h k : Nat) (s : State) : Out := copyIssue .cps h k none s
/-- CPG (R219, R322). -/
def execCpg (h k a : Nat) (s : State) : Out := copyIssue .cpg h k (some a) s
/-- CPSC (R219, R322). -/
def execCpsc (h k a : Nat) (s : State) : Out := copyIssue .cpsc h k (some a) s
/-- CPB (R219, R221, R322). -/
def execCpb (h k a : Nat) (s : State) : Out := copyIssue .cpb h k (some a) s
/-- CPZ (R219, R322). -/
def execCpz (h k a : Nat) (s : State) : Out := copyIssue .cpz h k (some a) s
/-- CPR (R223, R322). -/
def execCpr (h k a : Nat) (s : State) : Out := copyIssue .cpr h k (some a) s

/-! ## Moving pieces (R219, R220, R225) -/

/-- The global-side address of the current row. The index word is read anew for every piece (log entry 119). -/
def State.copyRow (s : State) (o : Op) : Nat :=
  let d := o.desc
  let i := match o.kind with
    | .cpg | .cpsc => s.snat o.thr.uid o.share (o.arg.toNat + 4 * o.cur) 4
    | _ => o.cur
  d.ga + i * d.gstr

/-- Bytes of a fill: byte m of a row is pattern byte m mod 4 (R219). -/
def fillBytes (pat : Word) (off n : Nat) : List Byte :=
  (List.range n).map (fun i => BitVec.ofNat 8 (pat.toNat / 2 ^ (8 * ((off + i) % 4))))

/-- The stack of a page, and two rows that qualify for in-array copy (R136, R138). -/
def stackOf (set : Nat) : Nat := bitsOf set 7 4
def State.inArray (s : State) (p ga gb : Nat) : Bool :=
  match (s.pkgD p).frameOf (ga / 65536), (s.pkgD p).frameOf (gb / 65536) with
  | some f, some h =>
    decide (stackOf (f / 16) = stackOf (h / 16)) && decide (bitsOf (f / 16) 19 16 = bitsOf (h / 16) 19 16) &&
      decide (bitsOf ga 15 10 = bitsOf gb 15 10)
  | _, _ => false
/-- The metadata of a line moves with a row (R125, R126, R160): ACT; in OBJ memory VIS, and the TAG of every word that still holds what was
copied (R201); the code, where both pages keep their codes inline. -/
def State.moveMeta (s : State) (src dst : Nat) (obj inline_ : Bool) : State :=
  let m := s.lineMeta src
  let tag := (List.range 16).foldl (fun (t : BitVec 16) i =>
    if m.tag.getLsbD i && decide (s.gbytes (src + 8 * i) 8 = s.gbytes (dst + 8 * i) 8) then t ||| (1#16 <<< i) else t) 0
  s.modMeta dst (fun n => { n with act := m.act, vis := if obj then m.vis else n.vis, tag := if obj then tag else n.tag,
                                   cmp := if inline_ then m.cmp else n.cmp })
/-- A 1 KiB row of a bulk copy or fill has been written: between frames of this package it is copied in-array or goes through the slices,
and either path gives the same metadata (R138, R160, R161). Each line of the source is translated. -/
def State.rowDone (s : State) (o : Op) (src : Option Nat) (dst : Nat) : State :=
  let (s, td) := s.opTrans o dst 1
  let d := td.addr dst
  if ((s.pkgD o.pkg).frameOf (d / 65536)).isNone || td.mtype = 5 then s
  else match src with
    | none => s.tally o.pkg 20
    | some a =>
      let here (s : State) (t : Trans) (va : Nat) : Bool := ((s.pkgD o.pkg).frameOf (t.addr va / 65536)).isSome && decide (t.mtype ≠ 5)
      let (s, ts) := s.opTrans o a 0
      let (s, te) := s.opTrans o (a + 1023) 0
      if !here s ts a || !here s te (a + 1023) then s
      else
        let s := if a % 128 ≠ 0 then s
          else (List.range 8).foldl (fun s i =>
            let (s, t) := State.opTrans s o (a + 128 * i) 0
            s.moveMeta (t.addr (a + 128 * i)) (d + 128 * i) (decide (t.mtype = 1 ∧ td.mtype = 1)) (!t.side && !td.side)) s
        s.tally o.pkg (if a % 1024 = 0 && s.inArray o.pkg (ts.addr a) d then 20 else 21)
/-- The whole 1 KiB row of the destination that a piece of n bytes completes: its rows start on 1 KiB, and `lo` and `hi` are the ends of
the command's row. -/
def rowEnd (lo hi at_ n : Nat) : Option Nat :=
  let r := (at_ + n) / 1024 * 1024
  if at_ < r && decide (lo + 1024 ≤ r) && decide (r ≤ hi) then some (r - 1024) else none

/-- The byte at dst belongs to a whole 1 KiB row of the command's row from lo to hi, with source src, that is copied in-array (R138). -/
def State.arrayRow (s : State) (o : Op) (lo hi dst src : Nat) : Bool :=
  let r := dst / 1024 * 1024
  let a := src + (r - lo)
  if lo ≤ r ∧ r + 1024 ≤ hi ∧ a % 1024 = 0 then
    match s.opTrans o a 0, s.opTrans o r 1 with
    | (_, ta), (_, td) => decide (ta.mtype ≠ 5) && decide (td.mtype ≠ 5) && s.inArray o.pkg (ta.addr a) (td.addr r)
  else false
/-- A line that an operation reads fails its check. -/
def State.badAt (s : State) (o : Op) (va : Nat) : Bool := s.mismatched (s.opAgent o) (s.opTrans o va 0).2 va
/-- The line at an operation's destination is stored with poison (R292). -/
def State.poisonAt (s : State) (o : Op) (va : Nat) : State :=
  s.modMeta ((s.opTrans o va 1).2.addr va) (fun m => { m with poison := insertNat m.poison o.pkg })

/-- A START or END record of a CPB with a step tag (R221, R270). -/
def State.stepRecord (s : State) (o : Op) (code pay1 : Nat) : State :=
  if o.kind = .cpb && o.desc.stepen then
    match s.group? o.thr.uid with
    | some g => s.trace o.pkg o.leaf code (threadName g o.thr.tidx (dieOf o.core)) o.arg.toNat pay1
    | none => s
  else s
/-- An access of a command at an address crosses a pod link: its page lies on another package, and none of this one's frames holds it. -/
def State.linkAt (s : State) (o : Op) (va dir : Nat) : Bool :=
  match (s.walk o.pkg (dieOf o.core) o.leaf va dir).2 with
  | .ok t =>
    let g := t.addr va / 65536
    decide (s.lineAt o.pkg t.mtype t.peer g ≠ o.pkg) || (decide ((s.pkgD o.pkg).pageState g = 0) && (s.masterOf g).isSome)
  | _ => false
/-- Some row of a CPB crosses a pod link. -/
def State.linkRows (s : State) (o : Op) : Bool :=
  let d := o.desc
  let pages (a : Nat) : List Nat := (rangePages a d.rowb).map (·.1)
  (List.range d.rows).any (fun r => (pages (d.ga + r * d.gstr)).any (fun a => s.linkAt o a 0) ||
    (pages (d.xa + r * d.sstr)).any (fun a => s.linkAt o a 1))
/-- START (R221): before the access that first crosses a pod link, or, where no row crosses one, at the first read. -/
def State.startRecord (s : State) (x : Nat) (o : Op) (src dst : Nat) : State × Op :=
  if o.started || decide (o.kind ≠ .cpb) || !o.desc.stepen then (s, o)
  else if s.linkAt o src 0 || s.linkAt o dst 1 || !s.linkRows o then
    ((s.modOp x (fun o => { o with started := true })).stepRecord o 11 (o.desc.rows * o.desc.rowb), { o with started := true })
  else (s, o)

/-- After n bytes of the current row: arrivals (R225), progress, and the next piece or the completion. -/
def State.pieceDone (s : State) (x : Nat) (o : Op) (n : Nat) : State :=
  let d := o.desc
  let s := if d.syncen && decide (n ≠ 0) then s.arrive o.pkg o.core o.thr.uid o.share d.sync n else s
  let s := if o.bulk then s.count o.pkg (3, 1) (dieOf o.core) n else s.count o.pkg (0, 15) o.core n
  let o := if o.off + n = d.rowb then { o with row := o.row + 1, off := 0, acked := o.acked + n }
           else { o with off := o.off + n, acked := o.acked + n }
  let s := s.setItem x (.op o)
  if d.rows ≤ o.row || (o.cancelled && decide (o.kind ≠ .cpr) && (!o.bulk || decide (o.off = 0))) then s.later (.copyComplete x)
  else s.later (.copyArrival x)

/-- How much of a piece is read from an address: to the end of its line, whole words, at most 128 bytes with what is held, and at most the
words given (R179). -/
def pieceRead (w held src left : Nat) : Nat :=
  let n := min left (min (128 - src % 128) (if held = 0 then 128 else 124))
  if w = 0 then n else min n (4 * w - src % 4)
/-- A copy takes up its next row: the first that has been passed over, or, past k more, one that has not been looked at (R188). -/
def Op.takeRow (o : Op) (k : Nat) : Op :=
  if o.off ≠ 0 || !o.held.isEmpty then o
  else match o.later, k with
    | r :: rs, 0 => { o with cur := r, later := rs }
    | l, k =>
      if o.next < o.desc.rows then
        let k := min k (o.desc.rows - 1 - o.next)
        { o with cur := o.next + k, next := o.next + k + 1, later := l ++ (List.range k).map (· + o.next) }
      else { o with cur := l.headD 0, later := l.drop 1 }
/-- How much of the bytes at hand is written: all that the row still takes, else whole words of the destination (R179). -/
def pieceWrite (have_ dst left : Nat) : Nat := if left ≤ have_ then left else have_ - (dst + have_) % 4

/-- Move one piece of a copy that has started. -/
def State.movePiece (s : State) (x : Nat) (o : Op) : State :=
  let (s, w, k) := s.takeGrain
  let o := if o.kind = .cpr then o else o.takeRow k
  let d := o.desc
  let u := o.thr.uid
  let scr := d.xa % 2 ^ 19 + o.cur * d.sstr + o.off
  let glob := s.copyRow o + o.off
  let h := o.held.length
  let left := d.rowb - o.off
  let noScr (m : Nat) : Bool := decide (m ≠ 5)
  let go (r : State × RunRes) (f : State → State) : State :=
    match r with | (s, .ready) => f s | (s, .wait) => s | (s, .fail c va) => s.failOp x c va
  let rd (src : Nat) : Nat := pieceRead w h (src + h) (left - h)
  let keep (o : Op) (bs : List Byte) (n : Nat) : Op := { o with held := bs.drop n }
  match o.kind with
  | .cpt | .cpg => go (s.opRuns x o noScr true (piecesOf 0 [(glob + h, rd glob)])) (fun s =>
      let (s, bs) := s.opRead o (glob + h) (rd glob)
      let bs := o.held ++ bs
      let n := pieceWrite bs.length scr left
      (s.sstore u o.share scr (bs.take n)).pieceDone x (keep o bs n) n)
  | .cps | .cpsc =>
      let n := pieceWrite (h + rd scr) glob left
      go (s.opRuns x o noScr true (piecesOf 1 [(glob, n)])) (fun s =>
      let bs := o.held ++ s.sbytes u o.share (scr + h) (rd scr)
      (s.opWrite o glob (bs.take n)).pieceDone x (keep o bs n) n)
  | .cpb =>
    let lo := d.xa + o.cur * d.sstr
    let dst := lo + o.off
    let n := pieceWrite (h + rd glob) dst left
    let (s, o) := s.startRecord x o (glob + h) dst
    let whole := s.arrayRow o lo (lo + d.rowb) dst (glob - o.off)
    go (s.opRuns x o noScr (!whole) (piecesOf 0 [(glob + h, rd glob)] ++ piecesOf 1 [(dst, n)])) (fun s =>
      let bad := whole && s.badAt o (glob + h)
      let (s, bs) := s.opRead o (glob + h) (rd glob)
      let bs := o.held ++ bs
      let s := s.opWrite o dst (bs.take n)
      let s := if bad then s.poisonAt o dst else s
      let s := match rowEnd lo (lo + d.rowb) dst n with | some r => s.rowDone o (some (glob - o.off + (r - lo))) r | none => s
      s.pieceDone x (keep o bs n) n)
  | .cpz =>
    let n := min left (min (128 - glob % 128) (if w = 0 then 128 else 4 * w - glob % 4))
    go (s.opRuns x o (fun _ => true) true (piecesOf 1 [(glob, n)])) (fun s =>
      let s := s.opWrite o glob (fillBytes o.arg o.off n)
      let s := match (if o.bulk then rowEnd (glob - o.off) (glob - o.off + d.rowb) glob n else none) with
        | some r => s.rowDone o none r
        | none => s
      s.pieceDone x o n)
  | .cpr =>
    match (s.opLaunch o).bind (fun l => s.ringAt o.pkg l o.arg.toNat (ringPred o.core)) with
    | none => s.later (.copyArrival x)
    | some (_, q) =>
      if s.ringBehind o then s.later (.copyArrival x)
      else
        let e := q.desc
        let pos := o.moved + h
        let src := e.xa % 2 ^ 19 + pos / e.rowb * e.sstr + pos % e.rowb
        let m := pieceRead w h src (min (e.rowb - pos % e.rowb) (e.rows * e.rowb - pos))
        let bs := o.held ++ s.sbytes q.thr.uid q.share src m
        let dst := d.ga % 2 ^ 19 + o.row * d.sstr + o.off
        let n := pieceWrite bs.length dst left
        (s.sstore u o.share dst (bs.take n)).pieceDone x (keep o bs n) n
  | _ => s

/-- COPY_ARRIVAL (R225): a piece of at most 128 bytes moves and its arrival is applied. Commands of one thread on the copy unit
start in issue order (R222); a bulk engine takes its queue in order. -/
def execCopyArrival (x : Nat) (s : State) : Out := .next (
  match s.op? x with
  | none => s
  | some o =>
    if o.st = .done || o.st = .suspended || !(decide (o.kind ∈ [.cpt, .cps, .cpg, .cpsc, .cpb, .cpz, .cpr])) then s
    else if o.desc.rows ≤ o.row then s.laterOnce (.copyComplete x)
    else if o.st = .queued then
      let q := (s.coreOf o.pkg o.core).copyQ
      let before := (q.takeWhile (fun y => decide (y ≠ x))).any (fun y => match s.op? y with
        | some p => decide (p.thr = o.thr) && decide (p.st = .queued) | none => false)
      let head := !o.bulk || decide ((SMap.get ((s.pkgD o.pkg).die (dieOf o.core)).bulk [] o.engine).head? = some x)
      if o.kind = .cpr then s.ringAgain o
      else if !head then s
      else if before || !s.opMayStart x o then s.later (.copyArrival x)
      else (s.modOp x (fun o => { o with st := .running })).movePiece x { o with st := .running }
    else if o.cancelled && (decide (o.kind ≠ .cpr) && (!o.bulk || decide (o.off = 0))) then s.laterOnce (.copyComplete x)
    else s.movePiece x o)

/-- COPY_COMPLETE (R323): the operation is DONE; a CPR waits until its successor has its bytes (R223); a CPB writes END (R221). -/
def execCopyComplete (x : Nat) (s : State) : Out := .next (
  match s.op? x with
  | none => s
  | some o =>
    if o.st ≠ .running || !(decide (o.kind ∈ [.cpt, .cps, .cpg, .cpsc, .cpb, .cpz, .cpr])) then s
    else if decide (o.row < o.desc.rows) && !(o.cancelled && (decide (o.kind ≠ .cpr) && (!o.bulk || decide (o.off = 0)))) then s
    else if o.kind = .cpr then
      let next := (s.opLaunch o).bind (fun l => s.ringAt o.pkg l o.arg.toNat (ringSucc o.core))
      let busy := match next with | some (_, q) => q.formed && decide (q.row < q.desc.rows) | none => false
      if busy then s.later (.copyComplete x)
      else
        let l := s.opLaunch o
        match l with
        | some l => (s.finishOp x).retryRing o.pkg l o.arg.toNat (clusterOf o.core)
        | none => s.finishOp x
    else
      let s := if o.started then s else s.stepRecord o 11 (o.desc.rows * o.desc.rowb)
      (s.stepRecord o 12 o.acked).finishOp x)

end Sys2Proof.Machine
end

