-- ==== Sys2Proof/Machine/Matrix.lean ====
section
/-! DEFINITION. The matrix engine: accumulator tiles (R227), operand blocks and their checks (R229 to R231, R237, R238, R363), the
order of sums (R111), sparse operands (R234), progress (R236), scaling, loading and storing tiles (R98, R237, R238, R377). -/

namespace Sys2Proof.Machine

/-! ## Tiles (R227) -/

/-- The 8,192 elements of a tile, row by row; an unlisted element is +0. -/
def tileElems (m : SMap Word) (z : Nat) : List Word :=
  let rec go : Nat → Nat → SMap Word → List Word
    | 0, _, _ => []
    | n + 1, key, [] => 0 :: go n (key + 1) []
    | n + 1, key, (k, v) :: l => if k = key then v :: go n (key + 1) l else 0 :: go n (key + 1) ((k, v) :: l)
  go 8192 (z * 8192) (m.dropWhile (fun ((k, _) : Nat × Word) => decide (k < z * 8192)))
/-- Replace a tile's elements. -/
def tileSet (m : SMap Word) (z : Nat) (es : List Word) : SMap Word :=
  m.takeWhile (fun ((k, _) : Nat × Word) => decide (k < z * 8192)) ++
    ((es.zipIdx).filterMap (fun (v, i) => if v = 0 then none else some (z * 8192 + i, v))) ++
    m.dropWhile (fun ((k, _) : Nat × Word) => decide (k < z * 8192 + 8192))

def State.tile (s : State) (p c z : Nat) : List Word := tileElems (s.coreOf p c).tiles z
def State.setTile (s : State) (p c z : Nat) (es : List Word) : State :=
  s.modCore p c (fun k => { k with tiles := tileSet k.tiles z es })

/-- The group takes the core's tiles at its first MATRIX command there; they start at +0. -/
def State.takeTiles (s : State) (uid j p c : Nat) : State :=
  match (s.coreOf p c).tilesOf with
  | some _ => s
  | none => (s.modCore p c (fun k => { k with tilesOf := some (uid, j), tiles := [] })).modShare uid j
              (fun h => { h with tiles := true })

/-! ## Kinds and blocks (R229 to R231) -/

/-- The kind of a matrix kind code. -/
def mmaKind : Nat → Option Kind
  | 0 => some .e4m3 | 1 => some .e5m2 | 2 => some .e2m3 | 3 => some .e3m2 | 4 => some .e2m1 | 5 => some .bf16 | 6 => some .f16
  | 7 => some .f32 | 8 => some .b2 | 9 => some .b3 | 10 => some .b4 | 11 => some .b5 | 12 => some .b6 | 13 => some .b7
  | 14 => some .b8 | _ => none

/-- The fields of an MMA block. -/
structure MmaDesc where
  aaddr : Nat
  astr : Nat
  akind : Nat
  baddr : Nat
  bstr : Nat
  bkind : Nat
  nkb : Nat
  spa : Bool
  part : Bool
  tb : Bool
  rsv : Nat
  deriving DecidableEq, Repr

def mmaDesc (blk : List DWord) : MmaDesc :=
  let f (i hi lo : Nat) : Nat := bitsOf (blk.getD i 0).toNat hi lo
  { aaddr := f 0 55 0, astr := f 1 63 32, akind := f 1 3 0, baddr := f 2 55 0, bstr := f 3 63 32, bkind := f 3 3 0,
    nkb := f 4 63 48, spa := decide (f 4 2 2 = 1), part := decide (f 4 1 1 = 1), tb := decide (f 4 0 0 = 1),
    rsv := f 0 63 56 + f 1 31 4 + f 2 63 56 + f 3 31 4 + f 4 47 3 + f 5 63 0 + f 6 63 0 + f 7 63 0 }

/-- The checks of R231; `st` is the start block of MMAS. -/
def mmaCheck (d : MmaDesc) (st : Nat) : Option (Nat × Nat) :=
  let wide (k : Nat) : Bool := decide (k = 5) || decide (k = 6)
  if d.rsv ≠ 0 || decide (d.akind = 7 ∨ d.akind = 15 ∨ d.bkind = 7 ∨ d.bkind = 15) ||
      (decide (d.akind ≠ d.bkind) && (wide d.akind || wide d.bkind)) || decide (d.nkb = 0) ||
      (d.part && decide (d.nkb ≠ 1)) || (d.spa && wide d.akind) || decide (d.nkb ≤ st ∧ st ≠ 0) then some (0x01, 0)
  else match [d.aaddr, d.baddr, d.astr, d.bstr].find? (fun v => decide (v % 16 ≠ 0)) with
    | some v => some (0x04, v)
    | none => none

/-- The block of MST and MLDA: address, stride, kind, policy, reserved bits (R238). -/
structure TileDesc where
  addr : Nat
  str : Nat
  kind : Nat
  pol : Nat
  rsv : Nat
  deriving DecidableEq, Repr
def tileDesc (store : Bool) (blk : List DWord) : TileDesc :=
  let f (i hi lo : Nat) : Nat := bitsOf (blk.getD i 0).toNat hi lo
  { addr := f 0 55 0, str := f 1 63 32, kind := f 1 7 4, pol := f 1 1 0,
    rsv := f 0 63 56 + f 1 31 8 + f 1 3 2 + (if store then 0 else f 1 1 0) }
def tileCheck (store : Bool) (d : TileDesc) : Option (Nat × Nat) :=
  if d.rsv ≠ 0 || decide (7 < d.kind) || (!store && decide (d.kind < 5)) then some (0x01, 0)
  else if d.addr % 16 ≠ 0 then some (0x04, d.addr)
  else if d.str % 16 ≠ 0 then some (0x04, d.str)
  else none

/-! ## Issue (R363) -/

/-- Issue a MATRIX command after its checks; `mem` says that it stores to memory other than scratchpad (R72). -/
def matrixIssue (s : State) (k : TKey) (g : Group) (t : Thread) (h : Nat) (o : Op) (mem : Bool) (f : Thread → Thread) : State :=
  issueOp s k g t h .tile (some 1) o (fun s x =>
    let c := t.place.core
    let s := if mem then s.stored k.uid else s
    let s := (s.takeTiles k.uid o.share g.pkg c).modThread k f
    let s := s.modCore g.pkg c (fun q => { q with matQ := q.matQ ++ [x] })
    if (s.coreOf g.pkg c).matQ.head? = some x then s.later (o.event x) else s)

/-- MMA and MMAS: the start block is 0 or v[a] (R232). -/
def issueMma (s : State) (k : TKey) (g : Group) (t : Thread) (h kb st z : Nat) : State :=
  roleCheck s k g 1
    (if 56 < kb then s.trapAt k 0x01 0
     else kReady s k t kb 8
      (let blk := g.kblock (g.shareIndex k.tidx) kb 8
       match mmaCheck (mmaDesc blk) st with
       | some (c, va) => s.trapAt k c (BitVec.ofNat 64 va)
       | none => matrixIssue s k g t h { newOpOf k g t .mma blk 0 with z := z, row := st } false id))
/-- MMA (R232, R363). -/
def execMma (h k z : Nat) (s : State) : Out := ungoverned s [] (fun i g t => issueMma s i g t h k 0 z)
/-- MMAS (R232, R363). -/
def execMmas (h k a z : Nat) (s : State) : Out :=
  ungoverned s [(a, 1)] (fun i g t => issueMma s i g t h k (t.rd a).toNat z)
/-- MZ (R238, R363). -/
def execMz (h z : Nat) (s : State) : Out :=
  ungoverned s [] (fun i g t => roleCheck s i g 1 (matrixIssue s i g t h { newOpOf i g t .mz [] 0 with z := z } false id))
/-- MST and MLDA after the role check. -/
def issueTile (s : State) (k : TKey) (g : Group) (t : Thread) (store : Bool) (h kb z : Nat) : State :=
  roleCheck s k g 1
    (if 62 < kb then s.trapAt k 0x01 0
     else kReady s k t kb 2
      (let blk := g.kblock (g.shareIndex k.tidx) kb 2
       let d := tileDesc store blk
       match tileCheck store d with
       | some (c, va) => s.trapAt k c (BitVec.ofNat 64 va)
       | none =>
         let o := { newOpOf k g t (if store then .mst else .mlda) blk 0 with z := z }
         let mem := store && decide (attrType (s.attr g.pkg (dieOf t.place.core) g.leaf d.addr).2 ≠ 5)
         matrixIssue s k g t h o mem (fun t =>
           if store && decide (t.fmode.toNat % 8 = 4) then { t with seed := seedAfter t.seed 8192 } else t)))
/-- MST (R238, R363). -/
def execMst (h k z : Nat) (s : State) : Out := ungoverned s [] (fun i g t => issueTile s i g t true h k z)
/-- MLDA (R238, R363). -/
def execMlda (h k z : Nat) (s : State) : Out := ungoverned s [] (fun i g t => issueTile s i g t false h k z)
/-- SCACC (R237, R377): row scales at bits 18:0, column scales at bits 50:32 of k(ks). -/
def execScacc (h k p z : Nat) (s : State) : Out :=
  ungoverned s [] (fun i g t => roleCheck s i g 1 (kReady s i t k 1
    (let b := (g.rdK (g.shareIndex i.tidx) k).toNat
     let ra := bitsOf b 18 0
     let ca := bitsOf b 50 32
     let scr := g.lr.scrBytes
     if z = p || bitsOf b 31 19 ≠ 0 || bitsOf b 63 51 ≠ 0 then s.trapAt i 0x01 0
     else if ra % 2 = 1 then s.trapAt i 0x04 (BitVec.ofNat 64 ra)
     else if ca % 2 = 1 then s.trapAt i 0x04 (BitVec.ofNat 64 ca)
     else if scr < ra + 128 then s.trapAt i 0x0D (BitVec.ofNat 64 ra)
     else if scr < ca + 256 then s.trapAt i 0x0D (BitVec.ofNat 64 ca)
     else matrixIssue s i g t h { newOpOf i g t .scacc [BitVec.ofNat 64 b] 0 with z := z, zp := p } false id)))

/-! ## One K-block (R111, R232, R234) -/

/-- 128 elements of a kind from packed bytes (R93); an operand keeps its subnormals whatever FTZ holds (R103). -/
def blockElems (k : Kind) (bs : List Byte) : List FVal :=
  let n := leNat bs
  (List.range 128).map (fun i => kindRead k false (n / 2 ^ (k.width * i)))

/-- A sparse line: 128 positions, unset ones none; `none` when malformed (R234). -/
def sparseElems (k : Kind) (bs : List Byte) : Option (List (Option FVal)) :=
  let bm := leNat (bs.take 16)
  let vs := leNat (bs.drop 16)
  let cnt := ((List.range 128).filter (fun i => bm.testBit i)).length
  if 112 * 8 < cnt * k.width then none
  else
    let (out, _) := (List.range 128).foldl (fun (out, n) i =>
      if bm.testBit i then (out ++ [some (kindRead k false (vs / 2 ^ (k.width * n)))], n + 1) else (out ++ [none], n))
      (([] : List (Option FVal)), 0)
    some out

/-- The exact product of two positions: none for an invalid one; a position left out gives +0, and a product of two integers has
no negative zero. -/
def position (ints : Bool) (a : Option FVal) (b : FVal) : Option FVal :=
  match a with
  | none => some (.fin false 0 0)
  | some a =>
    match FVal.mul a b with
    | some (.fin n m e) => some (if ints && decide (m = 0) then .fin false 0 0 else .fin n m e)
    | r => r

/-- One exact sum of 16 products, rounded once; a NaN of any kind sets IV (R111). -/
def chunkSum (ftz : Bool) (ps : List (Option FVal)) : FRes :=
  if ps.any Option.isNone then ⟨fmt32.nanBits, flagIV⟩
  else
    let vs := ps.filterMap id
    let pinf := vs.any (fun v => decide (v = .inf false))
    let ninf := vs.any (fun v => decide (v = .inf true))
    if vs.any FVal.isNan then ⟨fmt32.nanBits, flagIV⟩
    else if pinf && ninf then ⟨fmt32.nanBits, flagIV⟩
    else if pinf then ⟨fmt32.infBits false, 0⟩
    else if ninf then ⟨fmt32.infBits true, 0⟩
    else
      let sum := vs.foldl (fun (d : Dy) v => match v with | .fin n m e => d.add (Dy.ofFin n m e) | _ => d) ⟨0, 0⟩
      let zeros (sg : Bool) : Bool := vs.all (fun v => match v with | .fin n m _ => decide (m = 0) && decide (n = sg) | _ => false)
      fmt32.roundSum ftz 0 sum (zeros true) (zeros false)

/-- The chunk of a 16-bit kind: rounded after each product; a NaN of any kind sets IV (R111). -/
def chunkSteps (ftz : Bool) (ps : List (Option FVal)) : FRes :=
  ps.foldl (fun (c : FRes) p =>
    match p with
    | none => ⟨fmt32.nanBits, c.flags ||| flagIV⟩
    | some v =>
      let iv := if v.isNan then flagIV else 0
      let r := fmt32.add ftz 0 (fmt32.read ftz c.bits) v; ⟨r.bits, c.flags ||| r.flags ||| iv⟩) ⟨0, 0⟩

/-- Cut a list into runs of 16. -/
def chunks16 {α : Type} (l : List α) : List (List α) := (List.range 8).map (fun m => (l.drop (16 * m)).take 16)

/-- One output over a K-block: the eight chunks added to the target in turn (R111). -/
def dotBlock (ftz wide ints : Bool) (t : Word) (a : List (Option FVal)) (b : List FVal) : FRes :=
  (chunks16 (a.zip b)).foldl (fun (r : FRes) ch =>
    let ps := ch.map (fun (x, y) => position ints x y)
    let c := if wide then chunkSteps ftz ps else chunkSum ftz ps
    let z := fmt32.add ftz 0 (fmt32.read ftz r.bits) (fmt32.read ftz c.bits)
    ⟨z.bits, r.flags ||| c.flags ||| z.flags⟩) ⟨t.toNat, 0⟩

/-- Columns of 128 rows of 128 elements. -/
def columns (rows : List (List FVal)) : List (List FVal) :=
  (List.range 128).map (fun j => rows.map (fun r => r.getD j (.fin false 0 0)))

/-- The runs of bytes that one K-block reads. -/
def mmaRuns (d : MmaDesc) (wa wb blk : Nat) : List (Nat × Nat) :=
  (List.range 64).map (fun i => if d.spa then (d.aaddr + i * d.astr + 128 * blk, 128)
                                else (d.aaddr + i * d.astr + blk * 16 * wa, 16 * wa)) ++
  (List.range 128).map (fun k => if d.tb then (d.baddr + k * d.bstr + blk * 16 * wb, 16 * wb)
                                 else (d.baddr + (blk * 128 + k) * d.bstr, 16 * wb))

/-- Matrix operands: scratchpad or a global type but HOST and PRIV (R230). -/
def mmaType (m : Nat) : Bool := decide (m ≠ 4) && decide (m ≠ 6)

/-- Access the next part of an operation's operand, which lies in some runs (R179, R188): `done` once it has been accessed whole, else `more`;
the runs' pages are there, or the operation waits or fails. -/
def State.operandPart (s : State) (x : Nat) (o : Op) (dir : Nat) (runs : List (Nat × Nat)) (act : State → List (Nat × Nat) → State)
    (fail : State → Nat → DWord → State) (more done : State → State) : State :=
  let (s, w, _) := s.takeGrain
  let part := partRuns w o.off runs
  match s.opRuns x o mmaType true (piecesOf dir part) with
  | (s, .wait) => s
  | (s, .fail c va) => fail s c va
  | (s, .ready) =>
    let n := part.foldl (fun n (_, k) => n + k) 0
    let s := (act s part).modOp x (fun o => { o with off := o.off + n })
    if o.off + n < runs.foldl (fun n (_, k) => n + k) 0 then more s else done s
/-- Read the next part of an operand: the bytes are kept until the operand is whole. -/
def State.readPart (s : State) (x : Nat) (o : Op) (runs : List (Nat × Nat)) (fail : State → Nat → DWord → State)
    (done : State → List Byte → State) : State :=
  s.operandPart x o 0 runs (fun s part =>
      let (s, bs) := part.foldl (fun (s, out) (va, n) => let (s, b) := State.opRead s o va n; (s, out ++ b)) (s, ([] : List Byte))
      s.modOp x (fun o => { o with held := o.held ++ bs }))
    fail (fun s => s.later (o.event x))
    (fun s =>
      let bs := ((s.op? x).map (·.held)).getD []
      done (s.modOp x (fun o => { o with held := [], off := 0 })) bs)
/-- Write the next part of what an operation holds for an operand. -/
def State.writePart (s : State) (x : Nat) (o : Op) (runs : List (Nat × Nat)) (fail : State → Nat → DWord → State) (done : State → State) : State :=
  s.operandPart x o 1 runs (fun s part =>
      (part.foldl (fun ((s, bs) : State × List Byte) (va, n) => (State.opWrite s o va (bs.take n), bs.drop n)) (s, o.held.drop o.off)).1)
    fail (fun s => s.later (o.event x)) done
/-- The bytes of several runs, run by run. -/
def splitRuns : List (Nat × Nat) → List Byte → List (List Byte)
  | [], _ => []
  | (_, n) :: rest, bs => bs.take n :: splitRuns rest (bs.drop n)

/-- MPRG of the issuing thread (R236). -/
def mprgOf (fail susp : Bool) (z kdone : Nat) : Word :=
  BitVec.ofNat 32 (bitOf fail * 2 ^ 31 + bitOf susp * 2 ^ 30 + z * 2 ^ 16 + kdone % 2 ^ 16)
def State.setMprg (s : State) (o : Op) (fail susp : Bool) (kdone : Nat) : State :=
  s.modThread o.thr (fun t => { t with mprg := mprgOf fail susp o.z kdone })

/-- Perform one K-block of an operation whose operands have been read, row by row. -/
def State.performBlock (s : State) (x : Nat) (o : Op) (d : MmaDesc) (ka kb : Kind) (rows : List (List Byte)) : State :=
  let ftz := ftzOf o.fmode.toNat
  let as_ := (rows.take 64).map (fun bs =>
    if d.spa then sparseElems ka bs else some ((blockElems ka bs).map some))
  if as_.any Option.isNone then s.failOp x 0x01 0
  else
    let a := as_.filterMap id
    let b := (rows.drop 64).map (blockElems kb)
    let cols := if d.tb then b else columns b
    let old := if d.part then List.replicate 8192 (0 : Word) else s.tile o.pkg o.core o.z
    let wide := decide (d.akind = 5) || decide (d.akind = 6)
    let ints := decide (8 ≤ d.akind) && decide (8 ≤ d.bkind)
    let cells := (a.zipIdx).flatMap (fun (r, i) => (cols.zipIdx).map (fun (c, j) => (r, c, i * 128 + j)))
    let res := (cells.zip old).map (fun ((r, c, _), t) => dotBlock ftz wide ints t r c)
    let flags := res.foldl (fun f r => f ||| r.flags) 0
    let half := d.spa && as_.all (fun r => decide (((r.getD []).filter Option.isSome).length ≤ 64))
    let s := s.setTile o.pkg o.core o.z (res.map (fun r => BitVec.ofNat 32 r.bits))
    let s := s.modOp x (fun o => { o with row := o.row + 1, flags := o.flags ||| BitVec.ofNat 32 flags })
    let s := (s.setMprg o false false (o.row + 1)).count o.pkg (0, 18) o.core 1
    let s := if half then s.count o.pkg (0, 19) o.core 1 else s
    if o.row + 1 < d.nkb then s.later (.kBlockDone x) else s.later (.matrixComplete x)

/-- A command at the head of its core's matrix queue starts. -/
def State.matHead (s : State) (x : Nat) (o : Op) : Bool := decide ((s.coreOf o.pkg o.core).matQ.head? = some x)

/-- K_BLOCK_DONE (R232): the next K-block of an MMA is performed whole, or the operation waits. -/
def execKBlockDone (x : Nat) (s : State) : Out := .next (
  match s.op? x with
  | none => s
  | some o =>
    if o.kind ≠ .mma || o.st = .done || o.st = .suspended || !s.matHead x o then s
    else if s.withheld o.pkg || (decide (o.st = .queued) && !s.opMayStart x o) then s.later (.kBlockDone x)
    else
      let s := if o.st = .queued then (s.modOp x (fun o => { o with st := .running })).setMprg o false false o.row else s
      let o := { o with st := .running }
      let d := mmaDesc o.blk
      if d.nkb ≤ o.row then s.laterOnce (.matrixComplete x)
      else if o.cancelled then (s.setMprg o true false o.row).finishOp x
      else match mmaKind d.akind, mmaKind d.bkind with
        | some ka, some kb =>
          let runs := mmaRuns d ka.width kb.width o.row
          s.readPart x o runs (fun s c va => s.failOp x c va) (fun s bs => s.performBlock x o d ka kb (splitRuns runs bs))
        | _, _ => s.failOp x 0x01 0)

/-! ## MZ, MST, MLDA, SCACC (R98, R237, R238) -/

/-- Pack 128 elements of a kind into bytes (R93). -/
def packElems (w : Nat) (vs : List Nat) : List Byte :=
  leBytes (16 * w) ((vs.zipIdx).foldl (fun n (v, i) => n + v % 2 ^ w * 2 ^ (w * i)) 0)

/-- Rows of a tile. -/
def rows128 {α : Type} (l : List α) : List (List α) := (List.range 64).map (fun i => (l.drop (128 * i)).take 128)

/-- The elements of a tile in a target kind with their flags; `none` under an overflow trap (R105, R238). -/
def mstConvert (k : Kind) (pol : Policy) (o : Op) (es : List Word) : Option (List Nat × Nat) :=
  if k = .f32 then some (es.map BitVec.toNat, 0)
  else
    let ftz := ftzOf o.fmode.toNat
    (es.zipIdx).foldr (fun (v, j) acc =>
      match acc with
      | none => none
      | some (l, f) =>
        match convert k pol ftz (o.fmode.toNat % 8) (drawOf o.seed j).toNat (fmt32.read ftz v.toNat) with
        | .trap => none
        | .ok r => some (r.bits :: l, f ||| r.flags)) (some ([], 0))

/-- The policy of a block (R238). -/
def policyCode : Nat → Policy | 0 => .sat | 1 => .inf | 2 => .nan | _ => .trap

/-- An element that MLDA loads (R238). -/
def mldaElem (k : Kind) (ftz : Bool) (v : Nat) : FRes :=
  if k = .f32 then
    let z := ftz && decide (bitsOf v 30 23 = 0)
    ⟨if z then v / 2 ^ 31 * 2 ^ 31 else v, 0⟩
  else cvtRes .f32 k ftz v

/-- One output of SCACC (R98). -/
def scaccElem (ftz : Bool) (acc part : Word) (sa sb : Nat) : FRes :=
  if sa = 511 || sb = 511 then ⟨fmt32.nanBits, flagIV⟩
  else
    let p := match fmt32.read ftz part.toNat with
      | .fin n m e => FVal.fin n m (e + ((sa : Int) - 255) + ((sb : Int) - 255))
      | v => v
    fmt32.add ftz 0 (fmt32.read ftz acc.toNat) p

/-- Perform a tile command at the head of its queue. -/
def State.performTile (s : State) (x : Nat) (o : Op) : State :=
  let flagged (s : State) (f : Nat) : State := (s.modOp x (fun o => { o with flags := BitVec.ofNat 32 f })).finishOp x
  let ftz := ftzOf o.fmode.toNat
  match o.kind with
  | .mz => (s.setTile o.pkg o.core o.z (List.replicate 8192 0)).finishOp x
  | .mst =>
    let d := tileDesc true o.blk
    let k := (mmaKind d.kind).getD .f32
    match mstConvert k (policyCode d.pol) o (s.tile o.pkg o.core o.z) with
    | none => s.failOp x 0x08 0
    | some (vs, fl) =>
      let runs := (List.range 64).map (fun i => (d.addr + i * d.str, 16 * k.width))
      s.writePart x { o with held := (rows128 vs).flatMap (packElems k.width) } runs (fun s c va => s.failOp x c va) (fun s => flagged s fl)
  | .mlda =>
    let d := tileDesc false o.blk
    let k := (mmaKind d.kind).getD .f32
    let runs := (List.range 64).map (fun i => (d.addr + i * d.str, 16 * k.width))
    s.readPart x o runs (fun s c va => s.failOp x c va) (fun s bs =>
      let res := (splitRuns runs bs).flatMap (fun bs => let n := leNat bs
                                                        (List.range 128).map (fun i => mldaElem k ftz (n / 2 ^ (k.width * i) % 2 ^ k.width)))
      flagged (s.setTile o.pkg o.core o.z (res.map (fun r => BitVec.ofNat 32 r.bits))) (res.foldl (fun f r => f ||| r.flags) 0))
  | .scacc =>
    let scale (off i : Nat) : Nat := s.snat o.thr.uid o.share (off + 2 * i) 2 % 512
    let ra := o.w 0 18 0
    let ca := o.w 0 50 32
    let sas := (List.range 64).map (scale ra)
    let sbs := (List.range 128).map (scale ca)
    let acc := rows128 (s.tile o.pkg o.core o.z)
    let prt := rows128 (s.tile o.pkg o.core o.zp)
    let res := ((acc.zip prt).zip sas).flatMap (fun ((ar, pr), sa) =>
      ((ar.zip pr).zip sbs).map (fun ((a, p), sb) => scaccElem ftz a p sa sb))
    flagged (s.setTile o.pkg o.core o.z (res.map (fun r => BitVec.ofNat 32 r.bits))) (res.foldl (fun f r => f ||| r.flags) 0)
  | _ => s

/-- MATRIX_COMPLETE (R363): an MMA whose blocks are performed, or a tile command that takes effect; its handle becomes DONE and its
flags merge. -/
def execMatrixComplete (x : Nat) (s : State) : Out := .next (
  match s.op? x with
  | none => s
  | some o =>
    if !(decide (o.kind ∈ [.mma, .mz, .mst, .mlda, .scacc])) || o.st = .done || o.st = .suspended || !s.matHead x o then s
    else if o.kind = .mma then (if (mmaDesc o.blk).nkb ≤ o.row then s.finishOp x else s)
    else if o.st = .queued && !s.opMayStart x o then s.later (.matrixComplete x)
    else (s.modOp x (fun o => { o with st := .running })).performTile x { o with st := .running })

end Sys2Proof.Machine
end

