-- ==== Sys2Proof/Machine/Scan.lean ====
section
/-! DEFINITION. The scan engine: operators and their programs (R240 to R243), the SCN operand block and its checks (R244, R245), the
combine order (R246), its queue (R247). -/

namespace Sys2Proof.Machine

/-! ## Operators (R240, R242) -/

/-- A tuple of FP32 encodings. -/
abbrev Tup := List Word

/-- The built-in operators as micro-operation programs (R240). -/
def builtinOp : Nat → Option OpProg
  | 0 => some ⟨2, [0x30000400, 0x41000415]⟩
  | 1 => some ⟨4, [0x30000520, 0x40000408, 0x31000530, 0x41000419, 0x32000720, 0x4200060A, 0x33000730, 0x4300061B]⟩
  | 2 => some ⟨2, [0x10000040, 0x11000410, 0x51000950]⟩
  | _ => none

/-- A source of a micro-operation: L, R, T or a constant; a source beyond n − 1 among L or R reads +0 (R242). -/
def uopSource (l r t : Tup) (c : Nat) : Word :=
  if c < 4 then l.getD c 0 else if c < 8 then r.getD (c - 4) 0 else if c < 12 then t.getD (c - 8) 0
  else match c with | 12 => 0 | 13 => 0x3F800000 | 14 => 0xFF800000 | _ => 0x7F800000

/-- One micro-operation: T after it, with its flags (R242). -/
def uopStep (ftz : Bool) (rm : Nat) (l r : Tup) (st : Tup × Nat) (u : Word) : Tup × Nat :=
  let (t, fl) := st
  let w := u.toNat
  let src (hi lo : Nat) : Word := uopSource l r t (bitsOf w hi lo)
  let v (hi lo : Nat) : FVal := fmt32.read ftz (src hi lo).toNat
  let set (x : FRes) : Tup × Nat := (t.set (bitsOf w 25 24) (BitVec.ofNat 32 x.bits), fl ||| x.flags)
  match bitsOf w 31 28 with
  | 1 => set (fmt32.add ftz rm (v 11 8) (v 7 4))
  | 2 => set (fmt32.add ftz rm (v 11 8) (v 7 4).neg)
  | 3 => set (fmt32.mul ftz rm (v 11 8) (v 7 4))
  | 4 => set (fmt32.fma ftz rm (v 11 8) (v 7 4) (v 3 0))
  | 5 => set (fmt32.minMax true (v 11 8) (v 7 4))
  | 6 => set (fmt32.minMax false (v 11 8) (v 7 4))
  | 7 => (t.set (bitsOf w 25 24) (src 11 8), fl)
  | _ => (t, fl)

/-- left ∘ right under a program, with FMODE captured at issue (R242). -/
def OpProg.combine (p : OpProg) (fmode : Word) (l r : Tup) : Tup × Nat :=
  let (t, fl) := p.uops.foldl (uopStep (ftzOf fmode.toNat) (rmOf fmode.toNat) l r) ([0, 0, 0, 0], 0)
  (t.take p.n, fl)

/-- A micro-operation word that R242 admits. -/
def uopOk (u : Word) : Bool :=
  decide (1 ≤ bitsOf u.toNat 31 28 ∧ bitsOf u.toNat 31 28 ≤ 7) && decide (bitsOf u.toNat 27 26 = 0) &&
    decide (bitsOf u.toNat 23 12 = 0)

/-- The program of a 40-byte record; none when U or N is out of range, an OPC is reserved or a reserved bit is set (R242, R243). -/
def opProgOf (bs : List Byte) : Option OpProg :=
  let w := leNat (bs.take 8)
  let u := bitsOf w 7 4
  let n := bitsOf w 2 0
  let us := (List.range u).map (fun i => BitVec.ofNat 32 (leNat ((bs.drop (8 + 4 * i)).take 4)))
  if bitsOf w 63 8 ≠ 0 || bitsOf w 3 3 ≠ 0 || !(decide (1 ≤ u ∧ u ≤ 8)) || !(decide (1 ≤ n ∧ n ≤ 4)) || !us.all uopOk then none
  else some ⟨n, us⟩

/-! ## The operand block (R244, R245) -/

structure ScnDesc where
  inp : Nat
  out : Nat
  len : Nat
  ch : Nat
  outm : Nat
  opsel : Nat
  ibf : Bool
  cin : Nat
  cout : Bool
  fout : Bool
  fin_ : Nat
  init : Nat
  rsv : Nat
  deriving DecidableEq, Repr

def scnDesc (blk : List DWord) : ScnDesc :=
  let f (i hi lo : Nat) : Nat := bitsOf (blk.getD i 0).toNat hi lo
  { inp := f 0 55 0, out := f 1 55 0, len := f 2 63 51, ch := f 2 50 44, outm := f 2 43 40, opsel := f 2 39 37,
    ibf := decide (f 2 36 36 = 1), cin := f 2 35 34, cout := decide (f 2 33 33 = 1), fout := decide (f 2 32 32 = 1),
    fin_ := f 3 50 32, init := f 3 18 0, rsv := f 0 63 56 + f 1 63 56 + f 2 31 0 + f 3 63 51 + f 3 31 19 }
def Op.scn (o : Op) : ScnDesc := scnDesc o.blk
/-- Bytes of an input element. -/
def ScnDesc.esize (d : ScnDesc) : Nat := if d.ibf then 2 else 4

/-- An extent of INIT or FIN that is used and reaches outside the share: its offset. -/
def scnExtent (d : ScnDesc) (n scr : Nat) : Option Nat :=
  let past (o : Nat) : Bool := decide (scr < o + d.ch * n * 4)
  if d.cin = 1 && past d.init then some d.init else if d.fout && past d.fin_ then some d.fin_ else none

/-- The checks of R245 at issue. -/
def scnCheck (d : ScnDesc) (scr : Nat) (member : Bool) : Option (Nat × Nat) :=
  let bad := match builtinOp d.opsel with | some p => decide (2 ^ p.n ≤ d.outm) | none => decide (d.opsel = 3)
  if d.rsv ≠ 0 || decide (d.len = 0 ∨ 4096 < d.len ∨ d.ch = 0 ∨ 64 < d.ch) || decide (d.cin = 3) || decide (d.outm = 0) || bad then
    some (0x01, 0)
  else if d.inp % d.esize ≠ 0 then some (0x04, d.inp)
  else match [d.out, d.init, d.fin_].find? (fun v => decide (v % 4 ≠ 0)) with
    | some v => some (0x04, v)
    | none =>
      match (builtinOp d.opsel).bind (fun p => scnExtent d p.n scr) with
      | some v => some (0x0D, v)
      | none => if (d.cin = 2 || d.cout) && !member then some (0x0F, 0) else none

/-- Issue a VECTOR command to the scan engine (R247). -/
def scanIssue (s : State) (k : TKey) (g : Group) (t : Thread) (h : Nat) (o : Op) (mem : Bool) (f : Thread → Thread) : State :=
  issueOp s k g t h .tile (some 2) o (fun s x =>
    let c := t.place.core
    let s := ((if mem then s.stored k.uid else s).modThread k f).modCore g.pkg c (fun q => { q with scanQ := q.scanQ ++ [x] })
    if (s.coreOf g.pkg c).scanQ.head? = some x then s.later (o.event x) else s)

/-- SCN (R244, R378). -/
def execScn (h k : Nat) (s : State) : Out :=
  ungoverned s [] (fun i g t => roleCheck s i g 2
    (if 60 < k then s.trapAt i 0x01 0
     else kReady s i t k 4
      (let j := g.shareIndex i.tidx
       let blk := g.kblock j k 4
       let d := scnDesc blk
       let m := (g.shares[j]?).bind (·.rail)
       match scnCheck d g.lr.scrBytes m.isSome with
       | some (c, va) => s.trapAt i c (BitVec.ofNat 64 va)
       | none =>
         let mem := decide (attrType (s.attr g.pkg (dieOf t.place.core) g.leaf d.out).2 ≠ 5)
         scanIssue s i g t h (newOpOf i g t .scn blk 0) mem (fun t =>
           match m with
           | some m => if d.cin = 2 || d.cout then { t with railUse := insertNat t.railUse m.chain } else t
           | none => t))))
/-- SCOP (R243, R378). -/
def execScop (h a x : Nat) (s : State) : Out :=
  ungoverned s [(a, 1)] (fun i g t => roleCheck s i g 2
    (let o := (t.rd a).toNat % 2 ^ 19
     if o % 8 ≠ 0 then s.trapAt i 0x04 (BitVec.ofNat 64 o)
     else if g.lr.scrBytes < o + 40 then s.trapAt i 0x0D (BitVec.ofNat 64 o)
     else scanIssue s i g t h { newOpOf i g t .scop [] (BitVec.ofNat 32 o) with z := x } false id))

/-! ## The combine order (R246) -/

/-- Values under a scan, with the flags raised so far. -/
structure Fold where
  g : List Tup
  flags : Nat

/-- g(i) := g(i − d) ∘ g(i) for i = first, first + 2d, … below m. -/
def Fold.sweep (op : Tup → Tup → Tup × Nat) (d m : Nat) : Nat → Nat → Fold → Fold
  | 0, _, f => f
  | n + 1, i, f =>
    if m ≤ i then f
    else
      let (t, fl) := op (f.g.getD (i - d) []) (f.g.getD i [])
      Fold.sweep op d m n (i + 2 * d) ⟨f.g.set i t, f.flags ||| fl⟩

/-- The up-sweep over d = 1, 2, 4, … -/
def Fold.up (op : Tup → Tup → Tup × Nat) (m : Nat) : Nat → Nat → Fold → Fold
  | 0, _, f => f
  | n + 1, d, f => if m ≤ d then f else Fold.up op m n (2 * d) (f.sweep op d m m (2 * d - 1))
/-- The down-sweep over d, d / 2, …, 1. -/
def Fold.down (op : Tup → Tup → Tup × Nat) (m : Nat) : Nat → Nat → Fold → Fold
  | 0, _, f => f
  | n + 1, d, f => if d = 0 then f else Fold.down op m n (d / 2) (f.sweep op d m m (3 * d - 1))

/-- Step 1: fold each block of 16. -/
def blockFold (op : Tup → Tup → Tup × Nat) : List Tup → Tup × Nat
  | [] => ([], 0)
  | x :: l => l.foldl (fun (a, fl) y => let (z, f) := op a y; (z, fl ||| f)) (x, 0)
def blocks16 {α : Type} (l : List α) : List (List α) := (List.range ((l.length + 15) / 16)).map (fun j => (l.drop (16 * j)).take 16)

/-- Steps 1 and 2 (R246). -/
def foldBlocks (op : Tup → Tup → Tup × Nat) (xs : List Tup) : Fold :=
  let bs := (blocks16 xs).map (blockFold op)
  let m := bs.length
  let f : Fold := ⟨bs.map (·.1), bs.foldl (fun a (_, b) => a ||| b) 0⟩
  (f.up op m 16 1).down op m 16 (2 ^ Nat.log2 m / 2)

/-- Steps 3 and 4 for one channel: the outgoing carry, the prefixes, the flags. -/
def scanChannel (op : Tup → Tup → Tup × Nat) (c : Option Tup) (xs : List Tup) : Tup × List Tup × Nat :=
  let f := foldBlocks op xs
  let bs := blocks16 xs
  let last := f.g.getD (bs.length - 1) []
  let (co, fl) := match c with | none => (last, f.flags) | some c => let (t, x) := op c last; (t, f.flags ||| x)
  let (ps, fl) := (bs.zipIdx).foldl (fun (ps, fl) (b, j) =>
    let (x0, fl) := match c, j with
      | none, 0 => (none, fl)
      | some c, 0 => (some c, fl)
      | none, j + 1 => (some (f.g.getD j []), fl)
      | some c, j + 1 => let (t, y) := op c (f.g.getD j []); (some t, fl ||| y)
    let (_, out, fl) := b.foldl (fun (x, out, fl) v =>
      match x with
      | none => (some v, out ++ [v], fl)
      | some x => let (t, y) := op x v; (some t, out ++ [t], fl ||| y)) (x0, ([] : List Tup), fl)
    (ps ++ out, fl)) (([] : List Tup), fl)
  (co, ps, fl)

/-! ## Performing an SCN -/

/-- The program an SCN names: built in, or in a slot of the share's operator table. -/
def State.scnProg (s : State) (o : Op) : Option OpProg :=
  let d := o.scn
  if d.opsel < 4 then builtinOp d.opsel
  else (s.share? o.thr.uid o.share).bind (fun h => SMap.find? h.optab (d.opsel - 4))

/-- An input value (R244): BF16 widens exactly to FP32, and FTZ then makes a subnormal a zero of its sign (R103). -/
def scnInput (d : ScnDesc) (ftz : Bool) (v : Nat) : Word :=
  if d.ibf then BitVec.ofNat 32 ((if ftz && decide (v / 128 % 256 = 0) then v / 32768 * 32768 else v) * 65536) else BitVec.ofNat 32 v

/-- Inputs of a channel (R244). -/
def scnInputs (d : ScnDesc) (ftz : Bool) (n : Nat) (bs : List Byte) (c : Nat) : List Tup :=
  let e := d.esize
  (List.range d.len).map (fun t => (List.range n).map (fun q =>
    scnInput d ftz (leNat ((bs.drop (((t * d.ch + c) * n + q) * e)).take e))))

/-- The carry-in of a channel from a list of values. -/
def carryOf (vals : List Word) (n c : Nat) : Tup := (vals.drop (c * n)).take n

/-- The values of a scan: carries out by channel, prefixes by channel, flags. -/
def scanAll (p : OpProg) (fmode : Word) (d : ScnDesc) (bs : List Byte) (carry : Option (List Word)) :
    List (Tup × List Tup × Nat) :=
  (List.range d.ch).map (fun c => scanChannel (p.combine fmode) (carry.map (fun v => carryOf v p.n c)) (scnInputs d (ftzOf fmode.toNat) p.n bs c))

/-- The output bytes (R244): the OUTM values of each prefix, step by step, channel by channel. -/
def scanBytes (d : ScnDesc) (n : Nat) (chs : List (List Tup)) : List Byte :=
  let qs := (List.range n).filter (fun q => d.outm.testBit q)
  (List.range d.len).flatMap (fun t => chs.flatMap (fun ps => qs.flatMap (fun q => leBytes 4 ((ps.getD t []).getD q 0).toNat)))

/-- FP32 values at a scratchpad offset. -/
def State.swords (s : State) (u j o n : Nat) : List Word :=
  (List.range n).map (fun i => BitVec.ofNat 32 (s.snat u j (o + 4 * i) 4))

/-- The scan engine's queue has the operation at its head. -/
def State.scanHead (s : State) (x : Nat) (o : Op) : Bool := decide ((s.coreOf o.pkg o.core).scanQ.head? = some x)

end Sys2Proof.Machine
end

