-- ==== Sys2Proof/Machine/Rail.lean ====
section
/-! DEFINITION. The carry rail: chains, carries, faults, RSYNC and RLEAVE (R248 to R251, R376), and how scans start and complete
(R245 to R247, R249). -/

namespace Sys2Proof.Machine

/-- The release part of an operation that the issuing thread completes: earlier accesses first, then the close of a phase where one
is closed (R174, R175, R185, R338). `body` follows. -/
def releaseFirst (s : State) (k : TKey) (g : Group) (t : Thread) (acqP relP wide closes : Bool) (body : State) : State :=
  match t.wait with
  | .fence _ _ _ _ (some _) => body
  | _ =>
    if (s.accOf k).any (fun (_, a) => fenceWaits acqP relP wide a) then s.stay k (.fence s.nextId acqP relP wide none)
    else if closes then
      match s.closePhase g.pkg t.place.core with
      | (s, none) => (if t.wait = .epoch then s else s.countStall g.pkg t.place.core).stay k .epoch
      | (s, some n) => s.stay k (.fence s.nextId acqP relP wide (some n))
    else body

/-! ## Chains (R248) -/

def State.chain? (s : State) (p launch id : Nat) : Option Chain :=
  (s.pkgD p).chains.find? (fun c => decide (c.launch = launch) && decide (c.id = id))
def State.modChain (s : State) (p launch id : Nat) (f : Chain → Chain) : State :=
  s.modPkg p (fun q => { q with chains := q.chains.map (fun c => if c.launch = launch && c.id = id then f c else c) })
def State.dropChain (s : State) (p launch id : Nat) : State :=
  let s := s.modPkg p (fun q => { q with chains := q.chains.filter (fun c => !(decide (c.launch = launch) && decide (c.id = id))) })
  { s with items := s.items.filter (fun ((_, i) : Nat × Item) => match i with
      | .carry c => !(decide (c.pkg = p) && decide (c.launch = launch) && decide (c.chain = id))
      | _ => true) }

/-- The shares that are members of a chain: group instance and share. -/
def State.chainShares (s : State) (p launch id : Nat) : List (Nat × Nat) :=
  s.groups.flatMap (fun (u, g) =>
    if g.pkg = p && g.launch = launch then
      (g.shares.zipIdx).filterMap (fun (h, j) => match h.rail with
        | some m => if m.chain = id then some (u, j) else none
        | none => none)
    else [])

/-- End a share's membership record and its threads' use of the chain. -/
def State.forgetRail (s : State) (u j id : Nat) : State :=
  (s.modShare u j (fun h => { h with rail := none })).modGroup u (fun g =>
    { g with threads := (g.threads.zipIdx).map (fun (t, n) =>
               if g.shareIndex n = j then { t with railUse := eraseNat t.railUse id } else t) })

/-- A rail fault dissolves a chain (R251). -/
def State.railFault (s : State) (p launch id : Nat) : State :=
  let ms := s.chainShares p launch id
  let s := s.tally p 29
  let s := s.ops.foldl (fun s (x, o) =>
    if o.rail && decide (o.st ≠ .done) && ms.any (fun (u, j) => o.ofShare u j) then
      ((s.modOp x (fun o => { o with flags := 0 })).dropWalksOf x).finishOp x else s) s
  let s := ms.foldl (fun s (u, j) =>
    match s.group? u with
    | none => s
    | some g => (g.threads.zipIdx).foldl (fun s (t, n) =>
        if g.shareIndex n = j && !t.exited && decide (id ∈ t.railUse) then
          (s.modThread ⟨u, n⟩ (fun t => { t with engFail := t.engFail ++ [⟨false, 0x0F, 0, none⟩] })).later (.engineFailureTrap u n)
        else s) s) s
  let s := ms.foldl (fun s (u, j) => s.forgetRail u j id) s
  s.dropChain p launch id

/-- A membership ends without a fault: its position is vacant; the last one discards the hub's carries (R250). -/
def State.endMembership (s : State) (p launch u j : Nat) (m : RailMem) : State :=
  let s := s.forgetRail u j m.chain
  let s := s.modChain p launch m.chain (fun c => { c with members := SMap.del c.members m.pos, inbox := SMap.del c.inbox m.pos })
  match s.chain? p launch m.chain with
  | some c => if c.members.isEmpty then s.dropChain p launch m.chain else s
  | none => s

/-- A member takes carries while its group is placed (R76). -/
def State.memberHere (s : State) (c : Chain) (pos : Nat) : Option (Nat × Nat) :=
  match SMap.find? c.members pos with
  | some (u, j) => match s.group? u with
    | some g => if g.phase = .saved || g.phase = .saving then none else some (u, j)
    | none => none
  | none => none

/-- A carry reaches an inbox, and an SCN that waits for it may start (R249). -/
def State.inboxPut (s : State) (p launch id : Nat) (c : Carry) : State :=
  let s := (s.modChain p launch id (fun ch => { ch with inbox := SMap.put ch.inbox c.pos (SMap.get ch.inbox [] c.pos ++ [c]) })).tally p 28
  match (s.chain? p launch id).bind (fun ch => s.memberHere ch c.pos) with
  | none => s
  | some (u, j) => match s.share? u j with
    | none => s
    | some h => match s.carryWaiter p h.core u j with
      | some x => s.laterOnce (.scanStart x)
      | none => s

/-- The inbox of a position takes one more carry: its member is placed, and it holds fewer than 4 (R249). -/
def State.inboxOpen (s : State) (ch : Chain) (pos : Nat) : Bool :=
  ch.formed && (s.memberHere ch pos).isSome && decide ((SMap.get ch.inbox [] pos).length < 4)
/-- One carry of the hub is delivered, where its inbox is open: the others wait (R76, R249, R250). -/
def State.hubGive (s : State) (p launch id : Nat) (c : Carry) : State :=
  match s.chain? p launch id with
  | none => s
  | some ch =>
    if s.inboxOpen ch c.pos then
      (s.modChain p launch id (fun ch => { ch with hub := ch.hub.erase c })).inboxPut p launch id c
    else s
/-- The hub delivers what it can, in arrival order. -/
def State.hubDeliver (s : State) (p launch id : Nat) : State :=
  match s.chain? p launch id with
  | none => s
  | some ch => ch.hub.foldl (fun s c => State.hubGive s p launch id c) s

/-- A carry to the same member was sent before this one (R249). -/
def State.carryBehind (s : State) (x : Nat) (c : Carry) : Bool :=
  s.items.any (fun ((y, i) : Nat × Item) => match i with
    | .carry b => decide (y < x) && decide (b.pkg = c.pkg ∧ b.launch = c.launch ∧ b.chain = c.chain ∧ b.pos = c.pos)
    | _ => false)

/-- CARRY_ARRIVAL (R249): a carry reaches the hub and, when its inbox is open, its member; carries to one member arrive as they were
sent. -/
def execCarryArrival (x : Nat) (s : State) : Out := .next (
  match s.item? x with
  | some (.carry c) =>
    if s.carryBehind x c then s.later (.carryArrival x)
    else ((s.dropItem x).modChain c.pkg c.launch c.chain (fun ch => { ch with hub := ch.hub ++ [c] })).hubDeliver c.pkg c.launch c.chain
  | _ => s)

/-! ## RSYNC (R250) -/

/-- A member has arrived: every non-exited thread of its VECTOR crews waits in RSYNC at this generation, and its rail SCNs have
completed. -/
def State.railArrived (s : State) (gen u j : Nat) : Bool :=
  match s.group? u with
  | none => false
  | some g =>
    (g.threads.zipIdx).all (fun (t, n) =>
      decide (g.shareIndex n ≠ j) || decide (g.lr.role (n / 32) ≠ 2) || t.exited || decide (t.wait = .rsync gen)) &&
    s.ops.all (fun (_, o) => !(o.ofShare u j && o.rail && decide (o.st ≠ .done)))

/-- RSYNC completes for a thread that waits in it; one that is held or saved passes it when it next issues (R76, R250). -/
def State.rsyncRelease (s : State) (gen u j : Nat) : State :=
  s.modGroup u (fun g =>
    { g with threads := (g.threads.zipIdx).map (fun (t, n) =>
               if g.lets n && decide (g.shareIndex n = j) && decide (t.wait = .rsync gen) then t.released else t) })

/-- RSYNC completes once every member of a formed chain has arrived: the waiting threads continue. -/
def State.rsyncCheck (s : State) (p launch id : Nat) : State :=
  match s.chain? p launch id with
  | none => s
  | some c =>
    if decide (c.members.length = c.count) && c.members.all (fun ((_, u, j) : Nat × Nat × Nat) => s.railArrived c.gen u j) then
      let s := s.modChain p launch id (fun c => { c with gen := c.gen + 1 })
      c.members.foldl (fun s ((_, u, j) : Nat × Nat × Nat) => s.rsyncRelease c.gen u j) s
    else s
/-- The chains of a group's shares are looked at again. -/
def State.rsyncChecks (s : State) (u : Nat) : State :=
  match s.group? u with
  | none => s
  | some g => g.shares.foldl (fun s h => match h.rail with
      | some m => s.rsyncCheck g.pkg g.launch m.chain
      | none => s) s

/-- RJOIN (R248). -/
def execRjoin (a : Nat) (s : State) : Out :=
  ungoverned s [(a, 1)] (fun k g t => roleCheck s k g 2
    (let v := (t.rd a).toNat
     let m : RailMem := { chain := bitsOf v 7 0, pos := bitsOf v 13 8, count := bitsOf v 22 16 }
     let j := g.shareIndex k.tidx
     let used (t : Thread) : Thread := { t with railUse := insertNat t.railUse m.chain }
     if bitsOf v 15 14 ≠ 0 || bitsOf v 31 23 ≠ 0 || !(decide (1 ≤ m.count ∧ m.count ≤ 64)) || decide (m.count ≤ m.pos) then
       s.trapAt k 0x01 0
     else match (g.shares[j]?).bind (·.rail) with
       | some old => if old = m then s.retire k used else s.trapAt k 0x01 0
       | none =>
         let s := (s.modShare k.uid j (fun h => { h with rail := some m })).retire k used
         let s := match s.chain? g.pkg g.launch m.chain with
           | some _ => s
           | none =>
             let c : Chain := { launch := g.launch, id := m.chain, count := m.count, members := [], formed := false, inbox := [],
                                hub := [], gen := 0 }
             s.modPkg g.pkg (fun q => { q with chains := q.chains ++ [c] })
         match s.chain? g.pkg g.launch m.chain with
         | none => s
         | some c =>
           if c.count ≠ m.count || (SMap.find? c.members m.pos).isSome then s.railFault g.pkg g.launch m.chain
           else
             let ms := SMap.put c.members m.pos (k.uid, j)
             (s.modChain g.pkg g.launch m.chain
               (fun c => { c with members := ms, formed := c.formed || decide (ms.length = m.count) })).hubDeliver g.pkg g.launch m.chain))

/-- RSYNC (R250): a release at PACKAGE scope, then the wait for every member. A thread whose RSYNC completed while it was held passes. -/
def execRsync (s : State) : Out :=
  ungoverned s [] (fun k g t => roleCheck s k g 2 (if s.passedWait k g t then s.retire k id else ordered s k t
    (match (g.shares[g.shareIndex k.tidx]?).bind (·.rail) with
     | none => s.trapAt k 0x0F 0
     | some m =>
       match s.chain? g.pkg g.launch m.chain, t.wait with
       | none, _ => s.trapAt k 0x0F 0
       | some c, w =>
         if w = .rsync c.gen then s else
         releaseFirst s k g t false true true true
           (((s.modThread k (fun t => { t with railUse := insertNat t.railUse m.chain })).stay k (.rsync c.gen)).rsyncCheck
             g.pkg g.launch m.chain))))

/-- End a share's membership as RLEAVE does: a carry in its inbox or an SCN that waits for one is a rail fault (R250). -/
def State.leaveRail (s : State) (p launch u j : Nat) (m : RailMem) : State :=
  let inbox := match s.chain? p launch m.chain with | some c => SMap.get c.inbox [] m.pos | none => []
  let waiting := match s.share? u j with | some h => (s.carryWaiter p h.core u j).isSome | none => false
  if !inbox.isEmpty || waiting then s.railFault p launch m.chain else s.endMembership p launch u j m

/-- RLEAVE (R250). -/
def execRleave (s : State) : Out :=
  ungoverned s [] (fun k g t => roleCheck s k g 2 (ordered s k t
    (let j := g.shareIndex k.tidx
     match (g.shares[j]?).bind (·.rail) with
     | none => s.retire k id
     | some m =>
       if s.railBusy k.uid j then s.stay k .rleave
       else (s.retire k id).leaveRail g.pkg g.launch k.uid j m)))

/-! ## Scans -/

/-- An engine command fails; waiters in RSYNC are looked at again (R250). -/
def State.failEngine (s : State) (x cause : Nat) (va : DWord) : State :=
  match s.op? x with
  | some o => (s.failOp x cause va).rsyncChecks o.thr.uid
  | none => s
/-- A scan command fails; waiters in RSYNC are looked at again. -/
def State.failScan (s : State) (x : Nat) (o : Op) (cause : Nat) (va : DWord) : State :=
  (s.failOp x cause va).rsyncChecks o.thr.uid

/-- A started SCN obtains its carry-in and goes on; without a carry it waits (R246, R249). -/
def State.scanCarryIn (s : State) (x : Nat) (o : Op) (g : Group) (p : OpProg) : State :=
  let d := o.scn
  let run (s : State) (c : Option (List Word)) : State :=
    (s.modOp x (fun o => { o with st := .running, carry := c })).later (.scanComplete x)
  if d.cin = 0 then run s none
  else if d.cin = 1 then run s (some (s.swords o.thr.uid o.share d.init (d.ch * p.n)))
  else match (g.shares[o.share]?).bind (·.rail) with
    | none => s.failScan x o 0x0F 0
    | some m => match s.chain? g.pkg g.launch m.chain with
      | none => s
      | some c => match SMap.get c.inbox [] m.pos with
        | [] => s
        | cr :: rest =>
          if cr.n ≠ p.n || cr.ch ≠ d.ch then s.railFault g.pkg g.launch m.chain
          else run ((s.modChain g.pkg g.launch m.chain (fun c => { c with inbox := SMap.set c.inbox [] m.pos rest })).hubDeliver
            g.pkg g.launch m.chain) (some cr.vals)

/-- SCAN_START (R245 to R247, R249): the head of the queue is checked and reads its inputs, which need no carry; then it takes its
carry-in. -/
def execScanStart (x : Nat) (s : State) : Out := .next (
  match s.op? x with
  | none => s
  | some o =>
    if o.kind ≠ .scn || o.st ≠ .queued || !s.scanHead x o then s
    else if s.withheld o.pkg || !s.opMayStart x o then s.later (.scanStart x)
    else match s.group? o.thr.uid, s.scnProg o with
      | none, _ => s
      | _, none => s.failScan x o 0x01 0
      | some g, some p =>
        let d := o.scn
        if o.started then s.scanCarryIn x o g p
        else if 2 ^ p.n ≤ d.outm then s.failScan x o 0x01 0
        else match scnExtent d p.n g.lr.scrBytes with
          | some v => s.failScan x o 0x0D (BitVec.ofNat 64 v)
          | none =>
            let n := d.len * d.ch * p.n * d.esize
            s.readPart x o [(d.inp, n)] (fun s c va => s.failScan x o c va) (fun s bs =>
              let o := { o with held := bs, off := 0, started := true }
              (s.setItem x (.op o)).scanCarryIn x o g p))

/-- Carries on their way to a position. -/
def State.carriesTo (s : State) (p launch id pos : Nat) : Nat :=
  (s.items.filter (fun ((_, i) : Nat × Item) => match i with
    | .carry c => decide (c.pkg = p) && decide (c.launch = launch) && decide (c.chain = id) && decide (c.pos = pos)
    | _ => false)).length

/-- The successor's position and whether its inbox has room: carries that wait at the hub for a saved member count as in it (R76,
R249). A position that nobody has joined has no inbox, and the hub holds what is sent to it. -/
def State.sendTo (s : State) (g : Group) (o : Op) : Option (RailMem × Nat × Bool) :=
  match (g.shares[o.share]?).bind (·.rail) with
  | none => none
  | some m =>
    let succ := (m.pos + 1) % m.count
    let room := match s.chain? g.pkg g.launch m.chain with
      | some c =>
        !c.formed || (SMap.find? c.members succ).isNone ||
          decide ((SMap.get c.inbox [] succ).length + (c.hub.filter (fun k => decide (k.pos = succ))).length +
            s.carriesTo g.pkg g.launch m.chain succ < 4)
      | none => true
    some (m, succ, room)
/-- An SCN at step 3 waits for room in its successor's inbox (R249). -/
def State.scanRoom (s : State) (o : Op) : Bool :=
  match s.group? o.thr.uid with
  | some g => !o.scn.cout || o.sent || (match s.sendTo g o with | some (_, _, r) => r | none => true)
  | none => true
/-- The engine of a core is held: its head waits for a carry-in, or for inbox room (R253). -/
def State.scanHeld (s : State) (p c : Nat) : Bool :=
  match (s.coreOf p c).scanQ.head?.bind s.op? with
  | some o => decide (o.kind = .scn) && o.started && (decide (o.st = .queued) || (decide (o.st = .running) && !s.scanRoom o))
  | none => false

/-- Step 3 of a scan, before the fix-up's outputs are written: the carry out, FIN (R246). -/
def State.scanCarryOut (s : State) (x : Nat) (o : Op) (g : Group) (p : OpProg) : State × Op :=
  let d := o.scn
  let res := scanAll p o.fmode d o.held o.carry
  let couts := res.flatMap (fun (c, _, _) => c)
  let flags := res.foldl (fun f (_, _, fl) => f ||| fl) 0
  let s := match (if d.cout then s.sendTo g o else none) with
    | some (m, succ, _) =>
      let (s, y) := s.newItem (.carry { pkg := g.pkg, launch := g.launch, chain := m.chain, pos := succ, n := p.n, ch := d.ch,
                                        vals := couts })
      s.later (.carryArrival y)
    | none => s
  let s := if d.fout then s.sstore o.thr.uid o.share d.fin_ (couts.flatMap (fun v => leBytes 4 v.toNat)) else s
  let o := { o with held := scanBytes d p.n (res.map (fun (_, ps, _) => ps)), flags := BitVec.ofNat 32 flags, sent := true }
  (s.setItem x (.op o), o)

/-- SCAN_COMPLETE (R243, R246, R247): a started SCN sends its carry, writes its outputs and merges its flags; a SCOP at the head of the
queue loads its slot. A full successor inbox holds the SCN (R249). -/
def execScanComplete (x : Nat) (s : State) : Out := .next (
  match s.op? x with
  | none => s
  | some o =>
    if !s.scanHead x o then s
    else if o.kind = .scop && decide (o.st = .queued) then
      if !s.opMayStart x o then s.later (.scanComplete x)
      else match opProgOf (s.sbytes o.thr.uid o.share o.arg.toNat 40) with
        | none => s.failScan x o 0x01 0
        | some p => (s.modShare o.thr.uid o.share (fun h => { h with optab := SMap.put h.optab o.z p })).finishOp x
    else if o.kind = .scn && decide (o.st = .running) then
      match s.group? o.thr.uid, s.scnProg o with
      | some g, some p =>
        if s.withheld o.pkg || !s.scanRoom o then s.later (.scanComplete x)
        else
          let (s, o) := if o.sent then (s, o) else s.scanCarryOut x o g p
          s.writePart x o [(o.scn.out, o.held.length)] (fun s c va => s.failScan x o c va)
            (fun s => ((s.count o.pkg (0, 22) o.core 1).finishOp x).rsyncChecks o.thr.uid)
      | _, _ => s.failScan x o 0x01 0
    else s)

end Sys2Proof.Machine
end

