-- ==== Sys2Proof/Machine/Sync.lean ====
section
/-! DEFINITION. Sync-word instructions (R224 to R226, R386), handles and their tokens (R40, R41, R340 to R346). -/

namespace Sys2Proof.Machine

/-- An access of the bank that completes before its instruction retires waits for the earlier accesses that R183 keeps before it. -/
def bankFirst (s : State) (k : TKey) (a : Access) (body : State) : State :=
  match (s.accOf k).filter (fun (_, b) => keepsBefore b a) with
  | [] => body
  | xs => s.stay k (.accs (xs.map (·.1)))

/-- A scratchpad offset of a sync word or token: aligned to n and within the share (R135, R346, R386). -/
def offsetOk (s : State) (k : TKey) (g : Group) (o n : Nat) (body : State) : State :=
  if o % n ≠ 0 then s.trapAt k 0x04 (BitVec.ofNat 64 o)
  else if g.lr.scrBytes < o + n then s.trapAt k 0x0D (BitVec.ofNat 64 o)
  else body

/-- A scratchpad access of the thread as R183 sees it. -/
def State.bankAccess (s : State) (k : TKey) (g : Group) (t : Thread) (kind : AccKind) (o n : Nat) : Access :=
  s.newAccess k g t kind n (BitVec.ofNat 64 o)

/-- n bytes at a scratchpad offset as a load of the thread takes them: its own earlier stores that are not performed yet lie over the
bank's bytes (R182, item 2). -/
def State.bankNat (s : State) (k : TKey) (g : Group) (t : Thread) (kind : AccKind) (o n : Nat) : Nat :=
  leNat (s.overlay s.nextId (s.bankAccess k g t kind o n) 0 o (s.sbytes k.uid (g.shareIndex k.tidx) o n))

/-- SWARM (R226, R386): TARGET := n, then an arrival of 0 bytes. Every thread that issues it acts (R302, R366). -/
def execSwarm (a b : Nat) (s : State) : Out :=
  ungoverned s [(a, 1), (b, 1)] (fun k g t =>
    let o := (t.rd a).toNat
    let j := g.shareIndex k.tidx
    offsetOk s k g o 8 (bankFirst s k (s.bankAccess k g t (.atoms .add32 true) o 8)
      (let (_, arr, gen) := s.syncWord k.uid j o
       ((s.syncPut g.pkg t.place.core k.uid j o ((t.rd b).toNat % 2 ^ 24) arr gen 0).retire k id).fireWatch k o 8 true false true)))

/-- SWADD (R226, R386): an arrival as a release at GROUP scope. -/
def execSwadd (a b : Nat) (s : State) : Out :=
  ungoverned s [(a, 1), (b, 1)] (fun k g t =>
    let o := (t.rd a).toNat
    offsetOk s k g o 8 (ordered s k t (releaseFirst s k g t false true false (closesPhase .grp g)
      (((s.arrive g.pkg t.place.core k.uid (g.shareIndex k.tidx) o ((t.rd b).toNat % 2 ^ 24)).retire k id).fireWatch
        k o 8 true false true))))

/-- SWAIT (R226, R386): an acquire at GROUP scope. It reads the word as its thread's own stores leave it (R182). -/
def execSwait (a b : Nat) (s : State) : Out :=
  ungoverned s [(a, 1), (b, 1)] (fun k g t =>
    let o := (t.rd a).toNat
    let w := t.rd b
    offsetOk s k g o 8 (ordered s k t (bankFirst s k (s.bankAccess k g t (.lds .d64) o 8)
      (if swaitBlocks (s.bankNat k g t (.lds .d64) o 2) w then s.stay k (.swait o w)
       else (s.retire k id).fireWatch k o 8 true true false))))

/-! ## Handles (R341 to R344) -/

/-- HWAIT (R342). -/
def execHwait (h : Nat) (s : State) : Out :=
  ungoverned s [] (fun k _ t => if s.opDone (t.rdH h) then s.retire k id else s.stay k (.hwait (t.rdH h)))
/-- HTEST (R342). -/
def execHtest (h p : Nat) (s : State) : Out :=
  ungoverned s [] (fun k _ t => s.retire k (fun u => u.wrP p (predOf (s.opDone (t.rdH h)))))
/-- HMOV (R344). -/
def execHmov (h src : Nat) (s : State) : Out :=
  ungoverned s [] (fun k _ _ => s.retire k (fun t => t.wrH h (t.rdH src)))

/-- An operation has not started in the sense of R343. -/
def Op.notStarted (o : Op) : Bool := decide (o.st = .queued) && !o.formed

/-- Cancel an operation (R343). A suspended bulk command in the middle of a row stays so until its row can end. -/
def State.cancelOp (s : State) (x : Nat) : State :=
  match s.op? x with
  | none => s
  | some o =>
    if o.st = .done || o.cancelled then s
    else if o.notStarted then
      let s := (s.removeOp x).rsyncChecks o.thr.uid
      if o.kind = .cpr then
        match s.group? o.thr.uid with
        | some g => s.tryRing o.pkg g.launch o.arg.toNat (clusterOf o.core)
        | none => s
      else s
    else
      let s := s.modOp x (fun o => { o with cancelled := true })
      let stops := decide (o.kind ∈ [.cpt, .cps, .cpg, .cpsc, .cpb, .cpz, .mma])
      let atRow := decide (o.off = 0) && o.held.isEmpty
      if o.st = .suspended && stops && (atRow || !decide (o.kind ∈ [.cpb, .cpz]) || decide (16 ≤ o.engine)) then
        ((s.dropWalksOf x).modOp x (fun o => { o with st := .running, held := [] })).later (o.event x)
      else s
/-- HCAN (R343). -/
def execHcan (h : Nat) (s : State) : Out :=
  ungoverned s [] (fun k _ t => (s.retire k id).cancelOp (t.rdH h))

/-! ## Handle tokens (R345, R346) -/

/-- The token of an entry (R345). -/
def tokenOf (share gen entry : Nat) : Nat := 2 ^ 31 + share % 64 * 2 ^ 25 + gen % 2 ^ 13 * 2 ^ 12 + entry % 2 ^ 12

/-- The registry entry that an operation already has in some share of the group, the thread's own share first. -/
def Group.entryOf (g : Group) (j x : Nat) : Option (Nat × Nat × Nat) :=
  let inShare (i : Nat) : Option (Nat × Nat × Nat) :=
    match g.shares[i]? with
    | none => none
    | some h => (List.find? (fun ((_, e) : Nat × RegEnt) => decide (e.op = x)) h.registry).map (fun (n, e) => (i, e.gen, n))
  (j :: List.range g.shares.length).findSome? inShare

/-- The lowest number that a registry does not list. -/
def freeEntry (r : SMap RegEnt) : Option Nat := (List.range 4096).find? (fun n => (SMap.find? r n).isNone)

/-- The entry whose operation became DONE earliest. -/
def State.oldestDone (s : State) (r : SMap RegEnt) : Option (Nat × RegEnt) :=
  let at_ (e : RegEnt) : Nat := match s.op? e.op with | some o => o.doneAt | none => 0
  (r.filter (fun ((_, e) : Nat × RegEnt) => s.opDone e.op)).foldl (fun b (n, e) =>
    match b with
    | none => some (n, e)
    | some (m, f) => if at_ e < at_ f then some (n, e) else some (m, f)) none

/-- The token of an operation, taking a registry entry where it has none (R345). -/
def State.takeToken (s : State) (u : Nat) (g : Group) (j x : Nat) : Option (State × Nat) :=
  match g.entryOf j x with
  | some (i, gen, n) => some (s, tokenOf i gen n)
  | none => match g.shares[j]? with
    | none => none
    | some h =>
      let put (n gen : Nat) : State × Nat :=
        (s.modShare u j (fun h => { h with registry := SMap.put h.registry n ⟨x, gen⟩, regGens := SMap.set h.regGens 0 n gen }),
         tokenOf j gen n)
      match freeEntry h.registry with
      | some n => some (put n (SMap.get h.regGens 0 n))
      | none => (s.oldestDone h.registry).map (fun (n, e) => put n ((e.gen + 1) % 8192))

/-- HST (R346). -/
def execHst (h a : Nat) (s : State) : Out :=
  ungoverned s [(a, 1)] (fun k g t =>
    let o := (t.rd a).toNat
    let j := g.shareIndex k.tidx
    let x := t.rdH h
    offsetOk s k g o 4 (bankFirst s k (s.bankAccess k g t .sts o 4)
      (let store (s : State) (v : Nat) : State := ((s.sstore k.uid j o (leBytes 4 v)).retire k id).fireWatch k o 4 true false true
       if x = 0 then store s 0
       else match s.takeToken k.uid g j x with
         | some (s, v) => store s v
         | none => s.stay k .registry)))

/-- The operation a token names in a group, 0 for EMPTY (R346). -/
def Group.tokenOp (g : Group) (v : Nat) : Nat :=
  if bitsOf v 31 31 = 0 then 0
  else match g.shares[bitsOf v 30 25]? with
    | none => 0
    | some h => match SMap.find? h.registry (bitsOf v 11 0) with
      | some e => if e.gen = bitsOf v 24 12 then e.op else 0
      | none => 0

/-- HLD (R346): it reads the token as its thread's own stores leave it (R182). -/
def execHld (h a : Nat) (s : State) : Out :=
  ungoverned s [(a, 1)] (fun k g t =>
    let o := (t.rd a).toNat
    offsetOk s k g o 4 (bankFirst s k (s.bankAccess k g t (.lds .z32) o 4)
      ((s.retire k (fun u => u.wrH h (g.tokenOp (s.bankNat k g t (.lds .z32) o 4)))).fireWatch k o 4 true true false)))

end Sys2Proof.Machine
end

