-- ==== Sys2Proof/Machine/Control.lean ====
section
/-! DEFINITION. Control flow and the instructions of major 38: branches, calls and returns (R39, R318 to R320, R354, R375), EXIT
(R43, R329), barriers and fences (R314, R338), traps by instruction (R88, R317, R389, R390), HALT (R339), the rest. -/

namespace Sys2Proof.Machine

/-! ## Branches -/

/-- BRZ (R318). -/
def execBrz (a : Nat) (o : BitVec 16) (s : State) : Out := branch s [(a, 1)] (fun t => decide (t.rd a = 0)) o
/-- BNZ (R318). -/
def execBnz (a : Nat) (o : BitVec 16) (s : State) : Out := branch s [(a, 1)] (fun t => decide (t.rd a ≠ 0)) o
/-- BRP (R318). -/
def execBrp (p : Nat) (o : BitVec 16) (s : State) : Out := branch s [] (fun t => (t.rdP p).getLsbD 0) o
/-- JMP (R354). -/
def execJmp (o : BitVec 16) (s : State) : Out := branch s [] (fun _ => true) o
/-- BR (R319): a target with bits 1:0 set traps (R301). -/
def execBr (a : Nat) (s : State) : Out :=
  ungoverned s [(a, 2)] (fun k _ t => aligned s k (t.rd64 a) 4 (s.modThread k (fun t => t.goTo (t.rd64 a))))

/-! ## Calls and returns (R39, R320, R375) -/

/-- The spill or refill of a call: two private words from word w (R39). -/
def State.stackAccess (s : State) (k : TKey) (g : Group) (t : Thread) (kind : AccKind) (w : Int) (data target : DWord) : State :=
  let a := s.newAccess k g t kind 4 (g.privAddr k.tidx w)
  s.issueAccess k g t { a with va2 := g.privAddr k.tidx (w + 1), data := data, data2 := target } false id

/-- A call to a target: push the return address; a full stack spills its oldest entry first. -/
def callTo (s : State) (k : TKey) (g : Group) (t : Thread) (target : DWord) : State :=
  aligned s k target 4
    (if t.rs.length < 8 then s.modThread k (fun t => { t.goTo target with rs := t.rs ++ [t.pc + 4] })
     else
      let w : Int := (g.lr.privw : Int) - 2 * t.spills - 2
      if w < (g.lr.slimw : Int) then s.trapAt k 0x03 (g.privAddr k.tidx w)
      else s.stackAccess k g t .spill w (t.rs.headD 0) target)
/-- CALL (R320). -/
def execCall (o : BitVec 16) (s : State) : Out := ungoverned s [] (fun k g t => callTo s k g t (t.pc + (o.signExtend 64 <<< 2)))
/-- CALL through a register pair (R320). -/
def execCallReg (a : Nat) (s : State) : Out := ungoverned s [(a, 2)] (fun k g t => callTo s k g t (t.rd64 a))

/-- RET (R375). -/
def execRet (s : State) : Out :=
  ungoverned s [] (fun k g t =>
    match t.rs.getLast? with
    | some target => aligned s k target 4 (s.modThread k (fun t => { t.goTo target with rs := t.rs.dropLast }))
    | none =>
      if 0 < t.spills then s.stackAccess k g t .refill ((g.lr.privw : Int) - 2 * (t.spills - 1) - 2) 0 0
      else s.trapAt k 0x03 (g.privAddr k.tidx ((g.lr.privw : Int) - 2)))

/-! ## The barrier (R314, R315) -/

/-- The generation completes when every non-exited thread of the group has arrived, and the waiting threads continue after their
BAR (R314); those that the debugger holds pass it when they next issue (R315). -/
def State.barCheck (s : State) (u : Nat) : State :=
  s.modGroup u (fun g =>
    let ts := g.threads.filter (fun t => !t.exited)
    if !ts.isEmpty && ts.all (fun t => decide (t.wait = .bar g.barGen)) then
      { g with barGen := g.barGen + 1,
               threads := (g.threads.zipIdx).map (fun (t, n) => if t.exited || !g.lets n then t else t.released) }
    else g)

/-- BAR (R314): an empty log, the release of R187, then arrival. A thread whose generation completed while it was held passes (R315). -/
def execBar (s : State) : Out :=
  ungoverned s [] (fun k g t =>
    match t.wait with
    | .bar n => if n = g.barGen then s else s.retire k id
    | _ => ordered s k t (releaseFirst s k g t false true false (closesPhase .grp g)
        ((s.stay k (.bar g.barGen)).barCheck k.uid)))

/-- FENCE (R338). -/
def execFence (sc : Scope) (ord : FenceOrder) (s : State) : Out :=
  ungoverned s [] (fun k g t =>
    let acq := decide (ord ≠ .rel)
    let rel := decide (ord ≠ .acq)
    ordered s k t (releaseFirst s k g t acq rel (decide (sc ≠ .grp ∧ sc ≠ .clu)) (rel && closesPhase sc g) (s.retire k id)))

/-! ## EXIT (R43, R329) -/

/-- The last thread has exited: the group drains, its registers and thread slots are free at once, and the sequencer may
place another group there (R43). -/
def State.startDrain (s : State) (u : Nat) : State :=
  match s.group? u with
  | none => s
  | some g =>
    if !g.threads.all (·.exited) || g.phase ≠ .running then s
    else
      let s := s.modGroup u (fun g => { g with phase := .draining, stopped := false })
      (s.laterOnce (.drainEnd u)).laterOnce (.groupHandOut g.pkg)

/-- A thread that ends at TRAPDEPTH 1 or 2 has its trap state discarded, read as 0 from then on (R329; log entry 118). -/
def Thread.dropTrap (t : Thread) : Thread :=
  if t.depth = 0 then t
  else { t with depth := 0, trapc := 0, trappc := 0, trapva := 0, otrapc := 0, otrappc := 0, otrapva := 0 }
/-- A thread ends: its hardware return stack and its trap state are discarded (R329), and what waited for its absence goes on (R29, R314,
R250). -/
def State.exitThread (s : State) (k : TKey) : State :=
  let s := s.modThread k (fun t => { t.dropTrap with exited := true, park := none, wait := .none, handles := [], outst := [], engFail := [],
                                                     pend := [], kpend := [], rep := none, demoted := false, demLeft := 0, rs := [] })
  let s := (s.modGroup k.uid (fun g => g.crewRun (k.tidx / 32))).barCheck k.uid
  (s.rsyncChecks k.uid).startDrain k.uid

/-- EXIT (R329). -/
def execExit (s : State) : Out := ungoverned s [] (fun k _ t => ordered s k t (s.exitThread k))

/-! ## Traps and the debugger by instruction -/

/-- TRAP (R389). -/
def execTrap (_c : BitVec 16) (s : State) : Out := ungoverned s [] (fun k _ _ => s.trapAfter k 0x0C)
/-- TRET (R88, R390). -/
def execTret (s : State) : Out :=
  ungoverned s [] (fun k _ t => if t.depth = 0 then s.trapAt k 0x01 0 else s.modThread k Thread.returnTrap)
/-- BKPT (R317). -/
def execBkpt (s : State) : Out :=
  ungoverned s [] (fun k g t =>
    if (s.attachFor g.pkg g.leaf).isSome && (s.effDbg g.pkg g.leaf).getLsbD 2 then
      (s.retire k id).requestStop k.uid 3 (some k.tidx) k.tidx none
    else
      let s := s.trace g.pkg g.leaf 15 (threadName g k.tidx (dieOf t.place.core)) 0xFFFFFFFF t.pc.toNat
      s.trapAfter k 0x0A)
/-- HALT (R339). -/
def execHalt (s : State) : Out :=
  ungoverned s [] (fun k g _ =>
    if (s.attachFor g.pkg g.leaf).isSome && (s.effDbg g.pkg g.leaf).getLsbD 0 then
      (s.retire k id).requestStop k.uid 1 none k.tidx none
    else s.retire k id)

/-! ## The rest -/

/-- NOP (R367). -/
def execNop (s : State) : Out := ungoverned s [] (fun k _ _ => s.retire k id)
/-- YIELD (R26, R406): a demotion for 64 bundling rounds. -/
def execYield (s : State) : Out := ungoverned s [] (fun k _ _ => s.retire k (fun t => { t with demoted := true, demLeft := 64 }))
/-- TMARK (R388): a code 10 record where the buffer takes one. -/
def execTmark (a : Nat) (s : State) : Out :=
  ungoverned s [(a, 1)] (fun k g t =>
    (s.trace g.pkg g.leaf 10 (threadName g k.tidx (dieOf t.place.core)) (t.rd a).toNat t.pc.toNat).retire k id)
/-- WAITC (R395). -/
def execWaitc (l st c ti : Nat) (s : State) : Out :=
  ungoverned s [] (fun k _ t =>
    if t.cnt .load ≤ l ∧ t.cnt .store ≤ st ∧ t.cnt .copy ≤ c ∧ t.cnt .tile ≤ ti then s.retire k id
    else s.stay k (.waitc l st c ti))

end Sys2Proof.Machine
end

