-- ==== Sys2Proof/Machine/Float.lean ====
section
/-! DEFINITION. Floating-point arithmetic, compares, special functions and conversions (R326 to R336). -/

namespace Sys2Proof.Machine

/-- FADD (R331). -/
def execFadd (d a b : Nat) (s : State) : Out :=
  fpu3 s d a b (fun t x y => fmt32.add t.ftz t.rm x y)
/-- FSUB (R331). -/
def execFsub (d a b : Nat) (s : State) : Out :=
  fpu3 s d a b (fun t x y => fmt32.add t.ftz t.rm x y.neg)
/-- FMUL (R331). -/
def execFmul (d a b : Nat) (s : State) : Out :=
  fpu3 s d a b (fun t x y => fmt32.mul t.ftz t.rm x y)
/-- FFMA (R331): reads d as its addend. -/
def execFfma (d a b : Nat) (s : State) : Out :=
  fpu3 s d a b (fun t x y => fmt32.fma t.ftz t.rm x y (t.rdF d))
/-- FMIN (R332). -/
def execFmin (d a b : Nat) (s : State) : Out :=
  fpu3 s d a b (fun _ x y => fmt32.minMax false x y)
/-- FMAX (R332). -/
def execFmax (d a b : Nat) (s : State) : Out :=
  fpu3 s d a b (fun _ x y => fmt32.minMax true x y)
/-- FRCP (R334, R335). -/
def execFrcp (d a : Nat) (s : State) : Out :=
  fpu2 s d a (fun t x => frcp t.ftz t.rm x)
/-- FSQRT (R334, R335). -/
def execFsqrt (d a : Nat) (s : State) : Out :=
  fpu2 s d a (fun t x => fsqrt t.ftz t.rm x)
/-- One of the six approximated forms (R334 to R336). -/
def specialForm (s : State) (fn : SpecialFn) (d a : Nat) : Out := fpu2 s d a (fun t x => special fn t.ftz (t.rd a) x)
/-- FRSQ (R336). -/
def execFrsq (d a : Nat) (s : State) : Out :=
  specialForm s .frsq d a
/-- FEXP2 (R336). -/
def execFexp2 (d a : Nat) (s : State) : Out :=
  specialForm s .fexp2 d a
/-- FLOG2 (R336). -/
def execFlog2 (d a : Nat) (s : State) : Out :=
  specialForm s .flog2 d a
/-- FSIN (R336). -/
def execFsin (d a : Nat) (s : State) : Out :=
  specialForm s .fsin d a
/-- FCOS (R336). -/
def execFcos (d a : Nat) (s : State) : Out :=
  specialForm s .fcos d a
/-- FTANH (R336). -/
def execFtanh (d a : Nat) (s : State) : Out :=
  specialForm s .ftanh d a
/-- FCMP (R333): writes every bit of the predicate. -/
def execFcmp (c : FCmp) (p a b : Nat) (s : State) : Out :=
  governed s [(a, 1), (b, 1)] (fun k _ _ => s.retire k (fun t =>
    let r := fcompare c (t.rdF a) (t.rdF b)
    (t.wrP p (predOf r.1)).addFlags r.2))
/-- The register count of a scalar of a kind (R324). -/
def kindRegs (k : Kind) : Nat := if k.width = 64 then 2 else 1
/-- The raw bits of a scalar operand (R324). -/
def Thread.rdKind (t : Thread) (k : Kind) (a : Nat) : Nat := if k.width = 64 then (t.rd64 a).toNat else (t.rd a).toNat
/-- Write a conversion result laid out by R324. -/
def Thread.wrKind (t : Thread) (k : Kind) (d bits : Nat) : Thread :=
  if k.width = 64 then t.wr64 d (BitVec.ofNat 64 bits) else t.wr d (pairLo (kindLayout k bits))
/-- CVT (R326). -/
def execCvt (dst src : Kind) (d a : Nat) (s : State) : Out :=
  governed s [(d, kindRegs dst), (a, kindRegs src)] (fun k _ _ => s.retire k (fun t =>
    let r := cvtRes dst src t.ftz (t.rdKind src a)
    (t.wrKind dst d r.bits).addFlags r.flags))
/-- The outcome of CVTD for a thread (R327). -/
def cvtdRes (dst src : Kind) (pol : Policy) (t : Thread) (a : Nat) : ConvRes :=
  convert dst pol t.ftz (t.fmode.toNat % 8) (drawOf t.seed 0).toNat (kindRead src t.ftz (t.rdKind src a))
/-- SEED advances by one position under RM 4, for an inactive thread too (R102, R327). -/
def Thread.drawn (t : Thread) : Thread := if t.fmode.toNat % 8 = 4 then { t with seed := seedAfter t.seed 1 } else t
/-- CVTD (R327): the arithmetic trap of policy TRAP comes before anything is written. -/
def execCvtd (dst src : Kind) (pol : Policy) (d a : Nat) (s : State) : Out :=
  ungoverned s [(d, kindRegs dst), (a, kindRegs src)] (fun k _ t =>
    if t.active then
      match cvtdRes dst src pol t a with
      | .trap => s.trapAt k 0x08 0
      | .ok r => s.retire k (fun t => ((t.wrKind dst d r.bits).addFlags r.flags).drawn)
    else s.retire k Thread.drawn)

end Sys2Proof.Machine
end

