-- ==== Sys2Proof/Machine/Moves.lean ====
section
/-! DEFINITION. Predicate operations, moves, immediates and uniform registers by KMOV (R355, R356, R365, R370). -/

namespace Sys2Proof.Machine

/-- PAND (R370). -/
def execPand (d a b : Nat) (s : State) : Out :=
  predForm s [] (fun t => t.wrP d (t.rdP a &&& t.rdP b))
/-- POR (R370). -/
def execPor (d a b : Nat) (s : State) : Out :=
  predForm s [] (fun t => t.wrP d (t.rdP a ||| t.rdP b))
/-- PXOR (R370). -/
def execPxor (d a b : Nat) (s : State) : Out :=
  predForm s [] (fun t => t.wrP d (t.rdP a ^^^ t.rdP b))
/-- PNOT (R370). -/
def execPnot (d a : Nat) (s : State) : Out :=
  predForm s [] (fun t => t.wrP d (~~~(t.rdP a)))
/-- PMOV pd, pa (R370). -/
def execPmovPred (d a : Nat) (s : State) : Out :=
  predForm s [] (fun t => t.wrP d (t.rdP a))
/-- PMOV pd, vn (R370). -/
def execPmovFromV (d v : Nat) (s : State) : Out :=
  predForm s [(v, 1)] (fun t => t.wrP d ((t.rd v).setWidth 8))
/-- PMOV vn, pa (R370). -/
def execPmovToV (a v : Nat) (s : State) : Out :=
  predForm s [(v, 1)] (fun t => t.wr v ((t.rdP a).setWidth 32))
/-- MOV (R365): the tag of the pair that holds d is cleared. -/
def execMov (d a : Nat) (s : State) : Out :=
  alu2 s d a id
/-- MOV.S64 (R365): the pair and its reference tag (R202). -/
def execMov64 (d a : Nat) (s : State) : Out :=
  governed s [(d, 2), (a, 2)] (fun k _ _ => s.retire k (fun t =>
    (t.wr64 d (t.rd64 a)).setTagAbs (t.abs d) (t.tag a)))
/-- MOVI (R365). -/
def execMovi (d : Nat) (imm : BitVec 19) (s : State) : Out :=
  governed s [(d, 1)] (fun k _ _ => s.retire k (fun t => t.wr d (imm.signExtend 32)))
/-- MOVH (R365): bits 12:0 keep their value. -/
def execMovh (d : Nat) (imm : BitVec 19) (s : State) : Out :=
  governed s [(d, 1)] (fun k _ _ => s.retire k (fun t =>
    t.wr d ((t.rd d &&& 0x1FFF#32) ||| (imm.setWidth 32 <<< 13))))
/-- Wait while a KLD of the thread into the uniform register is under way (R356). -/
def withK (s : State) (k : TKey) (t : Thread) (n : Nat) (body : State) : State :=
  if n ∈ t.kpend then s.stay k (.kreg n) else body
/-- KMOV vd, kn (R355): an untagged pair. -/
def execKmovFromK (d n : Nat) (s : State) : Out :=
  governed s [(d, 2)] (fun k g t => withK s k t n
    (s.retire k (fun t => t.wr64 d (g.rdK (g.shareIndex k.tidx) n))))
/-- KMOV kn, va (R355, R356): the write takes effect at retirement. -/
def execKmovToK (n a : Nat) (s : State) : Out :=
  governed s [(a, 2)] (fun k _ t => withK s k t n
    ((s.modGroup k.uid (fun g => g.wrK n (t.rd64 a))).retire k id))

end Sys2Proof.Machine
end

