-- ==== Sys2Proof/Machine/Complete.lean ====
section
/-! DEFINITION. What happens to accesses after issue: requests at the home, write-backs, completion, translation walks, faults
and their resolutions, replays (R39, R42, R81 to R85, R121, R128, R129, R165 to R167, R171, R174, R258). -/

namespace Sys2Proof.Machine

/-! ## At the home (R165, R167, R171) -/

/-- Words that the access reads are owned by another L1, or are in a write-back on its way (R165). -/
def State.mustForward (s : State) (a : Access) : Bool :=
  !a.kind.scratch && (a.pieces.zipIdx).any (fun ((va, _), i) =>
    let t := a.tr i va
    decide (t.mtype ≠ 4 ∧ t.mtype ≠ 5) && !s.uncached a.pkg t (t.addr va / 65536) &&
      s.ownedElsewhere t.mtype a.pkg (dieOf a.core) (t.addr va) (a.pkg, s.l1Core a.pkg a.core (t.addr va)))

/-- HOME_READ_REQUEST (R165): a load's request reaches the home, which answers, or forwards it to the owner (R167). -/
def execHomeReadRequest (x : Nat) (s : State) : Out := .next (
  match s.access? x with
  | none => s
  | some a =>
    if a.kind.event x ≠ .homeReadRequest x then s
    else if a.stage = .ready && s.mustForward a then
      (s.modAccess x (fun a => { a with stage := .forwarded })).later (.forwardedRead x)
    else s.tryAccess x)

/-- FORWARDED_READ (R167): the owner, or the write-back under way, answers through the home. -/
def execForwardedRead (x : Nat) (s : State) : Out := .next (
  match s.access? x with
  | some a => if a.stage = .forwarded then s.tryAccess x else s
  | none => s)

/-- OWNERSHIP_REQUEST (R165): a store's request reaches the home; its words are invalidated elsewhere and it is performed. -/
def execOwnershipRequest (x : Nat) (s : State) : Out := .next (
  match s.access? x with
  | some a => if a.kind.event x = .ownershipRequest x then s.tryAccess x else s
  | none => s)

/-- ATOMIC_AT_HOME (R171): an atomic reaches its home and is performed. -/
def execAtomicAtHome (x : Nat) (s : State) : Out := .next (
  match s.access? x with
  | some a => if a.kind.event x = .atomicAtHome x then s.tryAccess x else s
  | none => s)

/-- WRITE_BACK_ARRIVAL (R166, R167): its bytes merge at the home, those of older write-backs of the line first, but for the words of
which a later owner's bytes have arrived; older write-backs bring its words no more, and the buffer is acknowledged. -/
def execWriteBackArrival (x : Nat) (s : State) : Out := .next (
  match s.item? x with
  | some (.wb w) =>
    let older := s.wbs.filter (fun (y, v) => decide (y < x) && decide (v.ga = w.ga) && inDomain w.mtype w.pkg (dieOf w.core) v.pkg v.core)
    let s := older.foldl (fun s (y, v) => s.wbMerge y v (~~~0)) s
    ((s.wbApply w (w.words &&& ~~~w.dead)).wbKill w.mtype w.pkg (dieOf w.core) w.ga w.words x).dropItem x
  | _ => s)

/-- RELEASE_COMPLETION (R174, R175): the core's oldest closed epoch is complete once every write of the epoch has arrived. -/
def execReleaseCompletion (p c : Nat) (s : State) : Out := .next (
  match (s.coreOf p c).closed with
  | [] => s
  | (e, _) :: rest =>
    if s.epochOpen p c e then s.later (.releaseCompletion p c) else s.modCore p c (fun k => { k with closed := rest }))

/-! ## Completion (R42, R359) -/

/-- The value that a load of a kind writes to a register pair (R359). -/
def extend (k : LdKind) (v : DWord) : DWord :=
  match k with
  | .s8 => (((v.setWidth 8).signExtend 32 : BitVec 32)).setWidth 64
  | .s16 => (((v.setWidth 16).signExtend 32 : BitVec 32)).setWidth 64
  | .z8 => (v.setWidth 8).setWidth 64
  | .z16 => (v.setWidth 16).setWidth 64
  | .s32 | .z32 => (v.setWidth 32).setWidth 64
  | .d64 => v

/-- What an access returns to its thread. -/
def Access.deliver (a : Access) (t : Thread) : Thread :=
  let put (v : DWord) : Thread := match a.dests with
    | [r] => t.wrAbs r (pairLo v)
    | r :: _ => t.wrAbs64 r v
    | [] => t
  let t := match a.kind with
    | .ld k | .lds k => put (extend k a.value)
    | .ldref => (put a.value).setTagAbs a.dreg a.vtag
    | .ldpv _ | .atom .. | .atoms .. | .launch _ => put a.value
    | .oinit => (put a.va).setTagAbs a.dreg true
    | _ => t
  (a.dests.foldl Thread.unmark t).addFlags a.flags.toNat

/-- The spill or refill of a call has come back (R39): the CALL or RET takes place. -/
def State.finishCall (s : State) (a : Access) : State :=
  match s.thread? a.thr with
  | none => s
  | some t =>
    if t.exited || decide (t.wait ≠ .held) || decide (t.pc ≠ a.ipc) then s
    else match a.kind with
      | .spill => s.modThread a.thr (fun t => { t.goTo a.data2 with spills := t.spills + 1, rs := t.rs.drop 1 ++ [t.pc + 4] })
      | _ => aligned s a.thr a.value 4 (s.modThread a.thr (fun t => { t.goTo a.value with spills := t.spills - 1 }))

/-- ACCESS_COMPLETION (R42): the reply reaches the core. The results of an exited thread's loads are discarded (R43). -/
def execAccessCompletion (x : Nat) (s : State) : Out := .next (
  match s.access? x with
  | none => s
  | some a =>
    if a.stage ≠ .performed then s
    else
      let s := s.dropItem x
      let live := match s.thread? a.thr with | some t => !t.exited | none => false
      if !live then s.completeOut a.thr x
      else
        let s := s.modThread a.thr (fun t => (a.deliver t).doneOut x)
        match a.kind with
        | .kld n =>
          (s.modGroup a.thr.uid (fun g => g.wrK n a.value)).modThread a.thr (fun t => { t with kpend := eraseNat t.kpend n })
        | .spill | .refill => s.finishCall a
        | _ => s)

/-! ## Translation walks (R83, R85, R121) -/

def State.modWalk (s : State) (x : Nat) (f : Walk → Walk) : State :=
  { s with items := SMap.modify s.items x (fun i => match i with | .walk w => .walk (f w) | i => i) }

/-- The name of a walk's thread for its fault (R83). -/
def State.walkName (s : State) (w : Walk) : TraceName :=
  match s.group? w.thr.uid with
  | some g => threadName g w.thr.tidx (dieOf w.core)
  | none => ⟨0, 0, 0, true, dieOf w.core⟩

/-- A thread's walk fails with a cause: a KLD's or KST's that has issued fails it. The other threads that wait for the same fetch learn it by walks of their own. -/
def State.failWalk (s : State) (x : Nat) (w : Walk) (c : Nat) : State :=
  let others := match s.group? w.thr.uid with
    | some g => if w.kind = 3 then (g.threads.zipIdx).filterMap (fun ((t, n) : Thread × Nat) =>
        if n ≠ w.thr.tidx && decide (t.wait = Wait.fetch) && decide (s.awaitedFetch w.thr.uid t = some x) then some n else none) else []
    | none => []
  if w.kind = 7 then
    let s := s.dropItem x
    match s.access? w.acc with | some a => s.failK w.acc a c (BitVec.ofNat 64 w.va) | none => s
  else others.foldl (fun s n => (s.newItem (.walk { w with thr := ⟨w.thr.uid, n⟩, fault := 0, failed := c })).1)
    (s.modWalk x (fun w => { w with fault := 0, failed := c }))

/-- SUSP of the MPRG of a suspended MMA (R85, R236). -/
def State.mprgSusp (s : State) (o : Op) (v : Bool) : State :=
  if o.kind ≠ .mma then s
  else s.modThread o.thr (fun t => { t with mprg := (t.mprg &&& ~~~0x40000000#32) ||| (if v then 0x40000000#32 else 0) })

/-- An engine operation meets a fault (R85): it posts KIND 2 and suspends; with no queue it fails. -/
def State.suspendOp (s : State) (x : Nat) (w : Walk) : State :=
  match s.op? w.acc with
  | none => s.dropItem x
  | some o =>
    if o.st = .done then s.dropItem x else
    match s.postFault w.pkg w.leaf 2 w.dir 0 w.va (s.walkName w) (dieOf w.core) with
    | (s, some id) =>
      let s := (s.modWalk x (fun w => { w with fault := id })).modOp w.acc (fun o => { o with st := .suspended })
      let s := if o.kind = .mma then s.count w.pkg (0, 20) w.core 1 else s
      s.mprgSusp o true
    | (s, none) => (s.dropItem x).failEngine w.acc 0x0E (BitVec.ofNat 64 w.va)

/-- A walk posts a fault of a kind and waits for its resolution; with no queue it fails at once (R83). -/
def State.postWalk (s : State) (x : Nat) (w : Walk) (kind : Nat) : State :=
  match s.postFault w.pkg w.leaf kind w.dir 0 w.va (s.walkName w) (dieOf w.core) with
  | (s, some id) => s.modWalk x (fun w => { w with fault := id })
  | (s, none) => s.failWalk x w 0x0E

/-- A walk has faulted (R83, R85, R87, R355, R371, R381). -/
def State.walkFault (s : State) (x : Nat) (w : Walk) : State :=
  match w.kind with
  | 0 => (s.dropItem w.acc).dropItem x
  | 1 => match s.access? w.acc with
    | none => s.dropItem x
    | some a =>
      let s := s.deferAccess w.acc a w.va (.translationWalkDone x)
      match s.access? w.acc with
      | some b => if b.stage = .logged then s.dropItem x else s
      | none => s.dropItem x
  | 2 => s.suspendOp x w
  | 3 => s.postWalk x w 3
  | 6 => (s.failWalk x w 0x11).frameWake w
  | _ => s.postWalk x w 1

/-- A walk meets a LOST table page: what it was made for fails with CAUSE 0x09 (R158). -/
def State.walkLost (s : State) (x : Nat) (w : Walk) (g : Nat) : State :=
  match w.kind with
  | 0 => (s.dropItem w.acc).dropItem x
  | 1 => match s.access? w.acc with
    | none => s.dropItem x
    | some a =>
      let s := s.lostAccess w.acc a g w.va (.translationWalkDone x)
      match s.access? w.acc with
      | some b => if b.stage = .logged then s.dropItem x else s
      | none => s.dropItem x
  | 2 => match s.op? w.acc with
    | none => s.dropItem x
    | some o => ((s.opLost o g w.va w.dir).dropItem x).failEngine w.acc 0x09 (BitVec.ofNat 64 w.va)
  | k =>
    let s := (s.lostNotice w.pkg w.leaf g w.dir w.va (s.walkName w) (dieOf w.core)).failWalk x w 0x09
    if k = 6 then s.frameWake w else s

/-- The replay of an access that has been logged zeroes a page without a holder (R144). -/
def State.forceLogged (s : State) (x : Nat) : State :=
  s.modAccess x (fun a => if a.stage = .logged then { a with force := true } else a)

/-- The asker of a page that has no holder takes a fault: a page not present (R144). Its replay, once posted, zeroes such a page. -/
def State.pageFault (s : State) (who va dir : Nat) : State :=
  match s.item? who with
  | some (.access a) =>
    if a.kind = .pref then s.dropItem who
    else if a.range then s
    else if a.kind.uniform then
      let w : Walk := { pkg := a.pkg, core := a.core, tenant := s.tenantId a.pkg a.leaf, leaf := a.leaf, va := va, acc := who, kind := 7,
                        dir := a.kind.dir, force := true, thr := a.thr, redo := false, fault := 0, failed := 0 }
      let (s, y) := s.newItem (.walk w)
      s.postWalk y w 1
    else (s.deferAccess who a va (a.kind.event who)).forceLogged who
  | some (.op o) =>
    if o.st = .done then s else
    let (s, y) := s.newItem (.walk { pkg := o.pkg, core := o.core, tenant := s.tenantId o.pkg o.leaf, leaf := o.leaf,
                                     va := va, acc := who, kind := 2, dir := dir, force := true, thr := o.thr,
                                     redo := false, fault := 0, failed := 0 })
    match s.item? y with
    | some (.walk w) => (s.modOp who (fun o => { o with force := true })).suspendOp y w
    | _ => s
  | some (.walk w) =>
    let s := s.walkFault who w
    if w.kind = 1 then s.forceLogged w.acc
    else s.modWalk who (fun v => if v.fault ≠ 0 then { v with force := true } else v)
  | _ => s

/-- The access that a walk was made for goes on; the walk ends unless the log is full. -/
def State.walkOn (s : State) (x : Nat) (w : Walk) : State :=
  match s.access? w.acc with
  | none => s.dropItem x
  | some a =>
    if a.stage ≠ .translate then s.dropItem x
    else
      let s := s.translateAccess w.acc a (.translationWalkDone x)
      if .translationWalkDone x ∈ s.agenda then s else s.dropItem x

/-- A thread that waits at a fetch, at a KLD, at a STREF or for its trap frame: the page must be here too (R85, R87, R355, R381). -/
def State.walkPage (s : State) (x : Nat) (w : Walk) (t : Trans) : State :=
  let pg := t.addr w.va / 65536
  let wr := decide (w.dir = 1)
  if s.pageReady w.pkg t.mtype t.peer pg wr then (if w.kind = 6 then (s.dropItem x).frameWake w else s.dropItem x)
  else if s.pageLost pg then
    let s := (s.lostNotice w.pkg w.leaf pg w.dir w.va (s.walkName w) (dieOf w.core)).failWalk x w 0x09
    if w.kind = 6 then s.frameWake w else s
  else (s.needPage w.pkg x w.leaf w.tenant t.mtype t.peer t.cmp pg w.va t.side wr w.force).later (.translationWalkDone x)

/-- Another walk on the page has ended meanwhile: its translation serves this miss, which shares that walk (R127). -/
def State.walkHit (s : State) (w : Walk) : Option Trans :=
  (s.tlbFind w.pkg w.core w.tenant w.va).filter (·.serves w.dir)

/-- A walk's translation enters the TLBs of every core of the die whose miss on the page waits (R127). -/
def State.shareWalk (s : State) (w : Walk) (t : Trans) : State :=
  s.items.foldl (fun u (_, i) => match i with
    | .walk v =>
      if v.pkg = w.pkg && decide (dieOf v.core = dieOf w.core) && decide (v.tenant = w.tenant) && t.covers v.va then
        u.install v.pkg v.core v.tenant t
      else u
    | _ => u) (s.install w.pkg w.core w.tenant t)

/-- A walk has its translation: what waited for it goes on. -/
def State.walkEnd (s : State) (x : Nat) (w : Walk) (t : Trans) : State :=
  match w.kind with
  | 0 | 1 => s.walkOn x w
  | 2 =>
    let s := s.dropItem x
    match s.op? w.acc with
    | some o =>
      let o := o.resumed
      (s.modOp w.acc (fun _ => o)).later (o.event w.acc)
    | none => s
  | 7 =>
    let s := s.dropItem x
    match s.access? w.acc with
    | some a => (s.modAccess w.acc (fun a => { a with force := true })).again w.acc a
    | none => s
  | _ => s.walkPage x w t

/-- A walk has not begun: its cluster keeps 64 pages missing at once, its die 256 walks, one for a page of its clusters (R127). -/
def State.walkWaits (s : State) (x : Nat) (w : Walk) : Bool :=
  let open_ := s.walks.filter (fun (y, v) => decide (y < x) && decide (v.pkg = w.pkg) && v.open_)
  let pages (l : List (Nat × Walk)) : List (Nat × Nat) := (l.map (fun (_, v) => s.walkFor v)).eraseDups
  let beyond (n : Nat) (ps : List (Nat × Nat)) : Bool := decide (n ≤ ps.length) && !decide (s.walkFor w ∈ ps)
  beyond 64 (pages (open_.filter (fun (_, v) => decide (clusterOf v.core = clusterOf w.core)))) ||
    beyond 256 (pages (open_.filter (fun (_, v) => decide (dieOf v.core = dieOf w.core))))

/-- An earlier miss of the thread on the page is still under way: a later access waits for it, and is logged behind it (R82, R359). -/
def State.walkFollows (s : State) (w : Walk) : Bool :=
  decide (w.kind = 1) && s.walks.any (fun (_, v) => decide (v.kind = 1) && decide (v.thr = w.thr) && decide (v.acc < w.acc) &&
    decide (v.va / 65536 = w.va / 65536))
/-- What a walk's access is logged behind, meanwhile (R82). -/
def State.walkBehind (s : State) (w : Walk) : Option (Access × LogEntry × Nat) :=
  match s.access? w.acc, s.thread? w.thr with
  | some a, some t => if decide (w.kind = 1) && decide (a.stage = .translate) && !a.replay && a.kind.defers then
      (t.behind w.acc a).map (fun b => (a, b)) else none
  | _, _ => none

/-- TRANSLATION_WALK_DONE (R121, R127): the walk ends with a translation, a fault, or a table page that must come here first. -/
def execTranslationWalkDone (x : Nat) (s : State) : Out := .next (
  match s.item? x with
  | some (.walk w) =>
    if w.redo then (s.modWalk x (fun w => { w with redo := false })).later (.translationWalkDone x)
    else if w.fault ≠ 0 || w.failed ≠ 0 then s
    else if w.kind = 2 && (s.op? w.acc).isNone then s.dropItem x
    else if s.walkWaits x w || s.walkFollows w then s.later (.translationWalkDone x)
    else match s.walkBehind w with
    | some (a, e, va) => (match s.logBehind w.acc a e va with
      | some s => s.dropItem x
      | none => (s.logStall a.thr).later (.translationWalkDone x))
    | none => match s.walkHit w with
      | some t => s.walkEnd x w t
      | none =>
        match s.walk w.pkg (dieOf w.core) w.leaf w.va w.dir with
        | (s, .fault) => s.walkFault x w
        | (s, .bad) => (s.dropItem x).integrityFail w.thr w.core
        | (s, .page g wr) =>
          if s.pageLost g then s.walkLost x w g
          else (s.needPage w.pkg x w.leaf w.tenant 0 0 0 g w.va false wr w.force).later (.translationWalkDone x)
        | (s, .ok t) => (s.shareWalk w t).walkEnd x w t
  | _ => s)

/-! ## Faults and resolutions (R83, R84, R258) -/

/-- The 64 bytes of a fault-queue entry (R83). -/
def PFault.bytes (f : PFault) (phase : Bool) : List Byte :=
  leBytes 8 (bitOf phase * 2 ^ 63 + f.kind % 16 * 2 ^ 59 + f.acc % 8 * 2 ^ 56 + f.id % 2 ^ 16 * 2 ^ 40 + f.count % 2 ^ 24 * 2 ^ 16 +
    f.cause % 256 * 256) ++
  leBytes 8 (f.va % 2 ^ 56) ++ leBytes 8 (f.lid % 2 ^ 32 * 2 ^ 32 + f.gidx % 2 ^ 24 * 256) ++ leBytes 8 (f.tidx % 2 ^ 15) ++
  leBytes 8 f.time ++ leBytes 8 (f.regid % 2 ^ 16 * 2 ^ 48 + f.die % 8) ++ leBytes 16 0

/-- Write one entry into the tenant's ring when it has room (R258): the next index, PHASE, the interrupt of FAULTVEC, the trace
record. A fault that meets a full ring waits and is counted. -/
def State.writeFault (s : State) (p : Nat) (f : PFault) : State × Bool :=
  match s.tenantBlock p f.tenant with
  | none => (s, false)
  | some (ta, _) =>
    let (base, ent) := s.fqOf p ta
    let q := SMap.get (s.pkgD p).fqs FQ.init f.tenant
    if ent = 0 then (s, true)
    else if ent ≤ (q.w - q.head).toNat then
      (s.modPkg p (fun k =>
        let k := if f.waited then k else k.count (5, 32) 0 1
        { k with faults := k.faults.map (fun g => if g.id = f.id && !g.posted then { g with waited := true } else g) }), false)
    else
      let i := q.w.toNat % ent
      let s := s.hput p (base + 64 * i) (f.bytes q.lap)
      let s := s.signalTenant p f.tenant 10 0
      let s := s.modPkg p (fun k => { k with
        fqs := SMap.set k.fqs FQ.init f.tenant
                 { q with w := q.w + 1, lap := if i + 1 = ent then !q.lap else q.lap, base := base, ent := ent },
        faults := if f.open_ then k.faults.map (fun g => if g.id = f.id then { g with posted := true } else g)
                  else k.faults.filter (fun g => decide (g.id ≠ f.id)) })
      match s.regBlock p f.regid with
      | some (leaf, _) =>
        (s.trace p leaf 13 ⟨f.lid, f.gidx, f.tidx, decide (f.kind = 4), if f.kind = 4 then 8 else f.die⟩ (f.kind * 2 ^ 28 + f.id) f.va, true)
      | none => (s, true)

/-- FAULT_POST (R83): the tenant's waiting faults are written in order while its ring has room. -/
def execFaultPost (p regid : Nat) (s : State) : Out := .next (
  ((s.pkgD p).faults.filter (fun f => decide (f.tenant = regid) && !f.posted)).foldl
    (fun (s, ok) f => if ok then State.writeFault s p f else (s, ok)) (s, true)).1

/-- What a resolution does to the entry of a log (R84): action 0 replays, 1 fails with 0x0D, 2 with 0x0E; a failed entry has
FAULTID 0 (R81). -/
def LogEntry.resolve (e : LogEntry) (id action : Nat) : LogEntry :=
  if e.faultId = id && e.lstate = 1 then
    { e with faultId := if action = 0 then e.faultId else 0, lstate := if action = 0 then 2 else 3, cause := if action = 0 then 0 else if action = 1 then 0x0D else 0x0E }
  else e

/-- A resolution reaches everything attached to a fault (R84, R85). -/
def State.resolved (s : State) (p id action : Nat) : State :=
  let s := match (s.pkgD p).faults.find? (fun f => decide (f.id = id)) with
    | some f => if action = 0 then s.dropPage p f.die f.tenant f.va else s
    | none => s
  let s := s.modPkg p (fun q => { q with faults := q.faults.filter (fun f => !(decide (f.id = id) && f.open_)) })
  let hit := s.groups.flatMap (fun (u, g) => if g.pkg = p then
      (g.threads.zipIdx).filterMap (fun (t, n) => if t.log.any (fun e => e.faultId = id && e.lstate = 1) then some (u, n) else none)
    else [])
  let s := hit.foldl (fun s (u, n) =>
    (s.modThread ⟨u, n⟩ (fun t => { t with log := t.log.map (fun e => e.resolve id action) })).later (.accessReplay u n)) s
  s.walks.foldl (fun s (x, w) =>
    if w.pkg ≠ p || w.fault ≠ id then s
    else if action = 0 then
      let s := (s.modWalk x (fun w => { w with fault := 0 })).later (.translationWalkDone x)
      if w.kind = 2 then
        let s := s.modOp w.acc Op.resumed
        match s.op? w.acc with | some o => s.mprgSusp o false | none => s
      else s
    else
      let c := if action = 1 then 0x0D else 0x0E
      if w.kind = 2 then (s.dropItem x).failEngine w.acc c (BitVec.ofNat 64 w.va)
      else s.failWalk x w c) s

/-- ACCESS_REPLAY (R82, R84): the oldest entry of the log, once resolved, replays, for a saved group at its restore; once failed, or
when its replay has raised a trap, its thread traps when its group may issue, or settles for a save (R75; log entry 71). -/
def execAccessReplay (g t : Nat) (s : State) : Out := .next (
  match s.group? g, s.thread? ⟨g, t⟩ with
  | some gr, some th =>
    match th.log with
    | [] => s
    | e :: _ =>
      match s.access? e.acc with
      | none => (s.modThread ⟨g, t⟩ (fun t => { t with log := t.log.drop 1 })).later (.accessReplay g t)
      | some a =>
        if a.stage ≠ .logged || e.lstate = 1 then s
        else if e.lstate = 2 && e.cause = 0 then
          if gr.phase = .saved then s else
          let a := { a with stage := .translate, replay := true, trans := [], checked := false }
          (s.setItem e.acc (.access a)).translateAccess e.acc a (.accessReplay g t)
        else if gr.issues || ((decide (gr.stepT = some t) || decide (gr.phase = .saving)) && !gr.frozen) then s.deferredTrap e.acc a e.cause
        else s
  | _, _ => s)

end Sys2Proof.Machine
end

