-- ==== Sys2Proof/Machine/Directory.lean ====
section
/-! DEFINITION. The location directory: entries, overflow, locks (R141 to R143, R156, R410, R411), and frames of a package: lookup,
replacement, what leaves with a page (R136, R139, R151). -/

namespace Sys2Proof.Machine

/-! ## Entries (R142) -/

def State.setDir (s : State) (host g : Nat) (d : DirSet) : State :=
  s.modPkg host (fun q => { q with dirs := SMap.set q.dirs DirSet.init (dsetOf g) d })
/-- Change or free a page's entry at a host. -/
def State.modEntry (s : State) (host g level : Nat) (f : DirEntry → Option DirEntry) : State :=
  let d := s.dirOf host g
  s.setDir host g { d with entries := d.entries.map (fun e => if isEntry g level e then e.bind f else e) }
/-- Change every entry of a page in the pod: the host, the level and the entry are given. -/
def State.mapEntries (s : State) (g : Nat) (f : Nat → DirEntry → Option DirEntry) : State :=
  { s with pkgs := s.pkgs.map (fun (q, p) =>
      if (SMap.find? p.dirs (dsetOf g)).isNone then (q, p) else
        let d := p.dirSet (dsetOf g)
        (q, { p with dirs := SMap.set p.dirs DirSet.init (dsetOf g) { d with
          entries := d.entries.map (fun e => e.bind (fun x => if x.gpn = g then f q x else some x)) } })) }

/-- The packages whose frames hold a copy of a page, in increasing order: every state but INVALID, FILLING and UPGRADING. -/
def State.holdersOf (s : State) (g : Nat) : List Nat :=
  s.pkgs.filterMap (fun (q, p) => let x := p.pageState g
                                  if p.lost || x = 0 || x = 4 || x = 5 then none else some q)
/-- The first master of a page, and the second of a mirrored one (R159). -/
def State.firstMaster (s : State) (g : Nat) : Option Nat :=
  (List.find? (fun ((_, p) : Nat × Pkg) => !p.lost && isMasterState (p.pageState g) && !p.isSecond g) s.pkgs).map (·.1)
def State.secondMaster (s : State) (g : Nat) : Option Nat :=
  (List.find? (fun ((_, p) : Nat × Pkg) => !p.lost && isMasterState (p.pageState g) && p.isSecond g) s.pkgs).map (·.1)
/-- The frame tag of a package's copy. -/
def State.tagOf (s : State) (p g : Nat) : FrameTag :=
  match (s.pkgD p).frameOf g with | some f => (s.pkgD p).frame f | none => FrameTag.init
def State.modTag (s : State) (p g : Nat) (f : FrameTag → FrameTag) : State :=
  match (s.pkgD p).frameOf g with | some n => s.modPkg p (fun q => q.modFrame n f) | none => s

/-! ## Overflow (R156) -/

/-- The sole holder of a page, when there are no replicas. -/
def State.soleHolder (s : State) (g : Nat) : Option Nat := match s.holdersOf g with | [q] => some q | _ => none

/-- Put an entry into its set; a full set evicts its lowest entry with a sole holder, whose frame takes UNLISTED (R156). None when no
entry qualifies. -/
def State.installEntry (s : State) (host : Nat) (e : DirEntry) : Option State :=
  let d := s.dirOf host e.gpn
  match d.entries.findIdx? (·.isNone) with
  | some i => some (s.setDir host e.gpn { d with entries := d.entries.set i (some e) })
  | none =>
    match d.entries.findIdx? (fun o => match o with
        | some o => decide (o.dstate = 0) && !o.backed && (s.soleHolder o.gpn).isSome
        | none => false) with
    | none => none
    | some i => match (d.entries[i]?).join with
      | none => none
      | some o =>
        let s := match s.soleHolder o.gpn with
          | some q => s.modTag q o.gpn (fun t => { t with unlisted := t.unlisted ||| (1 <<< o.level) })
          | none => s
        let d := s.dirOf host e.gpn
        some ((s.setDir host e.gpn { evc := min 65535 (d.evc + 1), owners := insertNat d.owners o.owner, entries := d.entries.set i (some e) }).tally host 16)

/-- An entry that stands at a package which is no longer its node's host goes to the host (R141, R157); none while it must wait (R156). -/
def State.adoptEntry (s : State) (q : Nat) (e : DirEntry) : Option State :=
  match s.nodeHost e.gpn e.level (prefixAt e.level q) with
  | none => none
  | some h =>
    let s := s.modEntry q e.gpn e.level (fun _ => none)
    if ((s.dirOf h e.gpn).entry? e.gpn e.level).isSome then some s else s.installEntry h e

/-- A set whose EVC is 65,535 stays overflowed. -/
def State.evcDown (s : State) (host g : Nat) : State :=
  let d := s.dirOf host g
  if d.evc = 0 || d.evc = 65535 then s else s.setDir host g { d with evc := d.evc - 1 }

/-- A holder with UNLISTED bits reports a change to each node, and the bits are cleared (R156). -/
def State.report (s : State) (p g : Nat) : State :=
  let u := (s.tagOf p g).unlisted
  if u = 0 then s
  else
    let s := s.modTag p g (fun t => { t with unlisted := 0 })
    (List.range 3).foldl (fun s l => if u.testBit l then s.later (.holderReport p g l) else s) s

/-- HOLDER_REPORT (R156): the node decrements EVC. -/
def execHolderReport (p page level : Nat) (s : State) : Out := .next (
  match s.nodeHost page level (prefixAt level p) with
  | some q => s.evcDown q page
  | none => s)

/-- PRES, MCHILD and MCHILD2 of a node, from the holders of its subtree (R142, R410). -/
def State.listed (s : State) (g level pre : Nat) (e : DirEntry) : DirEntry :=
  let hs := (s.holdersOf g).filter (fun p => decide (prefixAt level p = pre))
  let ch (m : Option Nat) : Nat := match m with
    | some p => if prefixAt level p = pre then childAt level p else 0
    | none => 0
  { e with pres := hs.foldl (fun b p => b ||| (1#16 <<< childAt level p)) 0,
           mchild := ch (s.firstMaster g), mchild2 := ch (s.secondMaster g) }

/-- Bring a page's entries to what its frames hold; an entry without holders is freed, but for a backed or a LOST one (R411). -/
def State.relistHeld (s : State) (g mode : Nat) (mirror : Bool) : State :=
  s.mapEntries g (fun q e =>
    let e := s.listed g e.level (prefixAt e.level q) e
    if e.pres = 0 && !e.backed && decide (e.dstate ≠ 5) then none else some { e with mode := mode, mirror := mirror })

/-- The nodes of a page, with their hosts, that should have an entry and have none: those on the paths to its holders, but for an
entry that overflow evicted from the page's only holder (R141, R156). -/
def State.missingNodes (s : State) (g : Nat) : List (Nat × Nat × Nat) :=
  let hs := s.holdersOf g
  ((List.range 3).flatMap (fun l => ((hs.map (prefixAt l)).eraseDups).map (fun pre => (l, pre)))).filterMap (fun (l, pre) =>
    match s.nodeHost g l pre with
    | none => none
    | some host =>
      if ((s.dirOf host g).entry? g l).isSome ||
          (match s.soleHolder g with | some q => (s.tagOf q g).unlisted.testBit l | none => false) then none
      else some (l, pre, host))
/-- A fresh entry of a node, as its holders are. -/
def State.freshEntry (s : State) (g l pre mode : Nat) (mirror : Bool) (owner : Nat) : DirEntry :=
  s.listed g l pre { gpn := g, level := l, dstate := 0, mode := mode, mirror := mirror, pres := 0, mchild := 0, mchild2 := 0,
                     backed := false, bkslot := 0, owner := owner, lock := 0 }

/-- Bring a page's entries to what its frames hold: every node on a holder's path has one, unless it was evicted (R141). None when an
install must wait (R156). -/
def State.relist (s : State) (g mode : Nat) (mirror : Bool) (owner : Nat) : Option State :=
  let s := s.relistHeld g mode mirror
  (s.missingNodes g).foldl (fun (o : Option State) (l, pre, host) =>
    o.bind (fun s => s.installEntry host (s.freshEntry g l pre mode mirror owner))) (some s)

/-- The same where a loss leaves no operation to wait: a node whose set has no room is overflowed by the page (R156, R157). -/
def State.relistForce (s : State) (g mode : Nat) (mirror : Bool) (owner : Nat) : State :=
  let s := s.relistHeld g mode mirror
  (s.missingNodes g).foldl (fun s (l, pre, host) =>
    match s.installEntry host (s.freshEntry g l pre mode mirror owner) with
    | some s => s
    | none => match (s.firstMaster g).orElse (fun _ => (s.holdersOf g).head?) with
      | some m =>
        let d := s.dirOf host g
        (s.modTag m g (fun t => { t with unlisted := t.unlisted ||| (1 <<< l) })).setDir host g
          { d with evc := min 65535 (d.evc + 1), owners := insertNat d.owners owner }
      | none => s) s

/-! ## Locks (R143) -/

/-- The nodes of a level or below on the paths to packages. -/
def pathNodes (level : Nat) (ps : List Nat) : List (Nat × Nat) :=
  ((List.range (level + 1)).flatMap (fun l => ps.map (fun p => (l, prefixAt l p)))).eraseDups
/-- The waits of requests at the nodes of a page: the item, the node, the number of its arrival. -/
def State.arrivals (s : State) (g : Nat) : List (Nat × Nat × Nat × Nat) :=
  s.items.filterMap (fun (y, i) => match i with
    | .page r => if r.page = g then r.waitAt.map (fun w => (y, w)) else none
    | .inj j => if j.page = g then j.waitAt.map (fun w => (y, w)) else none
    | _ => none)
/-- A request must wait at a node: an operation holds its entry, or another request arrived there earlier (R143). -/
def State.nodeTaken (s : State) (x g : Nat) (n : Nat × Nat) : Bool :=
  let ws := (s.arrivals g).filter (fun (_, l, pre, _) => decide ((l, pre) = n))
  let own := match ws.find? (fun (y, _) => decide (y = x)) with | some (_, _, _, a) => a | none => s.nextId
  (match s.entryAt g n.1 n.2 with | some e => decide (e.dstate ≠ 0) | none => false) ||
    ws.any (fun (y, _, _, a) => decide (y ≠ x) && decide (a < own))
/-- A node whose entry an item holds. -/
def State.ownLock (s : State) (x g : Nat) (n : Nat × Nat) : Bool := match s.entryAt g n.1 n.2 with | some e => decide (e.lock = x) && decide (e.dstate ≠ 0) | none => false
/-- The first of some nodes at which a request must wait. -/
def State.busyNode (s : State) (x g : Nat) (ns : List (Nat × Nat)) : Option (Nat × Nat) := ns.find? (s.nodeTaken x g)
/-- An item notes where it waits, or that it waits no more. -/
def Item.waitFor (i : Item) (w : Option (Nat × Nat × Nat)) : Item :=
  match i with
  | .page r => .page { r with waitAt := w }
  | .inj j => .inj { j with waitAt := w }
  | i => i
/-- A request waits at a node, in arrival order, and tries again. -/
def State.waitNode (s : State) (x g : Nat) (n : Nat × Nat) (again : Instr) : State :=
  if (s.arrivals g).any (fun (y, l, pre, _) => decide (y = x) && decide ((l, pre) = n)) then s.later again
  else ({ s with items := SMap.modify s.items x (fun i => i.waitFor (some (n.1, n.2, s.nextId))), nextId := s.nextId + 1 }).later again
/-- A request goes on from its node. -/
def State.noWait (s : State) (x : Nat) : State := { s with items := SMap.modify s.items x (fun i => i.waitFor none) }
/-- Lock the entries for an operation. -/
def State.lockNodes (s : State) (x g dstate : Nat) (ns : List (Nat × Nat)) : State :=
  ns.foldl (fun s (l, pre) => match s.nodeHost g l pre with
    | some q => s.modEntry q g l (fun e => some { e with dstate := dstate, lock := x })
    | none => s) s
/-- Return an operation's entries to STABLE. -/
def State.unlock (s : State) (x g : Nat) : State :=
  s.mapEntries g (fun _ e => some (if e.lock = x && e.dstate ≠ 5 then { e with dstate := 0, lock := 0 } else e))

/-! ## Frames -/

/-- What a package's caches hold of a page leaves with it: dirty words go home, copies are dropped. SWM lines stay (R150, R173). -/
def State.flushPage (s : State) (p g : Nat) : State :=
  let s := s.wbs.foldl (fun s (x, w) =>
    if w.pkg = p && decide (w.mtype ≠ 2) && decide (w.ga / 65536 = g) then
      (s.wbMerge x w (~~~0)).wbKill w.mtype p (dieOf w.core) w.ga (~~~0) s.nextId
    else s) s
  let lines := (s.pkgD p).cores.flatMap (fun ((c, k) : Nat × Core) =>
    (k.l1.filter (fun l => decide (l.mtype ≠ 2) && decide (l.ga / 65536 = g))).map (fun l => (c, l)))
  let s := lines.foldl (fun s (c, l) => s.l1Recall p c l (~~~0) true) s
  let s := ((s.pkgD p).slices.filter (fun l => decide (l.kind = 2) && decide (l.ga / 65536 = g))).foldl (fun s l => s.dropReplicas p l.ga) s
  s.modPkg p (fun q => { q with slices := q.slices.filter (fun l => !(decide (l.kind ≠ 1) && decide (l.ga / 65536 = g))) })

/-- The block to which a frame is charged: its leaf's, or the owning tenant's where a package does not know the leaf (R47). -/
def State.chargeOf (s : State) (p : Nat) (t : FrameTag) : Nat :=
  if (s.block? p t.charge).isSome then t.charge else ((s.tenantBlock p t.owner).map (·.1)).getD 0
/-- A frame takes a page: its tag, and the use of the blocks that it is charged to (R47, R139). -/
def State.fillFrame (s : State) (p f : Nat) (t : FrameTag) : State :=
  let s := s.modPkg p (fun q => q.setFrame f t)
  s.writeFrameUse p (s.chargeOf p t)
/-- A frame becomes INVALID: every field reads 0 (R411). -/
def State.clearFrame (s : State) (p f : Nat) : State :=
  let t := (s.pkgD p).frame f
  let s := (if t.state = 0 then s else s.dropPoison t.gpn p).modPkg p (fun q => q.setFrame f FrameTag.init)
  s.writeFrameUse p (s.chargeOf p t)

/-- A package's copy of a page goes: its holder reports, its cached lines go home, its frame is INVALID. -/
def State.freeCopy (s : State) (p g : Nat) : State :=
  let s := (s.report p g).flushPage p g
  match (s.pkgD p).frameOf g with
  | some f => s.clearFrame p f
  | none => s

/-- A master that replacement may choose: not transient, not a PEER page (R151). -/
def FrameTag.movable (t : FrameTag) : Bool := (decide (t.state = 2) || decide (t.state = 3)) && !t.peer

/-- The victim among frames: the oldest REPLICA, else the oldest movable master, ties to the lower way (R151). -/
def Pkg.victim (p : Pkg) (fs : List Nat) : Option Nat :=
  let oldest (l : List Nat) : Option Nat := l.foldl (fun b f => match b with
    | none => some f
    | some h => if (p.frame h).age < (p.frame f).age then some f else b) none
  match oldest (fs.filter (fun f => decide ((p.frame f).state = 1))) with
  | some f => some f
  | none => oldest (fs.filter (fun f => (p.frame f).movable))

/-- Drop a replica: the bay node clears its PRES bit (R151). -/
def State.dropReplica (s : State) (p g : Nat) : State :=
  let t := s.tagOf p g
  ((s.freeCopy p g).tally p 5).relistHeld g t.mode t.mirror

/-- The page in a frame starts to move out of the package, for a fill that needs the frame (R152). -/
def State.startInjection (s : State) (p f fill : Nat) : State :=
  let t := (s.pkgD p).frame f
  let s := s.modPkg p (fun q => q.setFrame f { t with state := fsInjecting })
  let (s, x) := s.newItem (.inj { pkg := p, frame := f, page := t.gpn, cands := [], level := 0, locked := false, target := none,
                                  refused := 0, exhausted := false, fill := fill, readers := [], waitAt := none })
  (s.tally p 9).later (.injectionOffer x)

/-- A frame for a fill of a leaf's page (R151): an INVALID ordinary way, else that of a dropped replica; a master that must leave is
injected, once for each fill, and the fill waits (none). Past FRMMAX only frames of the tenant that every exceeded budget is charged
for are chosen (R47, R151). -/
def State.takeFrame (s : State) (p g owner leaf fill need : Nat) : State × Option Nat :=
  let fs := (ordinaryWays (pageSet g)).map (fun w => pageSet g * 16 + w)
  let k := s.pkgD p
  let path := (s.path p leaf)
  let tight := (budgetPath 3 path).filter (fun (a, b) => decide (b.frmmax < s.framesUnder p a b + need))
  let charged (f : Nat) : Bool := decide ((k.frame f).owner = owner) &&
    tight.all (fun (a, b) => decide (b.level = 0) || s.inSubtree p (k.frame f).charge a)
  let leave (s : State) (f : Nat) : State × Option Nat :=
    if (k.frame f).state = 1 then (s.dropReplica p (k.frame f).gpn, some f)
    else if s.injs.any (fun (_, j) => decide (j.pkg = p) && decide (pageSet j.page = pageSet g) && decide (j.fill = fill)) then (s, none)
    else (s.startInjection p f fill, none)
  let free := if tight.isEmpty then fs.find? (fun f => decide ((k.frame f).state = 0)) else none
  match free, k.victim (if tight.isEmpty then fs else fs.filter (fun f => decide ((k.frame f).state ≠ 0) && charged f)) with
  | some f, _ => (s, some f)
  | none, some f => leave s f
  | none, none => (s, none)

/-- The oldest place of a set for a page that arrives: behind the valid ordinary ways. -/
def Pkg.lastAge (p : Pkg) (g : Nat) : Nat :=
  min 15 ((ordinaryWays (pageSet g)).filter (fun w => decide ((p.frame (pageSet g * 16 + w)).state ≠ 0))).length

end Sys2Proof.Machine
end

