-- ==== Sys2Proof/Machine/Publish.lean ====
section
/-! DEFINITION. Publication (R199 to R216, R373, R421): PUB, the scribes, entering, visiting and marking objects, the wait list and
the walk's end. An object on the stack is (virtual address, next body word); `row` counts the oldest entries that were spilled
(R212); `formed` says that the root has been entered or passed over; `off` is one more than the number of lines of the newest object
that have been written back, and 0 once all have. -/

namespace Sys2Proof.Machine

/-! ## PUB (R208, R373) -/

/-- The lowest idle scribe of a die (R421). -/
def State.idleScribe (s : State) (p d : Nat) : Option Nat :=
  (List.range 8).find? (fun w => (SMap.find? ((s.pkgD p).die d).scribes w).isNone)

/-- A scribe takes a walk: its next sequence number, from 1, wrapping from 65,535 back to 1 (R200). -/
def State.startWalk (s : State) (x : Nat) (o : Op) (w : Nat) : State :=
  let d := dieOf o.core
  let n := SMap.get ((s.pkgD o.pkg).die d).stamps 0 w % 65535 + 1
  let s := s.modDie o.pkg d (fun q => { q with scribes := SMap.put q.scribes w x, stamps := SMap.set q.stamps 0 w n,
                                               pubQ := q.pubQ.filter (fun y => decide (y ≠ x)) })
  ((s.modOp x (fun o => { o with st := .running, scribe := w, stamp := n })).tally o.pkg 22).later (.objectMark x)

/-- PUB (R208, R373): the tag check, an empty log, the release at its scope, then the walk, at an idle scribe or in the die's
queue. -/
def execPub (h : Nat) (sc : Scope) (a : Nat) (s : State) : Out :=
  ungoverned s [(a, 2)] (fun k g t =>
    let d := dieOf t.place.core
    if !t.tag a then s.trapAt k 0x07 (t.rd64 a)
    else ordered s k t
      (if 63 ≤ t.cnt .store then s.stay k (.counter Cls.store.num)
       else if s.queueFull g k.uid t.place.core 4 then s.stay k (.queue 4)
       else releaseFirst s k g t false true (decide (sc ≠ .grp ∧ sc ≠ .clu)) (closesPhase sc g)
        (issueOp (s.stored k.uid) k g t h .store (some 4) { newOpOf k g t .pub [] 0 with ga := t.rd64 a, scope := sc }
          (fun s x =>
            match s.idleScribe g.pkg d, ((s.pkgD g.pkg).die d).pubQ, s.op? x with
            | some w, [], some o => s.startWalk x o w
            | _, _, _ => (s.modDie g.pkg d (fun q => { q with pubQ := q.pubQ ++ [x] })).laterOnce (.walkStart g.pkg d)))))

/-- WALK_START (R421): an idle scribe takes the head of its die's queue. -/
def execWalkStart (p die : Nat) (s : State) : Out := .next (
  match s.idleScribe p die, ((s.pkgD p).die die).pubQ with
  | some w, x :: rest =>
    match s.op? x with
    | some o =>
      let s := if o.kind = .pub && decide (o.st = .queued) then s.startWalk x o w
               else s.modDie p die (fun q => { q with pubQ := rest })
      if rest.isEmpty then s else s.laterOnce (.walkStart p die)
    | none => (s.modDie p die (fun q => { q with pubQ := rest })).laterOnce (.walkStart p die)
  | _, _ => s)

/-! ## The walk's accesses (R186, R209, R213) -/

inductive WalkAcc where
  | ready (t : Trans) (home : Nat)
  | wait
  /-- a walk fault that the thread finds by the root's header -/
  | outside
  | lost

/-- Where an address of the walk lies: OBJ memory with a master somewhere, whose home slice performs the access (R209). -/
def State.walkPlace (s : State) (x : Nat) (o : Op) (va dir : Nat) : State × WalkAcc :=
  match s.xlate o.pkg o.core o.leaf va dir .any with
  | (s, .fail) | (s, .scr) => (s, .outside)
  | (s, .miss) => (s.opWalk x o va dir, .wait)
  | (s, .hit t) =>
    let pg := t.addr va / 65536
    if t.mtype ≠ 1 then (s, .outside)
    else if s.pageLost pg then (s.opLost o pg va dir, .lost)
    else match s.masterOf pg with
      | some m => (s, .ready t m)
      | none =>
        ((s.needPage o.pkg x o.leaf (s.tenantId o.pkg o.leaf) t.mtype t.peer t.cmp pg va t.side false o.force dir).later (.objectMark x),
         .wait)

/-- An access of the walk: a line that fails its check stops it (R292). -/
def State.walkAddr (s : State) (x : Nat) (o : Op) (va dir : Nat) : State × WalkAcc :=
  match s.walkPlace x o va dir with
  | (s, .ready t m) =>
    if s.mismatched (s.opAgent o) t va then (s.integrityFail o.thr o.core, .wait)
    else (s.touchLine (s.opAgent o) t (t.addr va) (decide (dir = 2)), .ready t m)
  | r => r

/-- A page of the walk buffer that the walk is about to use, named by an address in it: LOST, it is a walk fault with cause 0x09; with
no master, the walk waits for it, and KIND 2 names the global address as its VA (R83, R212, R213; log entry 118). -/
def State.bufferPage (s : State) (x : Nat) (o : Op) (ga dir : Nat) : State × Bool :=
  let pg := ga / 65536
  if s.pageLost pg then ((s.opLost o pg ga dir).failOp x 0x09 (BitVec.ofNat 64 ga), false)
  else if (s.masterOf pg).isSome then (s, true)
  else ((s.needPage o.pkg x o.leaf (s.tenantId o.pkg o.leaf) 1 0 0 pg ga false false o.force dir).later (.objectMark x), false)

/-- A walk fault (R213). -/
def State.walkFaults (s : State) (x : Nat) : State :=
  match s.op? x with
  | none => s
  | some o => ((s.faultWalk x o).dropWalksOf x).finishOp x

/-- What becomes of the walk where an access of it is not ready. -/
def State.walkStop (s : State) (x : Nat) (va : Nat) (r : WalkAcc) : State :=
  match r with
  | .outside => s.walkFaults x
  | .lost => s.failOp x 0x09 (BitVec.ofNat 64 va)
  | _ => s

/-! ## Entering (R209, R212) -/

/-- The walk's name in a header's second word, and its stamp (R200). -/
def Op.wpkg (o : Op) : Nat := o.pkg % 4096 * 2 ^ 52 + (8 * dieOf o.core + o.scribe) % 64 * 2 ^ 46

/-- The lowest free block of a walk buffer, 1 to the lesser of its blocks and 32,768 less one (R212). -/
def State.freeBlock (s : State) (base blocks : Nat) : Option Nat :=
  ((List.range (min blocks 32768)).drop 1).find? (fun i => !((s.gbyte (base + i / 8)).getLsbD (i % 8)))

/-- What the push of one more entry needs of the walk buffer: nothing below 64 entries, else the page of the last block or, where that
is full, those of the bitmap and of the lowest free block. -/
def State.pushReady (s : State) (x : Nat) (o : Op) : State × Bool :=
  let (base, n) := s.effWalkBuf o.pkg o.leaf
  if o.stack.length - o.row < 64 then (s, true)
  else if o.row < 256 * o.blocks.length then s.bufferPage x o (base + o.blocks.headD 0 * 4096) 1
  else if min n 32768 ≤ 1 then (s, true)
  else match s.bufferPage x o base 2 with
    | (s, false) => (s, false)
    | (s, true) =>
      let (s, _) := s.partRead o.pkg base 4096
      match s.freeBlock base n with
      | none => (s, true)
      | some b => s.bufferPage x o (base + b * 4096) 1

/-- Push onto the stack: past 64 entries the oldest is spilled, into a new block when the last is full. None when no block is free
(R212). A block's bytes are in the part's own format: free values. -/
def State.pushWalk (s : State) (x : Nat) (o : Op) (va : Nat) : Option State :=
  let put (s : State) (f : Op → Op) : State := s.modOp x (fun o => f { o with stack := (va, 0) :: o.stack })
  if o.stack.length - o.row < 64 then some (put s id)
  else
    let (base, n) := s.effWalkBuf o.pkg o.leaf
    let spill (s : State) (b : Nat) : State :=
      let a := base + b * 4096 + o.row % 256 * 16
      let (s, bs) := s.freeBytes a 16
      (s.partWrite o.pkg a bs).tally o.pkg 25
    if o.row < 256 * o.blocks.length then some (put (spill s (o.blocks.headD 0)) (fun o => { o with row := o.row + 1 }))
    else
      let (s, _) := s.partRead o.pkg base 4096
      match s.freeBlock base n with
      | none => none
      | some b =>
        some (put (spill (s.setBlockBit o.pkg (dieOf o.core) base b true) b) (fun o => { o with row := o.row + 1, blocks := b :: o.blocks }))

inductive EnterRes where
  /-- the walk goes on -/
  | on
  /-- it waits, or it has ended -/
  | stop
  deriving DecidableEq, Repr

/-- Recall the words of a line to its home, and set its VIS to 1 (R207, R209). -/
def State.visitLine (s : State) (ga : Nat) : State :=
  ((s.homeRead (lineBase ga) 128).1).modMeta ga (fun m => { m with vis := 1 })

/-- The agent of a walk's reads and atomics (R186). -/
def State.walkHeader (s : State) (o : Op) (t : Trans) (va : Nat) : State × Nat × Nat := s.header (s.opAgent o) t va

/-- Enter the object at an address: one atomic at the home of its header (R209, R211, R215), once no checked STREF that names it is
still to store (R210; log entry 117) and the walk buffer takes a spill. `listed` objects stay on the wait list
while they are PUBLISHING; others join it. -/
def State.enterObject (s : State) (x : Nat) (o : Op) (va : Nat) : State × EnterRes :=
  match s.walkAddr x o va 2 with
  | (s, .ready t _) =>
    let ga := t.addr va
    let (s, h, h8) := s.walkHeader o t va
    let v := s.liveHeader h h8
    let sc := o.scope.code
    if !hdrValid v h8 then (s.walkFaults x, .stop)
    else if hdrState v = 2 && decide (sc ≤ hdrScope v) then (s, .on)
    else if hdrState v = 1 then
      if bitsOf v 31 16 = o.stamp && decide (h8 = o.wpkg) then (s, .on)
      else if va ∈ o.waitList then (s, .on)
      else ((s.modOp x (fun o => { o with waitList := o.waitList ++ [va] })).tally o.pkg 26, .on)
    else if s.refPending ga then (s.later (.objectMark x), .stop)
    else match s.pushReady x o with
    | (s, false) => (s, .stop)
    | (s, true) =>
      let s := s.homeWrite ga (leBytes 8 (hdrLen v * 2 ^ 32 + o.stamp * 2 ^ 16 + 2 ^ 14 + sc * 2 ^ 11))
      let s := s.homeWrite (ga + 8) (leBytes 8 o.wpkg)
      let s := (s.modOp x (fun o => { o with entered := ga :: o.entered, off := 1 })).tally o.pkg 24
      match s.pushWalk x o va with
      | some s => (s, .on)
      | none => (s.walkFaults x, .stop)
  | (s, r) => (s.walkStop x va r, .stop)

/-! ## Visiting (R209) -/

/-- LEN of the object in visit, from its header; a header that is not valid is a walk fault (R213). -/
def State.visitLen (s : State) (x : Nat) (o : Op) (va : Nat) : State × Option Nat :=
  match s.walkAddr x o va 0 with
  | (s, .ready t _) =>
    let (s, h, h8) := s.walkHeader o t va
    if hdrValid h h8 then (s, some (hdrLen h)) else (s.walkFaults x, none)
  | (s, r) => (s.walkStop x va r, none)

/-- A visit begins: the next line of the object's header and body is written back and takes VIS 1 (R209). Answers whether the walk goes
on. -/
def State.visitBegin (s : State) (x : Nat) (o : Op) (va len : Nat) : State × EnterRes :=
  let i := o.off - 1
  if (va % 128 + 16 + len + 127) / 128 ≤ i then (s.modOp x (fun o => { o with off := 0 }), .on)
  else
    let lo := max va (va / 128 * 128 + 128 * i)
    match s.walkAddr x o lo 0 with
    | (s, .ready t _) => ((s.visitLine (t.addr lo)).modOp x (fun o => { o with off := i + 2 }), .on)
    | (s, r) => (s.walkStop x lo r, .stop)

/-- The next word of the object in visit; the object it references is entered and visited first. Answers whether the walk goes on. -/
def State.visitWord (s : State) (x : Nat) (o : Op) (va next : Nat) : State × EnterRes :=
  let w := va + 16 + 8 * next
  match s.walkAddr x o w 0 with
  | (s, .ready t _) =>
    let ga := t.addr w
    let (s, b) := s.homeRead ga 8
    let step (s : State) : State := s.modOp x (fun o => { o with stack := o.stack.map (fun (v, n) =>
      if v = va && n = next then (v, n + 1) else (v, n)) })
    if s.tagAt ga then
      match s.enterObject x o (bitsOf (leNat b) 55 4 * 16) with
      | (s, .on) => (step s, .on)
      | r => r
    else (step s, .on)
  | (s, r) => (s.walkStop x w r, .stop)

/-! ## Marking (R207, R209) -/

/-- The top of the stack has been marked: it is popped; an empty stack takes back the newest spilled entry, and a block that has
become empty is freed (R212). -/
def State.popWalk (s : State) (x : Nat) (o : Op) : State :=
  let back := decide (o.stack.length - 1 = o.row) && decide (0 < o.row)
  let row := if back then o.row - 1 else o.row
  let empty := decide (row + 256 = 256 * o.blocks.length) && back
  let s := if empty then s.setBlockBit o.pkg (dieOf o.core) (s.effWalkBuf o.pkg o.leaf).1 (o.blocks.headD 0) false else s
  s.modOp x (fun o => { o with stack := o.stack.drop 1, marking := none, row := row, blocks := if empty then o.blocks.drop 1 else o.blocks })

/-- What the pop of the top of the stack needs of the walk buffer: the page of the block it takes an entry back from, and the bitmap's
where the block empties. -/
def State.popReady (s : State) (x : Nat) (o : Op) : State × Bool :=
  let base := (s.effWalkBuf o.pkg o.leaf).1
  if !(decide (o.stack.length - 1 = o.row) && decide (0 < o.row)) then (s, true)
  else match s.bufferPage x o (base + o.blocks.headD 0 * 4096) 0 with
    | (s, false) => (s, false)
    | (s, true) => if o.row + 255 = 256 * o.blocks.length then s.bufferPage x o base 2 else (s, true)

/-- The next line of a marked object takes its VIS (R207), a fresh translation first; a line that no longer translates to OBJ memory
keeps the one it has. After the last line the object is popped. Answers whether the walk goes on. -/
def State.visLine (s : State) (x : Nat) (o : Op) (va i len : Nat) : State × EnterRes :=
  let lo := max va (va / 128 * 128 + 128 * i)
  let hi := min (va + len) (va / 128 * 128 + 128 * i + 128)
  let on (s : State) : State × EnterRes := (s.modOp x (fun o => { o with marking := some (i + 1, len) }), .on)
  if hi ≤ lo then
    match s.popReady x o with
    | (s, true) => (s.popWalk x o, .on)
    | (s, false) => (s, .stop)
  else match s.walkPlace x o lo 0 with
    | (s, .ready t _) => on (s.modMeta (t.addr lo) (fun m => { m with vis := if hi - lo = 128 || m.vis = 2 then 2 else 3 }))
    | (s, .outside) => on s
    | (s, r) => (s.walkStop x lo r, .stop)

/-- Mark the object in visit PUBLISHED, at the home of its header; its lines take their VIS next (R209). -/
def State.markObject (s : State) (x : Nat) (o : Op) (ga h : Nat) : State :=
  (s.homeWrite ga (leBytes 8 (h - bitsOf h 15 11 * 2 ^ 11 + 2 ^ 15 + o.scope.code * 2 ^ 11))).modOp x
    (fun o => { o with entered := o.entered.drop 1, marking := some (0, 16 + hdrLen h) })

/-- Go on with the walk for some lines and words: it stops at an object whose body has been read, whose mark comes next. -/
def State.walkOnFor : Nat → Nat → State → State
  | 0, x, s => s.later (.objectMark x)
  | f + 1, x, s =>
    match s.op? x with
    | none => s
    | some o =>
      match o.stack, o.marking with
      | (va, _) :: _, some (i, len) =>
        match s.visLine x o va i len with
        | (s, .on) => State.walkOnFor f x s
        | (s, .stop) => s
      | (va, next) :: _, none =>
        match s.visitLen x o va with
        | (s, none) => s
        | (s, some len) =>
          if o.off = 0 && decide (len / 8 ≤ next) then s.later (.objectMark x)
          else match (if o.off = 0 then s.visitWord x o va next else s.visitBegin x o va len) with
            | (s, .on) => State.walkOnFor f x s
            | (s, .stop) => s
      | _, _ => s.later (.walkComplete x)

/-- OBJECT_MARK (R209): the object in visit is marked once its body has been read, and the walk goes on: first the root is entered,
then lines are written back and words are read until the next object is due. -/
def execObjectMark (x : Nat) (s : State) : Out := .next (
  match s.op? x with
  | none => s
  | some o =>
    if o.kind ≠ .pub || o.st ≠ .running || !s.alive o.pkg then s
    else if !o.formed then
      match s.enterObject x o o.ga.toNat with
      | (s, .on) => State.walkOnFor 64 x (s.modOp x (fun o => { o with formed := true }))
      | (s, .stop) => s
    else if o.marking.isSome then State.walkOnFor 64 x s
    else match o.stack with
      | (va, next) :: _ =>
        match s.walkAddr x o va 2 with
        | (s, .ready t _) =>
          let (s, h, h8) := s.walkHeader o t va
          if !hdrValid h h8 then s.walkFaults x
          else State.walkOnFor 64 x (if o.off = 0 && decide (hdrLen h / 8 ≤ next) then s.markObject x o (t.addr va) h else s)
        | (s, r) => s.walkStop x va r
      | _ => s.laterOnce (.walkComplete x))

/-! ## The wait list and completion (R211, R214) -/

/-- Judge an object of the wait list: it leaves the list once it is PUBLISHED at the walk's scope; PRIVATE or narrower again, the
walk enters it (R211). -/
def State.judgeListed (s : State) (x va : Nat) : State × EnterRes :=
  match s.op? x with
  | none => (s, .stop)
  | some o =>
    match s.walkAddr x o va 2 with
    | (s, .ready t _) =>
      let (s, h, h8) := s.walkHeader o t va
      let v := s.liveHeader h h8
      if hdrValid v h8 && decide (hdrState v = 1) then (s, .on)
      else
        let s := s.modOp x (fun o => { o with waitList := o.waitList.filter (fun y => decide (y ≠ va)) })
        s.enterObject x { o with waitList := o.waitList.filter (fun y => decide (y ≠ va)) } va
    | (s, r) => (s.walkStop x va r, .stop)

/-- WALK_COMPLETE (R211, R214): once every object of the wait list is PUBLISHED at the scope, the walk completes: DONE in its future,
its count retires, its scribe is idle. -/
def execWalkComplete (x : Nat) (s : State) : Out := .next (
  match s.op? x with
  | none => s
  | some o =>
    if o.kind ≠ .pub || o.st ≠ .running || !o.formed || !o.stack.isEmpty || !s.alive o.pkg then s
    else
      let (s, r) := o.waitList.foldl (fun (s, r) va =>
        if r = EnterRes.stop || (match s.op? x with | some o => !o.stack.isEmpty | none => true) then (s, r)
        else State.judgeListed s x va) (s, EnterRes.on)
      if r = .stop then s
      else match s.op? x with
        | none => s
        | some o =>
          if !o.stack.isEmpty then s.laterOnce (.objectMark x)
          else if !o.waitList.isEmpty then s.later (.walkComplete x)
          else (s.freeScribe o).finishOp x)

end Sys2Proof.Machine
end

