-- ==== Sys2Proof/Machine/Special.lean ====
section
/-! DEFINITION. Special registers: SRD, SWR, WINB and PRIO (R22, R25, R33, R86, R99, R299, R372, R384, R385, R397). -/

namespace Sys2Proof.Machine

/-- CREW (R33). -/
def crewWord (g : Group) (t : Nat) : Nat := t / 32 % 1024 + g.lr.role (t / 32) * 1024

/-- The value of a special register for a thread (R299). TBHI is the captured value where one is. -/
def State.special (s : State) (k : TKey) (g : Group) (t : Thread) (r : SReg) : DWord :=
  let n (x : Nat) : DWord := BitVec.ofNat 64 x
  match r with
  | .tidx => n k.tidx
  | .crew => n (crewWord g k.tidx)
  | .gidx => n g.gidx
  | .gsize => n g.lr.threads
  | .ngrp => n g.lr.groups
  | .pbase => n (g.lr.pbase g.gidx)
  | .slim => n g.lr.slimw
  | .scrb => n g.lr.scrBytes
  | .wbase => n t.wbase
  | .repc => n t.repc
  | .prio => t.prio.setWidth 64
  | .fmode => t.fmode.setWidth 64
  | .fflags => t.fflags.setWidth 64
  | .mprg => t.mprg.setWidth 64
  | .trapc => t.trapc.setWidth 64
  | .trappc => t.trappc
  | .trapva => t.trapva
  | .trapdepth => n t.depth
  | .tblo => n (s.now g.pkg % 2 ^ 32)
  | .tbhi => match t.tbhi with | some w => w.setWidth 64 | none => n (s.now g.pkg / 2 ^ 32 % 2 ^ 32)
  | .cyc => n (s.pkgD g.pkg).cyc
  | .seed => t.seed.setWidth 64

/-- What reading a register does besides: TBLO captures TBHI, and the next read of TBHI takes the captured value (R299). -/
def State.capture (s : State) (g : Group) (r : SReg) (t : Thread) : Thread :=
  match r with
  | .tblo => { t with tbhi := some (BitVec.ofNat 32 (s.now g.pkg / 2 ^ 32)) }
  | .tbhi => { t with tbhi := none }
  | _ => t

/-- Registers a special register moves through. -/
def sregSpan (r : SReg) : Nat := if r.is64 then 2 else 1

/-- SRD (R384): the destination pair loses its tag. -/
def execSrd (d : Nat) (r : SReg) (s : State) : Out :=
  ungoverned s [(d, sregSpan r)] (fun k g t =>
    let v := s.special k g t r
    s.retire k (fun t => s.capture g r (if r.is64 then t.wr64 d v else t.wr d (pairLo v))))

/-- WINB (R22, R397): a base that is not a multiple of 8, or with base + W above A, raises an allotment fault. -/
def setWindow (s : State) (k : TKey) (g : Group) (t : Thread) (b : Nat) : State :=
  if b % 8 = 0 && decide (b + g.lr.window ≤ g.lr.allot) then s.retire k (fun t => { t with wbase := b }) else s.allotmentFault k t

/-- WINB (R397). -/
def execWinb (b : Nat) (s : State) : Out := ungoverned s [] (fun k g t => setWindow s k g t b)
/-- PRIO (R372). -/
def execPrio (n : BitVec 3) (s : State) : Out := ungoverned s [] (fun k _ _ => s.retire k (fun t => { t with prio := n }))

/-- SWR (R385). -/
def execSwr (r : SReg) (a : Nat) (s : State) : Out :=
  ungoverned s [(a, sregSpan r)] (fun k g t =>
    let v := t.rd a
    let set (f : Thread → Thread) : State := s.retire k f
    match r with
    | .wbase => setWindow s k g t v.toNat
    | .prio => set (fun t => { t with prio := v.setWidth 3 })
    | .fmode =>
      if 5 ≤ v.toNat % 8 then s.trapAt k 0x01 0 else set (fun t => { t with fmode := v &&& 0xF#32 })
    | .fflags => set (fun t => { t with fflags := v &&& 0x1F#32 })
    | .trapc => set (fun t => { t with trapc := v &&& 0xF0FF#32 })
    | .trappc => set (fun t => { t with trappc := t.rd64 a &&& ~~~3#64 })
    | .trapva => set (fun t => { t with trapva := t.rd64 a })
    | .seed => set (fun t => { t with seed := v })
    | _ => s.trapAt k 0x01 0)

end Sys2Proof.Machine
end

