-- ==== Sys2Proof/Machine/Spans.lean ====
section
/-! DEFINITION. The register fields that each form names (R22, R300 step 4), and the readiness of a thread that they decide (R24). -/

namespace Sys2Proof

open Machine in
/-- The register fields that an instruction word names: (first window register, how many). The events of the part name none. -/
def Instr.spans : Instr → Machine.Spans
  | .iadd d a b => [(d, 1), (a, 1), (b, 1)]
  | .iadd64 d a b => [(d, 2), (a, 2), (b, 2)]
  | .iaddImm d a _ => [(d, 1), (a, 1)]
  | .isub d a b => [(d, 1), (a, 1), (b, 1)]
  | .isub64 d a b => [(d, 2), (a, 2), (b, 2)]
  | .imul d a b => [(d, 1), (a, 1), (b, 1)]
  | .imul64 d a b => [(d, 2), (a, 2), (b, 2)]
  | .imulhS32 d a b => [(d, 1), (a, 1), (b, 1)]
  | .imulhZ32 d a b => [(d, 1), (a, 1), (b, 1)]
  | .imad d a b => [(d, 1), (a, 1), (b, 1)]
  | .imad64 d a b => [(d, 2), (a, 2), (b, 2)]
  | .idiv _ d a b => [(d, 1), (a, 1), (b, 1)]
  | .irem _ d a b => [(d, 1), (a, 1), (b, 1)]
  | .imin _ d a b => [(d, 1), (a, 1), (b, 1)]
  | .imin64 _ d a b => [(d, 2), (a, 2), (b, 2)]
  | .imax _ d a b => [(d, 1), (a, 1), (b, 1)]
  | .imax64 _ d a b => [(d, 2), (a, 2), (b, 2)]
  | .iabs d a => [(d, 1), (a, 1)]
  | .iabs64 d a => [(d, 2), (a, 2)]
  | .ineg d a => [(d, 1), (a, 1)]
  | .ineg64 d a => [(d, 2), (a, 2)]
  | .and d a b => [(d, 1), (a, 1), (b, 1)]
  | .and64 d a b => [(d, 2), (a, 2), (b, 2)]
  | .andn d a b => [(d, 1), (a, 1), (b, 1)]
  | .andn64 d a b => [(d, 2), (a, 2), (b, 2)]
  | .or d a b => [(d, 1), (a, 1), (b, 1)]
  | .or64 d a b => [(d, 2), (a, 2), (b, 2)]
  | .xor d a b => [(d, 1), (a, 1), (b, 1)]
  | .xor64 d a b => [(d, 2), (a, 2), (b, 2)]
  | .shl d a b => [(d, 1), (a, 1), (b, 1)]
  | .shl64 d a b => [(d, 2), (a, 2), (b, 1)]
  | .shr d a b => [(d, 1), (a, 1), (b, 1)]
  | .shr64 d a b => [(d, 2), (a, 2), (b, 1)]
  | .sar d a b => [(d, 1), (a, 1), (b, 1)]
  | .sar64 d a b => [(d, 2), (a, 2), (b, 1)]
  | .rot d a b => [(d, 1), (a, 1), (b, 1)]
  | .rot64 d a b => [(d, 2), (a, 2), (b, 1)]
  | .clz d a => [(d, 1), (a, 1)]
  | .popc d a => [(d, 1), (a, 1)]
  | .brev d a => [(d, 1), (a, 1)]
  | .iset w _ _ a b => [(a, w.regs), (b, w.regs)]
  | .isel _ d a b => [(d, 1), (a, 1), (b, 1)]
  | .lea d a _ => [(d, 2), (a, 2)]
  | .fadd d a b => [(d, 1), (a, 1), (b, 1)]
  | .fsub d a b => [(d, 1), (a, 1), (b, 1)]
  | .fmul d a b => [(d, 1), (a, 1), (b, 1)]
  | .ffma d a b => [(d, 1), (a, 1), (b, 1)]
  | .fmin d a b => [(d, 1), (a, 1), (b, 1)]
  | .fmax d a b => [(d, 1), (a, 1), (b, 1)]
  | .frcp d a => [(d, 1), (a, 1)]
  | .frsq d a => [(d, 1), (a, 1)]
  | .fsqrt d a => [(d, 1), (a, 1)]
  | .fexp2 d a => [(d, 1), (a, 1)]
  | .flog2 d a => [(d, 1), (a, 1)]
  | .fsin d a => [(d, 1), (a, 1)]
  | .fcos d a => [(d, 1), (a, 1)]
  | .ftanh d a => [(d, 1), (a, 1)]
  | .fcmp _ _ a b => [(a, 1), (b, 1)]
  | .cvt dst src d a => [(d, kindRegs dst), (a, kindRegs src)]
  | .cvtd dst src _ d a => [(d, kindRegs dst), (a, kindRegs src)]
  | .vaddInt _ d a b => [(d, 1), (a, 1), (b, 1)]
  | .vsubInt _ d a b => [(d, 1), (a, 1), (b, 1)]
  | .vmulInt _ d a b => [(d, 1), (a, 1), (b, 1)]
  | .vminInt _ d a b => [(d, 1), (a, 1), (b, 1)]
  | .vmaxInt _ d a b => [(d, 1), (a, 1), (b, 1)]
  | .vdot4 d a b => [(d, 1), (a, 1), (b, 1)]
  | .vaddFloat _ d a b => [(d, 1), (a, 1), (b, 1)]
  | .vsubFloat _ d a b => [(d, 1), (a, 1), (b, 1)]
  | .vmulFloat _ d a b => [(d, 1), (a, 1), (b, 1)]
  | .vminFloat _ d a b => [(d, 1), (a, 1), (b, 1)]
  | .vmaxFloat _ d a b => [(d, 1), (a, 1), (b, 1)]
  | .vfma _ d a b => [(d, 1), (a, 1), (b, 1)]
  | .vsel _ d a b => [(d, 1), (a, 1), (b, 1)]
  | .vpack _ d a b => [(d, 1), (a, 1), (b, 1)]
  | .vunpk _ d a b => [(d, 1), (a, 1), (b, 1)]
  | .pand _ _ _ => []
  | .por _ _ _ => []
  | .pxor _ _ _ => []
  | .pnot _ _ => []
  | .pmovPred _ _ => []
  | .pmovFromV _ v => [(v, 1)]
  | .pmovToV _ v => [(v, 1)]
  | .ld k d b _ => [(d, k.regs), (b, 2)]
  | .ldref d b _ => [(d, 2), (b, 2)]
  | .st k r b _ => [(r, k.regs), (b, 2)]
  | .stref r b _ => [(r, 2), (b, 2)]
  | .lds k d b _ => [(d, k.regs), (b, 1)]
  | .sts k r b _ => [(r, k.regs), (b, 1)]
  | .ldpv w d b _ => [(d, w.regs), (b, 1)]
  | .stpv w r b _ => [(r, w.regs), (b, 1)]
  | .ldAcq w d a _ => [(d, w.regs), (a, 2)]
  | .ldrefAcq d a _ => [(d, 2), (a, 2)]
  | .stRel32 d a _ => [(d, 1), (a, 2)]
  | .stRel64 d a _ => [(d, 2), (a, 2)]
  | .strefRel d a _ => [(d, 2), (a, 2)]
  | .ldsAcq w d a _ => [(d, w.regs), (a, 1)]
  | .stsRel w d a _ => [(d, w.regs), (a, 1)]
  | .atom op d a _ _ _ => [(d, op.span), (a, 2)]
  | .atoms op d a _ _ _ => [(d, op.span), (a, 1)]
  | .kld _ b _ => [(b, 2)]
  | .kst _ b _ => [(b, 2)]
  | .oinit d a b => [(d, 2), (a, 2), (b, 1)]
  | .launch d a _ => [(d, 1), (a, 2)]
  | .pref a => [(a, 2)]
  | .wbr a b => [(a, 2), (b, 1)]
  | .invr a b => [(a, 2), (b, 1)]
  | .cpt _ _ => []
  | .cps _ _ => []
  | .cpg _ _ a => [(a, 1)]
  | .cpsc _ _ a => [(a, 1)]
  | .cpb _ _ a => [(a, 1)]
  | .cpz _ _ a => [(a, 1)]
  | .cpr _ _ a => [(a, 1)]
  | .mma _ _ _ => []
  | .mmas _ _ a _ => [(a, 1)]
  | .mz _ _ => []
  | .mst _ _ _ => []
  | .mlda _ _ _ => []
  | .scacc _ _ _ _ => []
  | .scn _ _ => []
  | .scop _ a _ => [(a, 1)]
  | .pub _ _ a => [(a, 2)]
  | .hwait _ => []
  | .htest _ _ => []
  | .hcan _ => []
  | .hmov _ _ => []
  | .hst _ a => [(a, 1)]
  | .hld _ a => [(a, 1)]
  | .swarm a b => [(a, 1), (b, 1)]
  | .swadd a b => [(a, 1), (b, 1)]
  | .swait a b => [(a, 1), (b, 1)]
  | .rjoin a => [(a, 1)]
  | .brz a _ => [(a, 1)]
  | .bnz a _ => [(a, 1)]
  | .brp _ _ => []
  | .jmp _ => []
  | .call _ => []
  | .br a => [(a, 2)]
  | .callReg a => [(a, 2)]
  | .nop => []
  | .exit => []
  | .yield => []
  | .rsync => []
  | .rleave => []
  | .tret => []
  | .trap _ => []
  | .bkpt => []
  | .halt => []
  | .fence _ _ => []
  | .bar => []
  | .tmark a => [(a, 1)]
  | .prio _ => []
  | .rep _ _ _ _ => []
  | .repReg _ _ _ c => [(c, 1)]
  | .winb _ => []
  | .ret => []
  | .waitc _ _ _ _ => []
  | .movi d _ => [(d, 1)]
  | .movh d _ => [(d, 1)]
  | .mov d a => [(d, 1), (a, 1)]
  | .mov64 d a => [(d, 2), (a, 2)]
  | .kmovFromK d _ => [(d, 2)]
  | .kmovToK _ a => [(a, 2)]
  | .srd d r => [(d, sregSpan r)]
  | .swr r a => [(a, sregSpan r)]
  | .bfx _ d a b => [(d, 1), (a, 1), (b, 1)]
  | .bfi d a b => [(d, 1), (a, 1), (b, 1)]
  | .xshf w d a b => [(d, w.regs), (a, w.regs), (b, 1)]
  | .xbal d _ => [(d, 1)]
  | .xvote _ _ _ => []
  | .xidx d a => [(d, 1), (a, 1)]
  | .xred _ d a => [(d, 1), (a, 1)]
  | .xscan _ d a => [(d, 1), (a, 1)]
  | .invalidateDone _ => []
  | .windowRead _ _ _ _ => []
  | .windowWrite _ _ _ _ _ => []
  | .stepWaitEnd _ _ => []
  | .dump _ _ => []
  | .groupStop _ => []
  | .attestationSigned _ => []
  | .imagePhaseEnd _ _ _ _ _ _ _ => []
  | .repairPhaseEnd _ _ _ => []
  | .selftestEnd _ _ => []
  | .throttleRaise _ _ _ => []
  | .throttleLower _ _ _ => []
  | .holdoverEnter _ => []
  | .holdoverLeave _ => []
  | .ptpMessage _ _ => []
  | .bundlingRound _ _ => []
  | .priorityPromotion _ _ => []
  | .yieldDemotionEnd _ _ => []
  | .recordTake _ _ _ => []
  | .dependenceRecheck _ => []
  | .groupHandOut _ => []
  | .saveDone _ => []
  | .groupPlace _ _ => []
  | .clusterModeChange _ _ _ => []
  | .drainEnd _ => []
  | .clusterReport _ _ _ => []
  | .launchEnqueue _ => []
  | .faultPost _ _ => []
  | .accessReplay _ _ => []
  | .engineFailureTrap _ _ => []
  | .translationWalkDone _ => []
  | .homeReadRequest _ => []
  | .ownershipRequest _ => []
  | .forwardedRead _ => []
  | .writeBackArrival _ => []
  | .atomicAtHome _ => []
  | .releaseCompletion _ _ => []
  | .routerPowerDown _ _ => []
  | .routerWake _ _ => []
  | .climbingMiss _ => []
  | .pageMoveDone _ => []
  | .upgrade _ => []
  | .markArrival _ => []
  | .injectionOffer _ => []
  | .injectionConfirm _ => []
  | .holderReport _ _ _ => []
  | .windowEnd _ => []
  | .flitReceive _ _ _ => []
  | .linkReplayRequest _ _ _ => []
  | .ackCreditReturn _ _ _ _ => []
  | .windowAuditSend _ _ => []
  | .windowAuditReceive _ _ _ => []
  | .copyArrival _ => []
  | .copyComplete _ => []
  | .kBlockDone _ => []
  | .matrixComplete _ => []
  | .scanStart _ => []
  | .carryArrival _ => []
  | .scanComplete _ => []
  | .walkStart _ _ => []
  | .walkComplete _ => []
  | .timeseriesTick _ => []
  | .objectMark _ => []
  | .accessCompletion _ => []
  | .scrub _ _ => []
  | .linkTrainingDone _ _ _ => []
  | .refresh _ _ => []
  | .invalidate _ _ => []
  | .domainReset _ _ => []
  | .loss _ _ => []
  | .releaseLost _ _ => []
  | .resolve _ _ _ => []
  | .fqheadWrite _ _ _ => []
  | .registerWrite _ _ _ _ _ _ => []
  | .queueTailDoorbell _ _ _ _ _ => []
  | .debugHalt _ _ => []
  | .haltRegion _ _ => []
  | .resume _ _ => []
  | .step _ _ => []
  | .readContext _ _ => []
  | .writeContext _ _ => []
  | .dumpPage _ _ => []
  | .attach _ _ => []
  | .detach _ _ => []
  | .breakpointSlotWrite _ _ _ _ _ => []
  | .watchpointSlotWrite _ _ _ _ _ => []
  | .tskWrite _ _ _ => []
  | .trrdWrite _ _ _ => []
  | .attestationRequest _ _ _ => []
  | .powerLoss _ => []
  | .softError _ _ => []
  | .linkFailure _ _ => []
  | .powerGood _ => []

end Sys2Proof

namespace Sys2Proof.Machine

/-- A thread's next instruction: the iteration under way, or the word at the PC where it can be read now. -/
def State.nextInstr (s : State) (k : TKey) (g : Group) (t : Thread) : Option Instr :=
  match t.iterates with
  | some r => match iteration g t r with | .run i => some i | .trap _ => none
  | none => match (s.fetchWord k g t t.pc).2 with
    | .word w => match decodeWord w with | .ok i => some i | .error _ => none
    | _ => none

/-- The pending registers that a thread's next instruction names: its operand dependence (R24). -/
def State.operandWait (s : State) (k : TKey) (g : Group) (t : Thread) : List Nat :=
  if t.pend.isEmpty || !t.engFail.isEmpty then []
  else match s.nextInstr k g t with
    | some i => if inWindow g t i.spans then pendingOf t i.spans else []
    | none => []

/-- The meanings of the words that read a k register or enter an engine's queue. -/
def engineWord : Instr → Option (State → Out)
  | .kmovFromK d n => some (execKmovFromK d n)
  | .kmovToK n a => some (execKmovToK n a)
  | .kld n b o => some (execKld n b o)
  | .kst n b o => some (execKst n b o)
  | .cpt h k => some (execCpt h k)
  | .cps h k => some (execCps h k)
  | .cpg h k a => some (execCpg h k a)
  | .cpsc h k a => some (execCpsc h k a)
  | .cpb h k a => some (execCpb h k a)
  | .cpz h k a => some (execCpz h k a)
  | .cpr h k a => some (execCpr h k a)
  | .mma h k z => some (execMma h k z)
  | .mmas h k a z => some (execMmas h k a z)
  | .mz h z => some (execMz h z)
  | .mst h k z => some (execMst h k z)
  | .mlda h k z => some (execMlda h k z)
  | .scacc h k p z => some (execScacc h k p z)
  | .scn h k => some (execScn h k)
  | .scop h a s_ => some (execScop h a s_)
  | .pub h sc a => some (execPub h sc a)
  | _ => none

/-- What a thread's next instruction would wait for as it issued now: a pending k register, or a full engine queue (R24, R356). -/
def State.engineWait (s : State) (k : TKey) (g : Group) (t : Thread) : Option Wait :=
  if !t.engFail.isEmpty || (t.kpend.isEmpty && !s.someFull g k.uid t.place.core) then none
  else match (s.nextInstr k g t).bind engineWord with
    | none => none
    | some f => match f { s.modThread k (fun t => { t with wait := .none }) with cur := some k } with
      | Host.Outcome.next u => match (u.thread? k).map Thread.wait with
        | some (.kreg n) => some (.kreg n)
        | some (.queue q) => some (.queue q)
        | _ => none
      | _ => none

/-- A thread depends on an operand, or on a replayed STREF (R24, R205). -/
def State.dependent (s : State) (k : TKey) (g : Group) (t : Thread) : Bool := !(s.operandWait k g t).isEmpty || s.headerHeld t
/-- A thread is blocked: by its wait, by a dependence, or by a full engine queue (R24). -/
def State.blocked (s : State) (k : TKey) (g : Group) (t : Thread) : Bool :=
  s.waits k g t || s.dependent k g t || (s.engineWait k g t).isSome

/-- A thread is ready (R24). A stepped thread issues alone in its halted group (R281). -/
def State.ready (s : State) (k : TKey) : Bool :=
  match s.group? k.uid with
  | none => false
  | some g => match g.threads[k.tidx]? with
    | none => false
    | some t => g.lets k.tidx && !t.exited && t.park.isNone && !s.blocked k g t

end Sys2Proof.Machine
end

