-- ==== Sys2Proof/Machine/Issue.lean ====
section
/-! DEFINITION. The bundler (R23 to R28), the charging of cycles (R272), time (R12, R264), breakpoints at issue (R276), stepping
(R281), and what the next step of the machine is. -/

namespace Sys2Proof.Machine

/-! ## Priority (R25, R26) -/

/-- A thread that has not issued for 64 rounds of its group takes the promotion of R25. -/
def Thread.promote (t : Thread) : Thread := if 64 ≤ t.idle then { t with promoted := true } else t
/-- A YIELD demotion ends after 64 rounds (R26). -/
def Thread.demotionEnd (t : Thread) : Thread := if t.demLeft = 0 then { t with demoted := false } else t
/-- The effective priority of a ready thread (R25). -/
def Thread.effPrio (t : Thread) : Nat := if t.promoted then 7 else if t.demoted then 0 else t.prio.toNat

/-- PRIORITY_PROMOTION (R25). -/
def execPriorityPromotion (g t : Nat) (s : State) : Out :=
  .next (if s.ready ⟨g, t⟩ then s.modThread ⟨g, t⟩ Thread.promote else s)
/-- YIELD_DEMOTION_END (R26). -/
def execYieldDemotionEnd (g t : Nat) (s : State) : Out := .next (s.modThread ⟨g, t⟩ Thread.demotionEnd)

/-! ## Bundling rounds (R23, R27) -/

/-- A PC's rank: the highest effective priority at it, the longest wait at it, itself. -/
def pcRank (ts : List (Nat × Thread)) (pc : DWord) : Nat × Nat × Nat :=
  ts.foldl (fun (p, w, a) (_, t) => if t.pc = pc then (max p t.effPrio, min w t.since, a) else (p, w, a))
    (0, 2 ^ 64, pc.toNat)
/-- One PC goes before another (R27). -/
def pcBefore (a b : Nat × Nat × Nat) : Bool :=
  decide (b.1 < a.1 ∨ (a.1 = b.1 ∧ (a.2.1 < b.2.1 ∨ (a.2.1 = b.2.1 ∧ a.2.2 < b.2.2))))
/-- The PC of the next bundle (R27). -/
def choosePc (ts : List (Nat × Thread)) : Option DWord :=
  ts.foldl (fun b (_, t) => match b with
    | none => some t.pc
    | some pc => if pcBefore (pcRank ts t.pc) (pcRank ts pc) then some t.pc else b) none

/-- On one lane the longest-waiting thread at a PC, ties to the lowest TIDX (R23). -/
def lanePick (ts : List (Nat × Thread)) (pc : DWord) (lane : Nat) : Option Nat :=
  (ts.foldl (fun (b : Option (Nat × Nat)) (n, t) =>
    if t.place.lane = lane && decide (t.pc = pc) then
      match b with
      | none => some (n, t.since)
      | some (_, w) => if t.since < w then some (n, t.since) else b
    else b) none).map (·.1)

/-- Up to n bundles of the ready threads of a group, in TIDX order (R23). -/
def formBundles (u : Nat) : Nat → List (Nat × Thread) → List Bundle
  | 0, _ => []
  | n + 1, ts => match choosePc ts with
    | none => []
    | some pc =>
      let ms := ((ts.map (fun (_, t) => t.place.lane)).eraseDups.filterMap (lanePick ts pc)).foldl insertNat []
      ⟨pc, ms.map (fun m => ⟨u, m⟩), none⟩ :: formBundles u n (ts.filter (fun (m, _) => !decide (m ∈ ms)))

/-- The threads of a group that a core holds, by TIDX. -/
def Group.onCore (g : Group) (c : Nat) : List (Nat × Thread) :=
  ((g.threads.zipIdx).map (fun (t, n) => (n, t))).filter (fun (_, t) => decide (t.place.core = c))

/-- The resident groups of a core by group slot: (slot, instance). -/
def State.groupsOn (s : State) (p c : Nat) : List (Nat × Nat) :=
  s.groups.flatMap (fun (u, g) =>
    if g.pkg = p && decide (g.phase ≠ .saved) then (g.shares.filter (fun h => decide (h.core = c))).map (fun h => (h.gslot, u))
    else [])

/-- The group of the next round: round robin over the group slots, skipping groups without a ready thread (R23). -/
def State.roundGroup (s : State) (p c : Nat) : Option (Nat × Nat) :=
  let gs := s.groupsOn p c
  (List.range 32).findSome? (fun i =>
    let slot := ((s.coreOf p c).rrNext + i) % 32
    gs.find? (fun (n, u) => decide (n = slot) && match s.group? u with
      | some g => (g.onCore c).any (fun (m, _) => s.ready ⟨u, m⟩)
      | none => false))

/-- One bundling round of a core (R23). Its group's threads there count a round without issue, and a round of a demotion (R25,
R26). -/
def State.bundleRound (s : State) (p c : Nat) : State :=
  match s.roundGroup p c with
  | none => s.modCore p c (fun k => { k with bundles := [], open_ := false })
  | some (slot, u) =>
    let here (f : Thread → Thread) (s : State) : State :=
      s.modGroup u (fun g => { g with threads := g.threads.map (fun t => if t.place.core = c then f t else t) })
    let s := here (fun t => t.promote.demotionEnd) s
    match s.group? u with
    | none => s
    | some g =>
      let bs := formBundles u 4 ((g.onCore c).filter (fun (m, _) => s.ready ⟨u, m⟩))
      let s := here (fun t => { t with idle := min 64 (t.idle + 1), demLeft := t.demLeft - 1 }) s
      s.modCore p c (fun k => { k with bundles := bs, open_ := false, round := k.round + 1, rrNext := (slot + 1) % 32 })

/-- BUNDLING_ROUND (R23). -/
def execBundlingRound (p c : Nat) (s : State) : Out := .next (s.bundleRound p c)

/-! ## The end of a step command (R281) -/

/-- The step of a group ends with a cause; the stop is reported once the group has stopped, or by the end of its wait. -/
def State.endStep (s : State) (u cause : Nat) : State :=
  match s.group? u with
  | none => s
  | some g =>
    let fn := (g.stop.bind (·.asked.head?)).getD 0
    let s := s.modGroup u (fun g => { g with
      stopped := false, stepT := none, stop := g.stop.map (fun p => { p with cause := cause }) })
    if g.stepWait then s.later (.stepWaitEnd g.pkg fn) else s.laterOnce (.groupStop u)

/-- How a stepped thread's instruction left it: waiting, trapped, or passed. -/
def State.judgeStep (s : State) (k : TKey) : State :=
  match s.group? k.uid, s.thread? k with
  | some g, some t =>
    if g.stepT ≠ some k.tidx then s
    else if g.stepDepth < t.depth then s.endStep k.uid 6
    else if !t.exited && t.park.isNone && decide (t.wait ≠ .none) then
      if g.stepWait then s
      else
        let s := s.modGroup k.uid (fun g => { g with stepWait := true })
        match g.stop.bind (·.asked.head?) with
        | some fn => s.modPkg g.pkg (fun q => q.modMbox fn (fun m => { m with busy := false, waiting := true, stopped := true }))
        | none => s
    else s.endStep k.uid 5
  | _, _ => s

/-! ## Issue -/

/-- What the machine's next step is. -/
inductive Plan where
  /-- nothing runs: the state after -/
  | done (s : State)
  /-- an input or an event happens -/
  | event (i : Instr) (s : State)
  /-- a thread issues an instruction: with its PC, its trap depth, whether breakpoints were skipped, and the repetition of which
  this is an iteration -/
  | issue (i : Instr) (k : TKey) (pc : DWord) (skip : Bool) (depth : Nat) (r : Option Rep) (s : State)

/-- REP and REP_REG. -/
def isRep : Instr → Bool | .rep .. | .repReg .. => true | _ => false

/-- The slots that fire as a thread issues an instruction, and their address: at the PC, or at the follower of a REP that begins
(R276). -/
def State.issueHits (s : State) (g : Group) (t : Thread) (i : Option Instr) : List (Nat × Bool) × DWord :=
  if t.skipBp then ([], t.pc)
  else match s.bpHits g t.pc, i with
    | [], some i =>
      if isRep i && !((t.rep.map (fun r => decide (r.at_ = t.pc))).getD false) then (s.bpHits g (t.pc + 4), t.pc + 4) else ([], t.pc)
    | hs, _ => (hs, t.pc)

/-- The word of a thread of a bundle: the one fetched for the bundle, else fetched now, for the threads of it still to issue too
(R23). -/
def State.bundleFetch (s : State) (k : TKey) (g : Group) (t : Thread) (shared : Option Word) : State × FetchRes :=
  match shared with
  | some w => (s, .word w)
  | none => match s.fetchWord k g t t.pc with
    | (s, .word w) =>
      (s.modCore g.pkg t.place.core (fun c => if !c.open_ then c else { c with bundles := match c.bundles with
                                                                                   | b :: bs => { b with word := some w } :: bs
                                                                                   | [] => [] }), .word w)
    | r => r

/-- The thread has issued its instruction, not only tried it: it is not held before issue by a wait that the instruction tests first
(R24, R25). A CALL or RET held with its spill or refill has issued (R39). -/
def State.hasIssued (s : State) (k : TKey) (t : Thread) : Bool :=
  match t.wait with
  | .logFull | .logEmpty | .fetch | .counter _ | .queue _ | .operand _ | .accs _ | .registry | .header _ | .kreg _ |
    .missing _ | .epoch => false
  | .held => (s.accOf k).any (fun (_, a) => decide (a.kind = .spill) || decide (a.kind = .refill))
  | _ => true

/-- Note an issue of a thread: its rounds without issue, its promotion and its waiting time start afresh (R23, R25). -/
def State.countIssue (s : State) (k : TKey) : State :=
  match s.group? k.uid, s.thread? k with
  | some g, some t =>
    if s.hasIssued k t then
      let now := (s.coreOf g.pkg t.place.core).issued
      s.modThread k (fun t => { t with idle := 0, promoted := false, since := now })
    else s
  | _, _ => s

/-- A thread of a bundle issues (R23, R36, R85, R276). -/
def State.issueThread (s : State) (k : TKey) (g : Group) (t : Thread) (shared : Option Word) : Plan :=
  let s := s.modThread k (fun t => { t with skipBp := false })
  if g.stepWait && (decide (t.wait = .none) || (match t.wait with | .watched _ => true | _ => false)) then
    .done (s.endStep k.uid (if g.stepDepth < t.depth then 6 else 5))
  else if !t.engFail.isEmpty then .done ((s.engineTrap k).judgeStep k)
  else match t.iterates with
    | some r => match iteration g t r with
      | .trap c => .done (((s.takeTrap k (trapcOf c false false 0) r.at_ 0 some).countIssue k).judgeStep k)
      | .run i => .issue i k t.pc false t.depth (some r) { s with cur := some k, fetched := r.word }
    | none => match s.bundleFetch k g t shared with
      | (s, .wait) => .done (((s.stay k .fetch).modThread k (fun u => { u with skipBp := t.skipBp })).judgeStep k)
      | (s, .fail c) => .done ((s.takeTrap k (trapcOf c false false 0) t.pc t.pc some).judgeStep k)
      | (s, .word w) =>
        let d := match decodeWord w with | .ok i => some i | .error _ => none
        match s.issueHits g t d with
        | ([], _) => match d with
          | none => .done (((s.trapAt k 0x01 0).countIssue k).judgeStep k)
          | some i => .issue i k t.pc t.skipBp t.depth none { s with cur := some k, fetched := w }
        | (hs, a) =>
          let s := s.modThread k (fun t => { t with rep := if (t.rep.map (fun r => decide (r.at_ = t.pc))).getD true then t.rep
                                                           else none })
          .done ((s.slotsFire k g t hs 2 0x0A a.toNat 0).judgeStep k)

/-- After the instruction: the next iteration of a repetition, the breakpoint rule of a first issue that blocks, the note of the issue,
and the step. -/
def State.finishIssue (s : State) (k : TKey) (pc : DWord) (skip : Bool) (depth : Nat) (r : Option Rep) : State :=
  let s := match r with | some r => s.afterIteration k r depth | none => s
  let s := s.modThread k (fun t => if skip && decide (t.pc = pc) && decide (t.wait ≠ .none) then { t with skipBp := true } else t)
  { s.countIssue k with cur := none }.judgeStep k

/-- The thread may issue now: it stands at the bundle's PC, unblocked, in a group that runs; a bundle once begun is not stopped by a
halt of the same cycle (R278, R414). -/
def State.mayIssue (s : State) (b : Bundle) (begun : Bool) (k : TKey) (g : Group) (t : Thread) : Bool :=
  decide (t.pc = b.pc) && !t.exited && t.park.isNone && !s.blocked k g t && decide (g.phase = .running) && !g.frozen &&
    (begun || g.issues || decide (g.stepT = some k.tidx))

/-- The cores that hold a group which may issue, as package × 384 + core. -/
def State.issuers (s : State) : List Nat :=
  s.groups.foldl (fun l (_, g) =>
    if g.phase = .running then g.shares.foldl (fun l h => insertNat l (g.pkg * 384 + h.core)) l else l) []

/-- The core whose turn it is: the one with a bundle begun, else the next in order. -/
def State.issuer (s : State) : Option (Nat × Nat) :=
  let cur := s.nextCore.1 * 384 + s.nextCore.2
  if (s.coreOf s.nextCore.1 s.nextCore.2).open_ then some s.nextCore
  else
    let l := s.issuers
    ((l.find? (fun x => decide (cur < x))).orElse (fun _ => l.head?)).map (fun x => (x / 384, x % 384))

/-- A core's turn: a bundling round when it has no bundle, else the next thread of its bundle; no bundle begins in a cycle that the
throttle withholds (R293). -/
def State.planIssue (s : State) : Plan :=
  match s.issuer with
  | none => .done { s with turn := .input }
  | some (p, c) =>
    let s := { s with nextCore := (p, c), turn := .input }
    let core := s.coreOf p c
    match core.bundles with
    | [] => .done (s.bundleRound p c)
    | b :: bs => if !core.open_ && s.withheld p then .done s else match b.threads with
      | [] => .done (s.modCore p c (fun k => { k with bundles := bs, open_ := false }))
      | k :: ks =>
        let s := s.modCore p c (fun q => { q with
          bundles := if ks.isEmpty then bs else { b with threads := ks } :: bs, open_ := !ks.isEmpty,
          issued := if core.open_ then q.issued else q.issued + 1 })
        let s := { s with turn := if ks.isEmpty then .input else .issue }
        match s.group? k.uid, s.thread? k with
        | some g, some t => if s.mayIssue b core.open_ k g t then s.issueThread k g t b.word else .done s
        | _, _ => .done s

/-- The event at a place of the agenda. -/
def State.planEvent (s : State) : Plan :=
  let n := s.sched.headD 0 % s.agenda.length
  match s.agenda[n]? with
  | none => s.planIssue
  | some e => .event e { s with agenda := s.agenda.eraseIdx n, sched := s.sched.drop 1, turn := .issue, cur := none }

/-- The next step: inputs, events and issue take turns; a turn with nothing to do passes on. -/
def State.plan (s : State) : Plan :=
  match s.turn with
  | .issue => s.planIssue
  | .event => s.planEvent
  | .input => match s.inbox with
    | [] => s.planEvent
    | e :: es => .event e { s with inbox := es, turn := .event, cur := none }

/-- The group and core of which a bundle begins or goes on to issue in the next step. -/
def State.issuing (s : State) : Option (Nat × Nat) :=
  let on : Bool := match s.turn with
    | .issue => true
    | .event => s.agenda.isEmpty
    | .input => s.inbox.isEmpty && s.agenda.isEmpty
  if !on then none
  else match s.issuer with
    | none => none
    | some (p, c) => match (s.coreOf p c).bundles with
      | b :: _ => if !(s.coreOf p c).open_ && s.withheld p then none else b.threads.head?.map (fun k => (k.uid, c))
      | [] => none

/-! ## Charging (R272) and time (R12, R264) -/

/-- A wait for what an instruction needs before it acts: an empty log, earlier accesses, a free epoch. -/
def Wait.beforeActing : Wait → Bool
  | .logEmpty | .fence .. | .epoch | .accs _ => true
  | _ => false
/-- The reason of R272 that a wait is, by its order. What BAR, RSYNC, SWAIT and FENCE wait for before they act is theirs too (R314, R338,
R376, R386). -/
def waitReason (w : Wait) (i : Option Instr) : Nat :=
  let own : Option Nat := match w, i with
    | .logEmpty, some i | .fence .., some i | .epoch, some i | .accs _, some i => match i with
      | .bar | .rsync => some 4
      | .swait .. => some 5
      | .fence .. => some 7
      | _ => none
    | _, _ => none
  own.getD (match w with
    | .logFull | .logEmpty | .fetch | .held | .missing _ => 2
    | .bar _ | .rsync _ => 4
    | .swait .. => 5
    | .hwait _ => 6
    | .waitc .. | .counter _ => 7
    | .accs _ => 9
    | .queue _ | .registry => 10
    | _ => 8)
/-- The reasons of R272 that hold a thread, by their order; a thread that none holds is ready. -/
def State.holds (s : State) (k : TKey) (g : Group) (t : Thread) : List Nat :=
  let own : List Nat :=
    if t.park.isSome then [8]
    else if s.waits k g t then [waitReason t.wait (if t.wait.beforeActing then s.nextInstr k g t else none)]
    else match s.engineWait k g t with
      | some w => [waitReason w none]
      | none => if s.dependent k g t then [8] else []
  match (if g.frozen || g.stop.isSome then [1] else []) ++ (if g.phase = .saving then [3] else []) ++ own with
  | [] => [11]
  | l => l

/-- n cycles of what waits for an engine (R239, R253): commands for tiles that another group holds, CPRs for their rings, scan engines for
a carry-in or for inbox room. -/
def State.chargeEngines (s : State) (n : Nat) : State :=
  let s := s.ops.foldl (fun s (_, o) =>
    let due : Bool := match s.share? o.thr.uid o.share with | some h => h.tilesDue | none => false
    if o.kind = .cpr && !o.formed && decide (o.st = .queued) && (s.opLaunch o).isSome then s.count o.pkg (0, 16) o.core n
    else if o.kind.matrix && decide (o.st = .queued) && due then s.count o.pkg (0, 21) o.core n else s) s
  let s := s.groups.foldl (fun s ((u, g) : Nat × Group) => if g.phase = .saved || g.phase = .draining then s else g.threads.foldl (fun s t =>
    if t.wait = .queue 1 && (match (State.coreOf s g.pkg t.place.core).tilesOf with | some (v, _) => decide (v ≠ u) | none => false) then
      s.count g.pkg (0, 21) t.place.core n else s) s) s
  s.pkgs.foldl (fun s ((p, q) : Nat × Pkg) => q.cores.foldl (fun s ((c, _) : Nat × Core) =>
    if State.scanHeld s p c then s.count p (0, 23) c n else s) s) s

/-- Charge n cycles to the resident groups of every core; `issued` are the groups and cores of which a bundle issues in the first of
them. -/
def State.charge (s : State) (n : Nat) (issued : List (Nat × Nat)) : State :=
  s.groups.foldl (fun s (u, g) =>
    if g.phase = .draining || g.phase = .saved then s
    else g.shares.foldl (fun s h =>
      let m := if (u, h.core) ∈ issued then n - 1 else n
      let s := if m < n then s.count g.pkg (0, 0) h.core 1 else s
      let rs := ((g.onCore h.core).filter (fun (_, t) => !t.exited)).flatMap (fun (i, t) => s.holds ⟨u, i⟩ g t)
      let rs := rs.foldl insertNat []
      match rs with
      | [] => s
      | r :: more =>
        if m = 0 then s
        else
          let s := s.count g.pkg (0, r) h.core m
          if more.isEmpty then s else s.count g.pkg (0, 12) h.core m) s) (s.chargeEngines n)

/-- A package's clocks advance by n cycles of 1 ns; a correction is slewed at no more than 100 parts per million (R264). -/
def Pkg.advance (p : Pkg) (n : Nat) : Pkg :=
  if !p.boot.powered || p.lost then p
  else
    let room : Int := (((p.cyc + n) * 256 / 10000 - p.cyc * 256 / 10000 : Nat) : Int)
    let c := satTo p.slew (-room) room
    let total := ((p.timebase * 256 + p.frac + n * 256 : Nat) : Int) + c
    { p with timebase := total.toNat / 256 % 2 ^ 64, frac := total.toNat % 256, slew := p.slew - c, cyc := p.cyc + n }

/-- The values of the selected banks, in bank, instance and counter order. -/
def Pkg.snapshot (p : Pkg) (banks : Nat) : List DWord :=
  (bankShape.zipIdx).flatMap (fun ((n, k), b) =>
    if banks / 2 ^ b % 2 = 0 then []
    else (List.range n).flatMap (fun i => (List.range k).map (fun c => SMap.get p.counters 0 (ctrKey (b, c) i))))

/-- Every counter of the selected banks is latched on a tick (R18, R273). -/
def Pkg.latch (p : Pkg) (tick : Nat) : Pkg :=
  let r := p.series
  { p with series := { r with seq := r.seq + 1, latches := r.latches ++ [⟨tick, r.k, r.banks, r.seq, p.snapshot r.banks⟩] } }

/-- The events that time brings to a package: window ends (R140), ticks of the series (R273), re-reads of dependences (R57). -/
def State.timeEvents (s : State) (p : Nat) (a b : Pkg) : State :=
  if b.boot.phase ≠ 3 then s
  else
    let s := if a.timebase / 2 ^ 20 ≠ b.timebase / 2 ^ 20 then s.laterOnce (.windowEnd p) else s
    let k := b.series.k
    let first := a.timebase / 2 ^ k + 1
    let ticks := if k = 0 then [] else (List.range (b.timebase / 2 ^ k + 1 - first)).map (fun i => (first + i) * 2 ^ k)
    let s := ticks.foldl (fun s t => (s.modPkg p (fun q => q.latch t)).later (.timeseriesTick p)) s
    if a.cyc / 10000 ≠ b.cyc / 10000 && (!b.served.isEmpty || b.launches.any (fun ((_, l) : Nat × Launch) => l.waiting)) then
      s.laterOnce (.dependenceRecheck p)
    else s

/-- Some cycles pass together: they are charged, the clocks advance, and what falls due happens. -/
def State.pass (s : State) (n : Nat) : State :=
  let s := if n = 0 then s else { s.charge n s.issuedIn with issuedIn := [] }
  let old := s.pkgs
  let s := { s with pkgs := s.pkgs.map (fun (q, p) => (q, p.advance n)) }
  old.foldl (fun s (q, a) => s.timeEvents q a (s.pkgD q)) s
/-- Cycles pass one by one, so that a tick of a time series latches the counters as they stand at it (R18, R273). -/
def State.passEach : Nat → State → State
  | 0, s => s
  | n + 1, s => State.passEach n (s.pass 1)

/-- The step takes some cycles: those of the tape, 1 where it is empty, at most 1,024; none while a bundle is being issued. -/
def State.tick (s : State) (issued : Option (Nat × Nat)) : State :=
  let s := match issued with | some x => { s with issuedIn := if x ∈ s.issuedIn then s.issuedIn else x :: s.issuedIn } | none => s
  if (s.coreOf s.nextCore.1 s.nextCore.2).open_ then s
  else
    let n := min 1024 (s.elapse.headD 1)
    let s := { s with elapse := s.elapse.drop 1 }
    let s := if s.pkgs.any (fun ((_, p) : Nat × Pkg) => decide (p.series.k ≠ 0)) then State.passEach n s else s.pass n
    s.upPkgs.foldl (fun s q => s.watchErred q) s

end Sys2Proof.Machine
end

