-- ==== Sys2Proof/Machine/Start.lean ====
section
/-! DEFINITION. The start state of a group and of its threads (R22, R25, R40, R54, R99, R202, R302; start values that no rule
gives are zero, log entry 3). -/

namespace Sys2Proof.Machine

/-- A thread at its start (R54): at ENTRY, p0 = 0xFF (R302), PRIO 4 (R25), waiting since its core's bundle count (R23),
everything else zero or empty. -/
def Thread.start (entry : Nat) (place : Place) (now : Nat) : Thread :=
  { exited := false, park := none, pc := BitVec.ofNat 64 entry, regs := [], tags := [], pend := [], kpend := [], wbase := 0,
    preds := [(0, 0xFF)], handles := [], rs := [], spills := 0, outst := [], prio := 4, demoted := false, demLeft := 0, idle := 0,
    promoted := false, since := now, rep := none, fmode := 0, fflags := 0, seed := 0, mprg := 0, trapc := 0, trappc := 0,
    trapva := 0, depth := 0, otrapc := 0, otrappc := 0, otrapva := 0, tbhi := none, log := [], wait := .none, skipBp := false,
    engFail := [], railUse := [], place := place }

/-- The uniform registers at the start: k0 = ARGS, k1 = LAUNCHID, the others 0 (R54). -/
def startK (r : LaunchRec) : SMap DWord := SMap.set (SMap.set [] 0 0 r.args) 0 1 (BitVec.ofNat 64 r.launchid)

/-- A share at the start, on a core in a group slot (R60, R62). -/
def Share.start (r : LaunchRec) (core gslot first crews : Nat) : Share :=
  { core := core, gslot := gslot, firstCrew := first, crews := crews, kregs := startK r, scratch := [], registry := [],
    regGens := [], optab := [], tiles := false, tilesDue := false, savedTiles := [], rail := none }

/-- A group at its start, before its shares and threads are placed (R54, R72). -/
def Group.start (pkg launch leaf tenant gidx now : Nat) (r : LaunchRec) : Group :=
  { pkg := pkg, launch := launch, lr := r, leaf := leaf, tenant := tenant, gidx := gidx, phase := .running, frozen := false,
    stop := none, stopped := false, stepT := none, stepDepth := 0, stepWait := false, gstored := false, barGen := 0,
    placedAt := now, elapsed := 0, saveBase := 0, saves := [], drawn := 0, shares := [], threads := [] }

end Sys2Proof.Machine
end

