-- ==== Sys2Proof/Machine/Context.lean ====
section
/-! DEFINITION. Saved contexts: their layout (R78), the save area and its directory (R77), and what a context gives back (R79,
R202, R283). -/

namespace Sys2Proof.Machine

/-! ## Sizes (R78) -/

/-- The bytes of the context of a share of c crews. -/
def LaunchRec.contextBytes (r : LaunchRec) (c : Nat) : Nat :=
  1024 + 512 * (32 * c) + 4 * r.allot * (32 * c) + r.scrBytes + 4096 + (if r.crewm = 0 then 0 else 131072)
/-- The same in whole 4 KiB blocks. -/
def LaunchRec.contextBlocks (r : LaunchRec) (c : Nat) : Nat := (r.contextBytes c + 4095) / 4096
/-- B of a group: its shares' contexts in whole blocks. -/
def Group.contextSize (g : Group) : Nat := g.shares.foldl (fun n h => n + 4096 * g.lr.contextBlocks h.crews) 0

/-! ## Layout (R78) -/

/-- The PC that a context or a report shows: a repetition between iterations stands at its REP. -/
def Thread.shownPc (t : Thread) : DWord := match t.iterates with | some r => r.at_ | none => t.pc

/-- The threads of a share, with their TIDX. -/
def Group.ofShare (g : Group) (j : Nat) : List (Nat × Thread) :=
  ((g.threads.zipIdx).map (fun (t, n) => (n, t))).filter (fun (n, _) => decide (g.shareIndex n = j))

/-- Non-exited threads that have arrived at the barrier's generation. -/
def Group.arrived (g : Group) (j : Nat) : Nat :=
  ((g.ofShare j).filter (fun (_, t) => !t.exited && decide (t.wait = .bar g.barGen))).length

/-- The membership word of RJOIN (R248). -/
def RailMem.word (m : RailMem) : Nat := m.chain % 256 + m.pos % 64 * 2 ^ 8 + m.count % 128 * 2 ^ 16

/-- The header, k0 to k63 included. -/
def headerBytes (g : Group) (j : Nat) (h : Share) (elapsed : Nat) : List Byte :=
  let w0 := g.lr.launchid % 2 ^ 32 * 2 ^ 32 + g.gidx % 2 ^ 24 * 2 ^ 8 + 1
  let w1 := 32 * h.crews * 2 ^ 48 + j % 128 * 2 ^ 41 + g.shares.length % 128 * 2 ^ 34 + g.lr.regs8 % 128 * 2 ^ 27 +
    g.lr.scrg % 512 * 2 ^ 18 + bitOf h.rail.isSome * 16 + bitOf (decide (g.lr.crewm ≠ 0)) * 8 + bitOf g.stop.isSome * 4 +
    bitOf g.gstored * 2 + bitOf g.lr.fusel1
  leBytes 8 w0 ++ leBytes 8 w1 ++ leBytes 8 elapsed ++ leBytes 8 (g.barGen % 2 ^ 32 * 2 ^ 32 + g.arrived j) ++
    leBytes 8 (match h.rail with | some m => m.word | none => 0) ++ List.replicate 472 0 ++
    (List.range 64).flatMap (fun n => leBytes 8 (SMap.get h.kregs 0 n).toNat)

/-- The 4 bytes of a handle: a token with its state, which R78 does not lay out further: free bytes (log entry 21). -/
def handleBytes (drawn x st : Nat) : List Byte := (List.range 4).map (fun i => Config.freeByte drawn (64 * x + 8 * st + i))
/-- The state of a handle: EMPTY, PENDING, DONE, CANCELLED (R40). -/
def State.handleState (s : State) (x : Nat) : Nat :=
  if x = 0 then 0 else match s.op? x with
    | some o => if o.st = .done then 2 else if o.cancelled then 3 else 1
    | none => 2

/-- A thread record. -/
def threadBytes (s : State) (g : Group) (t : Thread) : List Byte :=
  let slot (c : Word) (pc va : DWord) : List Byte := leBytes 8 c.toNat ++ leBytes 8 pc.toNat ++ leBytes 8 va.toNat ++ leBytes 8 0
  leBytes 8 (bitOf t.exited * 2 ^ 63 + bitOf t.park.isSome * 2 ^ 62 + t.prio.toNat * 2 ^ 59 + bitOf t.demoted * 2 ^ 58 +
    t.depth % 4 * 2 ^ 56 + t.shownPc.toNat % 2 ^ 56) ++
  leBytes 8 (t.repc % 2 ^ 32 * 2 ^ 32 + t.wbase % 512 * 2 ^ 23 + t.demLeft % 128 * 2 ^ 16) ++
  leBytes 8 (t.fmode.toNat * 2 ^ 32 + t.fflags.toNat) ++ leBytes 8 t.seed.toNat ++
  (List.range 16).map (fun n => t.rdP n) ++
  leBytes 8 (t.rs.length % 16 * 2 ^ 60 + t.spills % 2 ^ 28 * 2 ^ 32) ++
  (List.range 8).flatMap (fun i => leBytes 8 (t.rs.getD i 0).toNat) ++
  (List.range 16).flatMap (fun n => handleBytes g.drawn (t.rdH n) (s.handleState (t.rdH n))) ++
  leBytes 8 (t.cnt .load % 64 + t.cnt .store % 64 * 2 ^ 6 + t.cnt .copy % 64 * 2 ^ 12 + t.cnt .tile % 64 * 2 ^ 18) ++
  slot t.otrapc t.otrappc t.otrapva ++ slot t.trapc t.trappc t.trapva ++
  (List.range 4).flatMap (fun i => match t.log.find? (fun e => decide (e.ix = i)) with
    | some e => e.bytes | none => leBytes 64 0)

/-- The tiles that a share holds, in place or saved. -/
def State.tilesFor (s : State) (u j : Nat) (g : Group) (h : Share) : SMap Word :=
  if (s.coreOf g.pkg h.core).tilesOf = some (u, j) && decide (g.phase ≠ .saved) then (s.coreOf g.pkg h.core).tiles else h.savedTiles

/-- The context of a share. The engine section's layout stays open: free bytes (log entry 21). -/
def State.context (s : State) (u j : Nat) (g : Group) : List Byte :=
  match g.shares[j]? with
  | none => []
  | some h =>
    let ts := g.ofShare j
    headerBytes g j h (g.elapsed + (s.now g.pkg - g.placedAt)) ++ ts.flatMap (fun (_, t) => threadBytes s g t) ++
    ts.flatMap (fun (_, t) => (List.range g.lr.allot).flatMap (fun r => leBytes 4 (t.rdAbs r).toNat)) ++
    memBytes h.scratch 0 g.lr.scrBytes ++
    (List.range 4096).map (fun i => Config.freeByte g.drawn (2 ^ 40 + i)) ++
    (if g.lr.crewm = 0 then [] else
      (List.range 4).flatMap (fun z => (tileElems (s.tilesFor u j g h) z).flatMap (fun w => leBytes 4 w.toNat)))

/-! ## Giving back (R79, R283) -/

/-- What a thread takes from its record and its registers: PC, predicates, FMODE, FFLAGS and registers. -/
def Thread.takeRecord (t : Thread) (allot : Nat) (tr regs : List Byte) : Thread :=
  let pc := BitVec.ofNat 64 (bitsOf (leNat (tr.take 8)) 55 2 * 4)
  let fm := leNat ((tr.drop 0x10).take 8)
  let t := if pc = t.shownPc then t
    else { t with pc := pc, park := none, wait := .none,
                  rep := t.rep.filter (fun r => decide (pc = r.at_) || decide (pc = r.at_ + 4)) }
  let t := { t with fmode := BitVec.ofNat 32 (fm / 2 ^ 32), fflags := BitVec.ofNat 32 fm }
  let t := (List.range 16).foldl (fun (t : Thread) n => t.wrP n (tr.getD (0x20 + n) 0)) t
  (List.range allot).foldl (fun (t : Thread) r =>
    let v := BitVec.ofNat 32 (leNat ((regs.drop (4 * r)).take 4))
    if t.rdAbs r = v then t else t.wrAbs r v) t

/-- What a group takes from the context of share j. -/
def Group.takeContext (g : Group) (j : Nat) (bs : List Byte) : Group :=
  match g.shares[j]? with
  | none => g
  | some h =>
    let n := 32 * h.crews
    let first := 32 * h.firstCrew
    let regsAt := 1024 + 512 * n
    let scrAt := regsAt + 4 * g.lr.allot * n
    let ks := (List.range 64).foldl (fun (m : SMap DWord) i =>
      SMap.set m 0 i (BitVec.ofNat 64 (leNat ((bs.drop (0x200 + 8 * i)).take 8)))) []
    let g := g.modShare j (fun h => { h with kregs := ks, scratch := memWrite [] 0 ((bs.drop scrAt).take g.lr.scrBytes) })
    { g with threads := (g.threads.zipIdx).map (fun (t, m) =>
        if g.shareIndex m = j then
          t.takeRecord g.lr.allot ((bs.drop (1024 + 512 * (m - first))).take 512)
            ((bs.drop (regsAt + 4 * g.lr.allot * (m - first))).take (4 * g.lr.allot))
        else t) }

/-! ## The save area (R77) -/

/-- The directory entries in use: number, first block, count, and the first word. -/
def State.saveDir (s : State) (p base : Nat) : State × List (Nat × Nat × Nat × Nat) :=
  let (s, bs) := s.partRead p base 4096
  (s, (List.range 256).filterMap (fun i =>
    let a := leNat ((bs.drop (16 * i)).take 8)
    let b := leNat ((bs.drop (16 * i + 8)).take 8)
    if a % 2 = 1 then some (i, b / 2 ^ 32, b % 2 ^ 32, a) else none))

/-- The lowest run of n free blocks of an area, block 0 being the directory. -/
def lowestRun (blocks n : Nat) (used : List (Nat × Nat)) : Option Nat :=
  let starts := (1 :: used.map (fun (f, c) => f + c)).foldl insertNat []
  starts.find? (fun a => decide (1 ≤ a) && decide (a + n ≤ blocks) &&
    used.all (fun (f, c) => decide (a + n ≤ f) || decide (f + c ≤ a)))

/-- An entry and a run for each share, in order: entry, first block, blocks. None when some share finds no room. -/
def allocSave (blocks : Nat) : List Nat → List (Nat × Nat × Nat) → List (Nat × Nat × Nat) → Option (List (Nat × Nat × Nat))
  | [], _, out => some out
  | n :: ns, used, out =>
    match (List.range 256).find? (fun i => used.all (fun (e, _, _) => decide (e ≠ i))),
          lowestRun blocks n (used.map (fun (_, f, c) => (f, c))) with
    | some e, some f => allocSave blocks ns (used ++ [(e, f, n)]) (out ++ [(e, f, n)])
    | _, _ => none

/-- The room that the save area of a group has for it (R77). -/
def State.saveRoom (s : State) (g : Group) : State × Option (List (Nat × Nat × Nat)) :=
  let (base, blocks) := s.effSave g.pkg g.leaf
  if blocks = 0 then (s, none)
  else
    let (s, dir) := s.saveDir g.pkg base
    (s, allocSave blocks (g.shares.map (fun h => g.lr.contextBlocks h.crews)) (dir.map (fun (e, f, c, _) => (e, f, c))) [])

/-- Take the entries for a save. -/
def State.takeSaveRoom (s : State) (u : Nat) (g : Group) (room : List (Nat × Nat × Nat)) : State :=
  let (base, _) := s.effSave g.pkg g.leaf
  let s := (room.zipIdx).foldl (fun s ((e, f, c), j) =>
    s.partWrite g.pkg (base + 16 * e)
      (leBytes 8 (g.lr.launchid % 2 ^ 32 * 2 ^ 32 + g.gidx % 2 ^ 24 * 2 ^ 8 + j % 128 * 2 + 1) ++
       leBytes 8 (f % 2 ^ 32 * 2 ^ 32 + c % 2 ^ 32))) s
  s.modGroup u (fun g => { g with saveBase := base, saves := room })

/-- Clear USED of the entries of a group's save. -/
def State.dropSaveRoom (s : State) (u : Nat) (g : Group) : State :=
  let s := g.saves.foldl (fun s (e, _, _) =>
    let (s, bs) := State.partRead s g.pkg (g.saveBase + 16 * e) 1
    s.partWrite g.pkg (g.saveBase + 16 * e) [(bs.headD 0) &&& 0xFE]) s
  s.modGroup u (fun g => { g with saves := [] })

/-- Where the context of a share is saved. -/
def Group.saveAt (g : Group) (j : Nat) : Nat := match g.saves[j]? with | some (_, f, _) => g.saveBase + 4096 * f | none => 0

/-- The address of the word that an even register of a thread has in a saved context (R78, R202). -/
def Group.savedWord (g : Group) (j : Nat) (h : Share) (tidx r : Nat) : Nat :=
  g.saveAt j + 1024 + 512 * (32 * h.crews) + 4 * (g.lr.allot * (tidx - 32 * h.firstCrew) + r)

/-- Write the contexts of a group that is being saved, with the TAG bits of its tagged pairs (R75, R202). -/
def State.writeContexts (s : State) (u : Nat) (g : Group) : State :=
  (g.shares.zipIdx).foldl (fun s (h, j) =>
    let s := s.partWrite g.pkg (g.saveAt j) (s.context u j g)
    (g.ofShare j).foldl (fun s (n, t) => t.tags.foldl (fun s r => State.setTag s (g.savedWord j h n r) true) s) s) s

/-- The log entries of a saved group's threads stand in its save area too, where a resolution changes them (R78, R84). -/
def State.saveLogs (s : State) (g : Group) : State :=
  (g.threads.zipIdx).foldl (fun s (t, n) => t.log.foldl (fun s e =>
    let j := g.shareIndex n
    match g.shares[j]? with
    | some h => State.partWrite s g.pkg (g.saveAt j + 1024 + 512 * (n - 32 * h.firstCrew) + 0x100 + 64 * e.ix) e.bytes
    | none => s) s) s

/-- The tags of a thread's registers, as the saved words carry them (R202). -/
def State.savedTags (s : State) (g : Group) (j : Nat) (h : Share) (n : Nat) : List Nat :=
  ((List.range (g.lr.allot / 2)).map (2 * ·)).filter (fun r => s.tagAt (g.savedWord j h n r))

/-- A share's context and directory entry stand as they were written: VERSION 1, the size, no failed integrity check (R78). -/
def State.savedOk (s : State) (g : Group) (j : Nat) : Bool :=
  match g.saves[j]?, g.shares[j]? with
  | some (e, f, c), some h =>
    let d := s.gnat (g.saveBase + 16 * e + 8) 8
    decide (s.gnat (g.saveAt j) 1 = 1) && decide (d = f * 2 ^ 32 + c) && decide (c = g.lr.contextBlocks h.crews) &&
      (List.range (32 * c)).all (fun i => (s.lineMeta (g.saveAt j + 128 * i)).poison.isEmpty)
  | _, _ => false

/-- Read the contexts back (R79). -/
def State.readContexts (s : State) (u : Nat) (g : Group) : State :=
  (g.shares.zipIdx).foldl (fun s (h, j) =>
    let (s, bs) := State.partRead s g.pkg (g.saveAt j) (g.lr.contextBytes h.crews)
    let s' := s
    s.modGroup u (fun g =>
      let g := g.takeContext j bs
      { g with threads := (g.threads.zipIdx).map (fun (t, n) =>
          if g.shareIndex n = j then { t with tags := s'.savedTags g j h n } else t) })) s

end Sys2Proof.Machine
end

