-- ==== Sys2Proof/Machine/Place.lean ====
section
/-! DEFINITION. Placement: room on cores and under budgets (R21, R47, R62, R63), the scan (R60 to R62, R65), the placing and
restoring of groups (R20, R54, R62, R79, R227), what frees a core (R43, R65, R227), and the budgets in use (R45, R47). -/

namespace Sys2Proof.Machine

/-! ## Room (R62, R63) -/

/-- What stands on a core: (crews, allotment, granules, group slot, threads gone) of each share, phantoms of a request included unless
it is the requester that asks (R58). -/
structure Standing where
  crews : Nat
  allot : Nat
  scrg : Nat
  gslot : Option Nat
  /-- its registers and thread slots are free: the group drains (R43) -/
  gone : Bool

def State.standing (s : State) (p c launch : Nat) : List Standing :=
  let others := (s.pkgD p).heldFor.filter (fun w => decide (w.launch ≠ launch))
  let kept (u : Nat) : Bool := others.any (fun w => decide (u ∈ w.victims))
  (s.resident p).flatMap (fun (u, g) => (g.shares.filter (fun h => decide (h.core = c))).map (fun h =>
    { crews := h.crews, allot := g.lr.allot, scrg := g.lr.scrg, gslot := some h.gslot,
      gone := decide (g.phase = .draining) && !kept u })) ++
  others.flatMap (fun w => (w.freed.filter (fun (d, _, _, _) => decide (d = c))).map (fun (_, n, a, g) =>
    { crews := n, allot := a, scrg := g, gslot := none, gone := false }))

/-- The cluster's L1 mode allows a share (R63): an empty cluster takes any. -/
def State.modeAgrees (s : State) (p cl : Nat) (fused : Bool) : Bool :=
  decide (((s.pkgD p).cluster cl).fused = fused) ||
    (s.resident p).all (fun (_, g) => g.shares.all (fun h => decide (clusterOf h.core ≠ cl)))

/-- No refill of a released core is still to be handed out, but for this launch's own (R419). -/
def State.unclaimed (s : State) (p core launch : Nat) : Bool :=
  let own := (((s.pkgD p).die (dieOf core)).refill.filter (fun (c, _) => decide (c = core))).map (·.2)
  own.isEmpty || decide (launch ∈ own)

/-- A core has room for a share of c crews (R62), budgets apart. -/
def State.coreRoom (s : State) (p core launch : Nat) (r : LaunchRec) (c : Nat) : Bool :=
  let st := s.standing p core launch
  let live := st.filter (fun x => !x.gone)
  let sum (f : Standing → Nat) (l : List Standing) : Nat := l.foldl (fun n x => n + f x) 0
  decide (st.length < 32) && decide (sum (·.scrg) st + r.scrg ≤ 256) &&
  decide (sum (fun x => (x.crews + 1) / 2) live + (c + 1) / 2 ≤ 24) &&
  decide (sum (fun x => x.crews / 2) live + c / 2 ≤ 24) &&
  decide (sum (fun x => (x.crews + 1) / 2 * x.allot) live + (c + 1) / 2 * r.allot ≤ 2048) &&
  decide (sum (fun x => x.crews / 2 * x.allot) live + c / 2 * r.allot ≤ 2048) &&
  s.modeAgrees p (clusterOf core) r.fusel1

/-- The budgets of a leaf's path have room for a group's granules and slot (R47). -/
def State.groupBudget (s : State) (p leaf : Nat) (r : LaunchRec) : Bool :=
  let path := s.path p leaf
  (budgetPath 2 path).all (fun (a, b) => decide ((s.charged p a).length + 1 ≤ b.grpmax)) &&
  (budgetPath 1 path).all (fun (a, b) => decide (granulesOf (s.charged p a) + shareCount r * r.scrg ≤ b.scrmax))
/-- They have room for the cores of a group, those already chosen and one more (R47). -/
def State.coreBudget (s : State) (p leaf : Nat) (cores : List Nat) : Bool :=
  (budgetPath 0 (s.path p leaf)).all (fun (a, b) =>
    let held := coresOf (s.charged p a)
    let more := cores.filter (fun c => !decide (c ∈ held))
    decide ((more.foldl insertNat held).length ≤ b.cormax))

/-! ## The scan (R62, R65) -/

/-- The core of a position of a die, and its position. -/
def coreAt (die pos : Nat) : Nat := die * 48 + pos % 6 * 8 + pos / 6
def posOf (core : Nat) : Nat := core % 48 % 8 * 6 + core % 48 / 8

/-- Put the shares of given crews on the first positions with room (R62), but on no core whose refill waits for another launch (R419); the
positions still to look at are given. -/
def State.scan (s : State) (p launch leaf : Nat) (r : LaunchRec) : List Nat → List Nat → List Nat → Option (List Nat)
  | _, [], cores => some cores
  | [], _ :: _, _ => none
  | c :: cs, n :: ns, cores =>
    if s.unclaimed p c launch && s.coreRoom p c launch r n && s.coreBudget p leaf (cores ++ [c]) then State.scan s p launch leaf r cs ns (cores ++ [c])
    else State.scan s p launch leaf r cs (n :: ns) cores

/-- Where a group goes on a die: the cores of its shares. A refill tries share 0 on its core and scans on from there (R65). -/
def State.findCores (s : State) (p die launch : Nat) (core : Option Nat) : Option (List Nat) :=
  match SMap.find? (s.pkgD p).launches launch with
  | none => none
  | some l =>
    if !s.groupBudget p l.leaf l.lr then none
    else
      let from_ (pos : Nat) : List Nat := (List.range 48).map (fun i => coreAt die ((pos + i) % 48))
      match core with
      | none => s.scan p launch l.leaf l.lr (from_ (SMap.get l.posPtr 0 die)) (shareCrews l.lr) []
      | some c => match shareCrews l.lr with
        | [] => none
        | n :: ns => if s.coreRoom p c launch l.lr n && s.coreBudget p l.leaf [c] then
            s.scan p launch l.leaf l.lr ((from_ (posOf c + 1)).take 47) ns [c] else none

/-! ## Threads, shares and slots (R20, R62) -/

/-- The lowest free slot of a lane of a core. -/
def State.laneSlot (s : State) (p c lane : Nat) (taken : List (Nat × Nat)) : Nat :=
  let used := (s.resident p).flatMap (fun (_, g) =>
    if g.phase = .draining then [] else
      (g.threads.filter (fun t => decide (t.place.core = c) && decide (t.place.lane = lane))).map (fun t => t.place.slot))
  let used := used ++ (taken.filter (fun (l, _) => decide (l = lane))).map (·.2)
  ((List.range 24).find? (fun n => !decide (n ∈ used))).getD 0

/-- Places of the threads of a share of c crews on a core: thread i on lane i mod 64, in the lowest free slots. -/
def State.places (s : State) (p core c : Nat) : List Place :=
  ((List.range (32 * c)).foldl (fun ((ps, taken) : List Place × List (Nat × Nat)) i =>
    let n := s.laneSlot p core (i % 64) taken
    (ps ++ [⟨core, i % 64, n⟩], taken ++ [(i % 64, n)])) ([], [])).1

/-- The lowest free group slot of a core. -/
def State.freeGslot (s : State) (p core : Nat) : Nat :=
  let used := (s.resident p).flatMap (fun (_, g) => (g.shares.filter (fun h => decide (h.core = core))).map (·.gslot))
  ((List.range 32).find? (fun n => !decide (n ∈ used))).getD 0

/-- The first crew of each share (R60). -/
def firstCrews : Nat → List Nat → List Nat
  | _, [] => []
  | n, c :: cs => n :: firstCrews (n + c) cs

/-- Place a group that has not run: its shares on the cores, every thread in its start state (R54). -/
def State.placeFresh (s : State) (p launch gidx : Nat) (l : Launch) (cores : List Nat) : State :=
  let u := s.nextId
  let crews := shareCrews l.lr
  let rows := (cores.zip (crews.zip (firstCrews 0 crews)))
  let shares := rows.map (fun (c, n, f) => Share.start l.lr c (s.freeGslot p c) f n)
  let threads := rows.flatMap (fun (c, n, _) => (s.places p c n).map (fun q => Thread.start l.lr.entry q (s.coreOf p c).issued))
  let g := { Group.start p launch l.leaf l.tenant gidx (s.now p) l.lr with shares := shares, threads := threads }
  { s with groups := SMap.put s.groups u g, nextId := u + 1 }

/-! ## Tiles (R227) -/

/-- Put an operation into its core's queue and let a head go on; a CPR waits for its ring and takes no place (R222, R223). -/
def State.enqueueOp (s : State) (x : Nat) : State :=
  match s.op? x with
  | none => s
  | some o =>
    let s := s.modCore o.pkg o.core (fun k => match o.kind with
      | .mma | .mz | .mst | .mlda | .scacc => { k with matQ := k.matQ ++ [x] }
      | .scn | .scop => { k with scanQ := k.scanQ ++ [x] }
      | .cpr => k
      | _ => { k with copyQ := k.copyQ ++ [x] })
    s.laterOnce (o.event x)

/-- A restored share takes free tiles of its core with their saved contents, and its matrix commands are reissued (R79, R227). -/
def State.takeSavedTiles (s : State) (u j : Nat) : State :=
  match s.group? u, s.share? u j with
  | some g, some h =>
    if !h.tilesDue || (s.coreOf g.pkg h.core).tilesOf.isSome then s
    else
      let s := s.modCore g.pkg h.core (fun k => { k with tilesOf := some (u, j), tiles := h.savedTiles })
      let s := s.modShare u j (fun h => { h with tiles := true, tilesDue := false, savedTiles := [] })
      (s.ops.filter (fun (_, o) => o.ofShare u j && o.kind.matrix && decide (o.st ≠ .done))).foldl (fun s (x, _) => s.enqueueOp x) s
  | _, _ => s

/-- A group gives up the tiles of a core; the longest-restored share that waits for them takes them (R227). -/
def State.releaseTiles (s : State) (p c uid : Nat) : State :=
  match (s.coreOf p c).tilesOf with
  | some (u, _) =>
    if u ≠ uid then s
    else
      let s := s.modCore p c (fun k => { k with tilesOf := none, tiles := [] })
      (s.resident p).foldl (fun s (v, g) => (g.shares.zipIdx).foldl (fun s (h, j) =>
        if h.core = c && h.tilesDue then s.takeSavedTiles v j else s) s) s
  | none => s

/-! ## Restoring (R79) -/

/-- What a thread waits on once its group may issue again: it takes its instruction up afresh, but an arrival at a barrier or at
RSYNC stands, so that the thread passes it when it has completed, and a CALL or RET with its spill or refill on the way stays held. An
arrival at a chain that has dissolved is over, and its RSYNC is left (R38, R39, R78, R250, R251, R314). -/
def State.wakeThreads (s : State) (u : Nat) : State :=
  match s.group? u with
  | none => s
  | some g => (g.threads.zipIdx).foldl (fun s (t, n) =>
      let keep : Bool := match t.wait with
        | .bar _ => true
        | .rsync _ => s.waits ⟨u, n⟩ g t || s.passedWait ⟨u, n⟩ g t
        | .held => (s.accOf ⟨u, n⟩).any (fun (_, a) => decide (a.kind = .spill) || decide (a.kind = .refill))
        | _ => false
      let s := if keep then s else s.modThread ⟨u, n⟩ (fun t => { t with wait := .none })
      let s := if t.engFail.isEmpty then s else s.later (.engineFailureTrap u n)
      if t.log.isEmpty then s else s.later (.accessReplay u n)) s

/-- Restore a saved group on cores: places, contexts, recorded commands (R79). -/
def State.restore (s : State) (u : Nat) (cores : List Nat) : State :=
  match s.group? u with
  | none => s
  | some g =>
    let p := g.pkg
    let rows := cores.zip (g.shares.zipIdx)
    let slots := rows.map (fun (c, _, _) => s.freeGslot p c)
    let places := rows.flatMap (fun (c, h, _) => s.places p c h.crews)
    let due := decide (g.lr.crewm ≠ 0)
    let shares := (rows.zip slots).map (fun ((c, h, _), n) => { h with core := c, gslot := n, tilesDue := due })
    let threads := (g.threads.zip places).map (fun (t, q) =>
      { t with place := q, since := (s.coreOf p q.core).issued, idle := 0, promoted := false })
    let s := s.readContexts u g
    let s := s.dropSaveRoom u g
    let taken := match s.group? u with | some g => g | none => g
    let shares := (shares.zip taken.shares).map (fun (h, k) => { h with kregs := k.kregs, scratch := k.scratch })
    let threads := (threads.zip taken.threads).map (fun (t, k) =>
      { k with place := t.place, since := t.since, idle := t.idle, promoted := t.promoted })
    let s := s.modGroup u (fun g => { g with
      phase := .running, shares := shares, threads := threads, placedAt := s.now p })
    let coreFor (j : Nat) : Nat := match shares[j]? with | some h => h.core | none => 0
    let s := { s with items := s.items.map (fun ((x, i) : Nat × Item) => match i with
      | .access a => if a.thr.uid = u then (x, Item.access { a with core := coreFor a.share }) else (x, i)
      | .op o => if o.thr.uid = u && o.kind ≠ .pub then (x, Item.op { o with core := coreFor o.share }) else (x, i)
      | .walk w => (x, if w.thr.uid = u && w.kind ≠ 2 then
          Item.walk { w with core := match threads[w.thr.tidx]? with | some t => t.place.core | none => w.core } else i)
      | _ => (x, i)) }
    let s := (List.range shares.length).foldl (fun s j => State.takeSavedTiles s u j) s
    let s := (s.ops.filter (fun (_, o) => decide (o.thr.uid = u) && decide (o.kind = .mma) && decide (o.st ≠ .done))).foldl
      (fun s (_, o) => State.mprgSusp s o false) s
    let again := s.ops.filter (fun (_, o) => decide (o.thr.uid = u) && decide (o.st ≠ .done) && decide (o.kind ≠ .pub) &&
      !o.kind.matrix)
    let s := again.foldl (fun s (x, _) => s.enqueueOp x) s
    let s := again.foldl (fun s (_, o) => if o.kind = .cpr then s.tryRing p g.launch o.arg.toNat (clusterOf o.core) else s) s
    let s := s.wakeThreads u
    let s := shares.foldl (fun s h => match h.rail with | some m => s.hubDeliver p g.launch m.chain | none => s) s
    if g.stop.isSome then s.laterOnce (.groupStop u) else s

/-! ## What leaves a core -/

/-- Discard, or merge into their home, the private lines of a group (R43, R75, R80). -/
def State.clearPrivate (s : State) (p u : Nat) (keep : Bool) : State :=
  (s.pkgD p).cores.foldl (fun s ((c, k) : Nat × Core) => k.l1.foldl (fun s l =>
    if l.priv ≠ some u then s
    else
      let s := if keep then s.l1Recall p c l (~~~0) true else s
      s.modCore p c (fun k => k.l1Drop l.ga)) s) s

/-- Drop what is in flight for a group: accesses, walks, operations, and write-backs of none (R43, R80, R91). -/
def State.dropItemsOf (s : State) (u : Nat) : State :=
  let mine := s.ops.filter (fun (_, o) => decide (o.thr.uid = u))
  let s := mine.foldl (fun s (x, o) => s.dequeue x o) s
  { s with items := s.items.filter (fun ((_, i) : Nat × Item) => match i with
      | .access a => decide (a.thr.uid ≠ u)
      | .op o => decide (o.thr.uid ≠ u)
      | .walk w => decide (w.thr.uid ≠ u)
      | _ => true) }

/-- The group no longer takes bundles. -/
def State.dropBundles (s : State) (u : Nat) : State :=
  match s.group? u with
  | none => s
  | some g => g.shares.foldl (fun s h => s.modCore g.pkg h.core (fun k =>
      if k.bundles.any (fun b => b.threads.any (fun t => decide (t.uid = u))) then { k with bundles := [], open_ := false } else k)) s

/-- A share that left as a phantom of the request its group is a victim of (R58, R74). -/
def State.holdFreed (s : State) (u : Nat) (g : Group) : State :=
  let freed := g.shares.map (fun h => (h.core, h.crews, g.lr.allot, g.lr.scrg))
  s.modPkg g.pkg (fun q => { q with heldFor := q.heldFor.map (fun w =>
    if u ∈ w.victims then { w with victims := eraseNat w.victims u, freed := w.freed ++ freed } else w) })
/-- The cores of a victim are held, and see no refill (R58). -/
def State.isVictim (s : State) (p u : Nat) : Bool :=
  (s.pkgD p).heldFor.any (fun w => decide (u ∈ w.victims))
/-- A launch's request is over: what is held for it is free (R58). -/
def Pkg.unhold (q : Pkg) (l : Nat) : Pkg := { q with heldFor := q.heldFor.filter (fun w => decide (w.launch ≠ l)) }

def Pkg.modLaunch (q : Pkg) (l : Nat) (f : Launch → Launch) : Pkg := { q with launches := SMap.modify q.launches l f }
def State.modLaunch (s : State) (p l : Nat) (f : Launch → Launch) : State := s.modPkg p (fun q => q.modLaunch l f)
def State.launch? (s : State) (p l : Nat) : Option Launch := SMap.find? (s.pkgD p).launches l

/-- The clusters that hold a group. -/
def Group.clusters (g : Group) : List Nat := g.shares.foldl (fun l h => insertNat l (clusterOf h.core)) []
/-- Add to the placed counts of a group's clusters (R66). -/
def Launch.place (l : Launch) (cs : List Nat) : Launch :=
  let n := l.resident + 1
  { l with resident := n, peak := max l.peak n,
           placed := cs.foldl (fun (m : SMap Nat) c => SMap.set m 0 c (SMap.get m 0 c + 1)) l.placed }
/-- A group returned to the unplaced set: it no longer counts as placed, and the launch is no longer handed out (R66). -/
def Launch.unplace (l : Launch) (cs : List Nat) : Launch :=
  { l with resident := l.resident - 1, handedOut := false, reported := [], preempts := l.preempts + 1,
           placed := cs.foldl (fun (m : SMap Nat) c => SMap.set m 0 c (SMap.get m 0 c - 1)) l.placed }

/-- The event of R66 for every cluster in which it may be due. -/
def State.reportClusters (s : State) (p l : Nat) (cs : List Nat) : State :=
  cs.foldl (fun s c => s.laterOnce (.clusterReport p c l)) s

/-! ## The distributor (R59 to R63, R170) -/

/-- The distributor declines: the group is unplaced as before. -/
def State.decline (s : State) (p : Nat) (h : Handed) : State :=
  (s.modLaunch p h.launch (fun l => match h.saved with
    | some u => { l with savedQ := u :: l.savedQ }
    | none => if h.gidx + 1 = l.next then { l with next := h.gidx } else { l with flushedQ := insertNat l.flushedQ h.gidx }))

/-- GROUP_PLACE (R62): the group handed to a die's distributor is placed or restored, or goes back. A cluster that must change its
mode does so first (R170). -/
def execGroupPlace (p die : Nat) (s : State) : Out := .next (
  match ((s.pkgD p).die die).handed with
  | [] => s
  | h :: rest =>
    let done (s : State) : State := (s.modDie p die (fun d => { d with handed := rest })).laterOnce (.groupHandOut p)
    match s.launch? p h.launch with
    | none => done s
    | some l =>
      let ready := match s.block? p l.leaf with | some b => decide (b.state = 1) | none => false
      match (if ready then s.findCores p die h.launch h.core else none) with
      | none => done (s.decline p h)
      | some cores =>
        match cores.find? (fun c => decide (((s.pkgD p).cluster (clusterOf c)).fused ≠ l.lr.fusel1)) with
        | some c => (s.laterOnce (.clusterModeChange p (clusterOf c) l.lr.fusel1)).later (.groupPlace p die)
        | none =>
          let ok := match h.saved with
            | none => true
            | some u => match s.group? u with
              | some g => (List.range g.shares.length).all (fun j => s.savedOk g j)
              | none => false
          if !ok then
            (done (s.decline p h)).freeze p l.leaf 0x10 ⟨l.lr.launchid, h.gidx, 0, false, die⟩ die
          else
            let s := match h.saved with
              | some u => s.restore u cores
              | none => s.placeFresh p h.launch h.gidx l cores
            let cs := cores.foldl (fun m c => insertNat m (clusterOf c)) []
            let s := s.modLaunch p h.launch (fun l =>
              let l := l.place cs
              let l := if h.core.isSome then l
                else { l with diePtr := (die + 1) % 8, posPtr := SMap.set l.posPtr 0 die ((posOf (cores.getLastD 0) + 1) % 48) }
              { l with handedOut := l.savedQ.isEmpty && l.flushedQ.isEmpty && decide (l.next = l.total) })
            let s := s.modPkg p (fun q => q.unhold h.launch)
            let s := s.trace p l.leaf 4 ⟨l.lr.launchid, h.gidx, 0, false, die⟩ (cores.headD 0) cores.length
            let s := s.writeUse p l.leaf
            let s := match s.launch? p h.launch with
              | some l => if l.handedOut then s.reportClusters p h.launch (List.range 48) else s
              | none => s
            done s)

/-- CLUSTER_MODE_CHANGE (R170): an empty cluster's L1s write back and drop every line, and the mode changes once their write-backs are
acknowledged. -/
def execClusterModeChange (p c : Nat) (fused : Bool) (s : State) : Out := .next (
  let empty := (s.resident p).all (fun (_, g) => g.shares.all (fun h => decide (clusterOf h.core ≠ c)))
  if ((s.pkgD p).cluster c).fused = fused || !empty then s
  else
    let cores := (List.range 8).map (· + c * 8)
    let s := cores.foldl (fun s d =>
      let ls := (s.coreOf p d).l1
      let s := s.modCore p d (fun k => { k with l1 := [] })
      ls.foldl (fun s l => if l.dirty ≠ 0 then s.sendWB p d l l.dirty else s) s) s
    if s.wbs.any (fun (_, w) => decide (w.pkg = p) && decide (clusterOf w.core = c)) then s.later (.clusterModeChange p c fused)
    else (s.modPkg p (fun q => q.modCluster c (fun k => { k with fused := fused }))).count p (1, 0) c 1)

end Sys2Proof.Machine
end

