-- ==== Sys2Proof/Machine/Debug.lean ====
section
/-! DEFINITION. The debug mailbox: targets and permissions (R274, R275), stops and their reports (R278, R279, R282, R413, R414),
resume and step (R280, R281), contexts and dumps (R283 to R285), slots (R276, R277). -/

namespace Sys2Proof.Machine

/-! ## Functions (R254, R285) -/

/-- The management controller acts with the authority of the physical function (R285); the model numbers it as a function after the
64 virtual ones. -/
def mctpFn : Nat := 65

/-- A function may act on a tenant: the physical one on any, a virtual one on its bound tenant (R254, R274). -/
def Pkg.owns (p : Pkg) (fn regid : Nat) : Bool :=
  decide (fn = 0) || decide (fn = mctpFn) ||
    (let b := SMap.get p.vfbind 0 (fn - 1); b.getLsbD 16 && decide (b.toNat % 65536 = regid))

/-- A write that names another tenant's block, queue, group or page is discarded, sets ERR and is counted (R254). -/
def State.refuseHost (s : State) (p fn : Nat) : State :=
  (s.modPkg p (fun q => q.modCtl fn (fun c => { c with err := true }))).tally p 30

def State.modMbox (s : State) (p fn : Nat) (f : Mbox → Mbox) : State := s.modPkg p (fun q => q.modMbox fn f)
/-- A command ends with a status (R274). -/
def State.dstat (s : State) (p fn v : Nat) : State := s.modMbox p fn (fun m => { m with busy := false, dstat := v })

/-- The group that a mailbox names. -/
def State.target (s : State) (p : Nat) (m : Mbox) : Option (Nat × Group) :=
  List.find? (fun ((_, g) : Nat × Group) => decide (g.pkg = p) && decide (g.lr.launchid = m.launchid) && decide (g.gidx = m.gidx))
    s.groups

/-- Start a command of a mailbox: outside READY it ends with DSTAT 2 (R288), and so does one that the management
controller does not accept (R285); while BUSY it ends with DSTAT 4 (R274). -/
def State.command (s : State) (p fn code : Nat) (body : State → Mbox → State) : State :=
  let q := s.pkgD p
  if q.lost then s
  else if q.boot.phase ≠ 3 || (decide (fn = mctpFn) && decide (code ∉ [1, 5, 7, 8])) then s.dstat p fn 2
  else if (q.mboxOf fn).busy then s.modMbox p fn (fun m => { m with dstat := 4 })
  else
    let s := s.modMbox p fn (fun m => { m with dop := BitVec.ofNat 8 code, dstat := 0 })
    body s (q.mboxOf fn)

/-- A command on the target group with a permission bit (R275). -/
def State.onGroup (s : State) (p fn code bit : Nat) (body : State → Mbox → Nat → Group → State) : State :=
  s.command p fn code (fun s m => match s.target p m with
    | none => s.dstat p fn 2
    | some (u, g) =>
      if !(s.pkgD p).owns fn g.tenant then (s.refuseHost p fn).dstat p fn 2
      else if !(s.effDbg p g.leaf).getLsbD bit then s.dstat p fn 1
      else body s m u g)

/-- A command on the region of REGID with a permission bit (R275). -/
def State.onRegion (s : State) (p fn code bit : Nat) (body : State → Mbox → Nat → State) : State :=
  s.command p fn code (fun s m => match s.regBlock p m.regid with
    | none => s.dstat p fn 2
    | some (a, _) =>
      if !(s.pkgD p).owns fn (s.tenantId p a) then (s.refuseHost p fn).dstat p fn 2
      else if !(s.effDbg p a).getLsbD bit then s.dstat p fn 1
      else body s m a)

/-! ## Stops and their reports (R278, R279, R282, R413) -/

/-- The path entries of a stopped group: by crew, then by PC (R282). -/
def Group.paths (g : Group) (hits : List Nat) (waits : Nat → Thread → Bool) : List PathEnt :=
  let ts := ((g.threads.zipIdx).map (fun (t, n) => (n, t))).filter (fun (_, t) => !t.exited)
  (List.range g.lr.crews).flatMap (fun c =>
    let cs := ts.filter (fun (n, _) => decide (n / 32 = c))
    let pcs := cs.foldl (fun l (_, t) => insertNat l t.shownPc.toNat) []
    pcs.map (fun pc =>
      let at_ := cs.filter (fun (_, t) => decide (t.shownPc.toNat = pc))
      { parked := at_.any (fun (_, t) => t.park.isSome), hit := at_.any (fun (n, _) => decide (n ∈ hits)),
        wait := at_.any (fun (n, t) => t.park.isNone && waits n t), pc := BitVec.ofNat 64 pc, crew := c,
        mask := at_.foldl (fun m (n, _) => m ||| (1#32 <<< (n % 32))) 0 }))

/-- The named thread of a stop: the one asked for if it has not exited, else the lowest that has not (R279). -/
def Group.namedThread (g : Group) (n : Nat) : Nat :=
  match g.threads[n]? with
  | some t => if t.exited then (g.threads.findIdx? (fun t => !t.exited)).getD 0 else n
  | none => (g.threads.findIdx? (fun t => !t.exited)).getD 0

/-- What a stop writes into a mailbox (R413). -/
def State.showStop (s : State) (m : Mbox) (u : Nat) (g : Group) (st : Stop) : Mbox :=
  let n := g.namedThread st.named
  let t := g.threads[n]?
  { m with
    stopped := true, stopcause := st.cause, hitcnt := min 255 st.hits.length,
    trapdepth := (t.map (·.depth)).getD 0, trapc := (t.map (·.trapc)).getD 0,
    name := BitVec.ofNat 64 (g.lr.launchid % 2 ^ 32 * 2 ^ 32 + g.gidx % 2 ^ 24 * 2 ^ 8),
    launchid := g.lr.launchid, gidx := g.gidx, ntidx := n, npc := (t.map Thread.shownPc).getD 0,
    paths := g.paths st.hits (fun n t => s.blocked ⟨u, n⟩ g t), shown := some u }

/-- Report a stop in a mailbox: at once, or after the stop of another group shown there has been resumed (R413). -/
def State.report1 (s : State) (p fn u : Nat) (g : Group) (st : Stop) : State :=
  s.modMbox p fn (fun m => match m.shown with
    | some v => if u = v then s.showStop m u g st else { m with pending := m.pending.filter (fun w => decide (w ≠ u)) ++ [u] }
    | none => s.showStop m u g st)

/-- The stop of a group is no longer shown: the next one that waits is (R413). -/
def State.endShown (s : State) (p u : Nat) : State :=
  let fns := ((s.pkgD p).mbox.filter (fun ((_, m) : Nat × Mbox) => decide (m.shown = some u) || decide (u ∈ m.pending))).map (·.1)
  fns.foldl (fun s fn =>
    let m := (s.pkgD p).mboxOf fn
    let rest := m.pending.filter (fun v => decide (v ≠ u))
    if m.shown ≠ some u then s.modMbox p fn (fun m => { m with pending := rest })
    else
      let s := s.modMbox p fn (fun m => { m with stopped := false, waiting := false, shown := none, pending := rest })
      match rest with
      | [] => s
      | v :: more => match s.group? v with
        | some g => match g.stop with
          | some st => s.modMbox p fn (fun m => { s.showStop m v g st with pending := more })
          | none => s.modMbox p fn (fun m => { m with pending := more })
        | none => s.modMbox p fn (fun m => { m with pending := more })) s

/-- A region's halt is over once every resident group of it has stopped. -/
def State.regionHalted (s : State) (p a : Nat) : Bool :=
  (s.charged p a).all (fun g => g.stopped || g.frozen || decide (g.phase ≠ .running))

/-- The command of a function that waits for a stop of a group is done: a DUMP goes on, a HALT REGION once every group of its regions has
stopped. -/
def State.stopDone (s : State) (p fn : Nat) : State :=
  let m := (s.pkgD p).mboxOf fn
  if contFn ≤ fn then s.laterOnce (.dump p fn)
  else if m.dop = 2 && !m.holds.all (fun a => s.regionHalted p a) then s
  else s.modMbox p fn (fun m => { m with busy := false, waiting := false })

/-- An access of a hitting thread that a watchpoint holds is still to be performed: the bundle in which it issued completes (R414). -/
def State.hitUnderWay (s : State) (g : Group) (st : Stop) : Bool :=
  st.hits.any (fun n => match ((g.threads[n]?).map (·.wait)).getD Wait.none with
    | Wait.watched x => (match s.access? x with
      | some a => decide (a.stage = .ready) || decide (a.stage = .forwarded)
      | none => false)
    | _ => false)

/-- GROUP_STOP (R279, R413): every thread of the group has stopped at an instruction boundary; the stop is reported to those that asked and
to the ATTACH that a slot or an instruction stops it for. -/
def execGroupStop (u : Nat) (s : State) : Out := .next (
  match s.group? u with
  | none => s
  | some g => match g.stop with
    | none => s
    | some st =>
      let p := g.pkg
      if g.phase = .draining then
        let s := s.modGroup u (fun g => { g with stop := none, stepT := none, stepWait := false })
        st.asked.foldl (fun s fn => if contFn ≤ fn then s.laterOnce (.dump p fn)
            else if ((s.pkgD p).mboxOf fn).dop = 2 then s.stopDone p fn
            else (s.modMbox p fn (fun m => { m with waiting := false })).dstat p fn 3) s
      else if g.phase = .saved then
        st.asked.foldl (fun s fn => s.stopDone p fn) (s.modGroup u (fun g => { g with stop := some { st with asked := [] } }))
      else if g.phase ≠ .running || g.stopped || g.stepT.isSome then s
      else if s.hitUnderWay g st then s.later (.groupStop u)
      else if g.shares.any (fun h =>
          let k := s.coreOf p h.core
          k.open_ && (match k.bundles with | b :: _ => b.threads.any (fun t => decide (t.uid = u)) | [] => false)) then
        s.later (.groupStop u)
      else
        let s := s.dropBundles u
        let s := { s with freeTick := s.freeTick + 1 }
        let tick := s.freeTick
        let attach := s.attachFor p g.leaf
        let fn := match st.fn with | some fn => some fn | none => attach
        let told := (st.asked ++ fn.toList ++ (if st.hits = [] then [] else attach.toList)).eraseDups.filter (fun f => decide (f < contFn))
        let asked := st.asked
        let st := { st with fn := fn, asked := [] }
        let s := s.modGroup u (fun g => { g with stopped := true, stop := some st, drawn := tick })
        let n := g.namedThread st.named
        let pc := match g.threads[n]? with | some t => t.shownPc.toNat | none => 0
        let s := s.trace p g.leaf 8 ⟨g.lr.launchid, g.gidx, 0, false, g.die⟩ st.cause pc
        asked.foldl (fun s fn => s.stopDone p fn) (told.foldl (fun s fn => s.report1 p fn u g st) s))

/-! ## HALT (R279) -/

/-- HALTED of the context of a saved group follows its stop (R78, R279). -/
def State.markHalted (s : State) (u : Nat) : State :=
  match s.group? u with
  | none => s
  | some g =>
    if g.phase ≠ .saved then s
    else (List.range g.shares.length).foldl (fun s j =>
      let (s, b) := State.partRead s g.pkg (g.saveAt j + 8) 1
      s.partWrite g.pkg (g.saveAt j + 8) [if g.stop.isSome then b.headD 0 ||| 4 else b.headD 0 &&& 0xFB]) s

/-- Ask a group to halt for a function. -/
def State.haltGroup (s : State) (p fn u : Nat) (g : Group) (cause tidx : Nat) : State :=
  let st : Stop := { cause := cause, hits := [], named := tidx, fn := some fn, asked := [] }
  if g.phase = .saved || g.phase = .saving then
    (s.modGroup u (fun g => { g with stop := some (g.stop.getD st) })).markHalted u
  else if g.frozen then s.report1 p fn u g st
  else if g.stepT.isSome then
    (s.modGroup u (fun g => { g with
      stopped := false, stepT := none, stepWait := false,
      stop := some { st with fn := (g.stop.bind (·.fn)).orElse (fun _ => some fn), asked := insertNat ((g.stop.map (·.asked)).getD []) fn } })).laterOnce
      (.groupStop u)
  else if g.stopped then s.report1 p fn u g (g.stop.getD st)
  else s.requestStop u cause none tidx (some fn)

/-- HALT (R279). -/
def execDebugHalt (p fn : Nat) (s : State) : Out := .next (
  s.onGroup p fn 1 0 (fun s m u g =>
    if g.phase = .draining then s.dstat p fn 3
    else
      let done := decide (g.phase ≠ .running) || g.frozen || (g.stopped && g.stepT.isNone)
      let s := s.modMbox p fn (fun m => { m with busy := !done, waiting := false })
      s.haltGroup p fn u g 1 m.tidx))

/-- HALT REGION (R275, R279): every resident group of the subtree halts, and no group of it is handed out; each group's leaf must grant it. -/
def execHaltRegion (p fn : Nat) (s : State) : Out := .next (
  s.onRegion p fn 2 0 (fun s m a =>
    let gs := (s.resident p).filter (fun (_, g) => s.inSubtree p g.leaf a && decide (g.phase ≠ .draining))
    if gs.any (fun (_, g) => !(s.effDbg p g.leaf).getLsbD 0) then s.dstat p fn 1 else
    let s := s.modPkg p (fun q => { q with blocks := SMap.modify q.blocks a (fun b => { b with held := true }) })
    let s := s.modMbox p fn (fun m => { m with holds := insertNat m.holds a })
    let s := gs.foldl (fun s (u, g) => s.haltGroup p fn u g 7 (g.namedThread m.tidx)) s
    s.modMbox p fn (fun m => { m with busy := !s.regionHalted p a })))

/-! ## RESUME and DETACH (R280, R413) -/

/-- Every thread of a halted group issues again (R276, R280). -/
def State.resumeGroup (s : State) (u : Nat) : State :=
  match s.group? u with
  | none => s
  | some g =>
    if g.phase = .saved || g.phase = .saving then
      ((s.modGroup u (fun g => { g with stop := none })).markHalted u).trace g.pkg g.leaf 9 ⟨g.lr.launchid, g.gidx, 0, false, g.die⟩ 0 0
    else
      let s := s.modGroup u (fun g => { g with
        stop := none, stopped := false, stepT := none, stepWait := false,
        threads := g.threads.map (fun t => { t with skipBp := true }) })
      let s := s.wakeThreads u
      let s := s.trace g.pkg g.leaf 9 ⟨g.lr.launchid, g.gidx, 0, false, g.die⟩ 0 0
      s.endShown g.pkg u

/-- A region held by HALT REGION is handed out again. -/
def State.releaseRegion (s : State) (p a : Nat) : State :=
  let s := s.modPkg p (fun q => { q with
    blocks := SMap.modify q.blocks a (fun b => { b with held := false }),
    mbox := q.mbox.map (fun ((f, m) : Nat × Mbox) => (f, { m with holds := eraseNat m.holds a })) })
  s.laterOnce (.groupHandOut p)

/-- RESUME (R279, R280, R413): of the region held under REGID with its halted groups, or of the target group. -/
def execResume (p fn : Nat) (s : State) : Out := .next (
  let m := (s.pkgD p).mboxOf fn
  let held := match s.regBlock p m.regid with | some (a, b) => if b.held then some a else none | none => none
  match held with
  | some _ => s.onRegion p fn 3 0 (fun s _ a =>
      let gs := List.filter (fun ((_, g) : Nat × Group) => decide (g.pkg = p) && s.inSubtree p g.leaf a && g.stop.isSome && !g.frozen &&
        decide (g.phase ≠ .draining)) s.groups
      if gs.any (fun (_, g) => !(s.effDbg p g.leaf).getLsbD 0) then s.dstat p fn 1 else
      let s := s.releaseRegion p a
      (gs.foldl (fun s (u, _) => s.resumeGroup u) s).dstat p fn 0)
  | none => s.onGroup p fn 3 0 (fun s _ u g =>
      if g.phase = .draining then s.dstat p fn 3
      else if g.frozen || (!g.stopped && !((decide (g.phase = .saved) || decide (g.phase = .saving)) && g.stop.isSome)) then s.dstat p fn 5
      else (s.resumeGroup u).dstat p fn 0))

/-- DETACH (R280): the ATTACH ends, every slot of the function is disabled, and what the function halted is resumed. -/
def execDetach (p fn : Nat) (s : State) : Out := .next (
  s.command p fn 10 (fun s m =>
    let clear (l : SMap DWord) : SMap DWord := (l.map (fun ((i, v) : Nat × DWord) => (i, v &&& 0x7FFFFFFFFFFFFFFF#64))).filter
      (fun ((_, v) : Nat × DWord) => decide (v ≠ 0))
    let clearWp (l : SMap DWord) : SMap DWord := (l.map (fun ((i, v) : Nat × DWord) =>
      (i, if i % 4 = 0 then v &&& 0x7FFFFFFFFFFFFFFF#64 else v))).filter (fun ((_, v) : Nat × DWord) => decide (v ≠ 0))
    let clearBp (l : SMap DWord) : SMap DWord := clear (l.filter (fun ((i, _) : Nat × DWord) => decide (i % 2 = 0))) |>.foldl
      (fun acc ((i, v) : Nat × DWord) => SMap.set acc 0 i v) (l.filter (fun ((i, _) : Nat × DWord) => decide (i % 2 = 1)))
    let s := s.modMbox p fn (fun m => { m with att := false, attReg := 0, bp := clearBp m.bp, wp := clearWp m.wp, pending := [] })
    let s := m.holds.foldl (fun s a => s.releaseRegion p a) s
    let gs := List.filter (fun ((_, g) : Nat × Group) => decide (g.pkg = p) &&
      (match g.stop with | some st => decide (st.fn = some fn) | none => false)) s.groups
    (gs.foldl (fun s (u, _) => s.resumeGroup u) s).dstat p fn 0))

/-- ATTACH (R413). -/
def execAttach (p fn : Nat) (s : State) : Out := .next (
  if ((s.pkgD p).mboxOf fn).att && decide ((s.pkgD p).boot.phase = 3) then s.command p fn 9 (fun s _ => s.dstat p fn 4)
  else s.onRegion p fn 9 0 (fun s m _ => (s.modMbox p fn (fun k => { k with att := true, attReg := m.regid })).dstat p fn 0))

/-! ## STEP (R281) -/

/-- STEP (R281): one thread of a halted group issues alone. A thread that stands parked, or in a wait that still holds, is judged at
once. -/
def execStep (p fn : Nat) (s : State) : Out := .next (
  s.onGroup p fn 4 1 (fun s m u g =>
    if g.stepT.isSome then s.dstat p fn 4
    else if !g.stopped || g.frozen || g.phase ≠ .running then s.dstat p fn 5
    else match g.threads[m.tidx]? with
      | none => s.dstat p fn 2
      | some t =>
        if t.exited then s.dstat p fn 2
        else
          let k : TKey := ⟨u, m.tidx⟩
          let s := s.modGroup u (fun g => { g with
            stepT := some m.tidx, stepDepth := t.depth, stepWait := false,
            stop := some { cause := 5, hits := [], named := m.tidx, fn := (g.stop.bind (·.fn)).orElse (fun _ => some fn), asked := [fn] } })
          let s := s.modThread k (fun t => { t with
            skipBp := true, wait := match t.wait with | .bar n => .bar n | .rsync n => .rsync n | .held => .held | _ => .none })
          let s := s.modMbox p fn (fun m => { m with busy := true })
          if t.park.isSome then s.endStep u 5
          else match s.group? u, s.thread? k with
            | some g, some t =>
              if s.waits k g t then s.judgeStep k
              else if !(s.operandWait k g t).isEmpty then (s.stay k (.operand (s.operandWait k g t))).judgeStep k
              else if !t.log.isEmpty then s.later (.accessReplay u m.tidx) else s
            | _, _ => s))

/-- STEP_WAIT_END (R281): the stepped instruction has passed, and the step ends by itself. -/
def execStepWaitEnd (p fn : Nat) (s : State) : Out := .next (
  let s := s.modMbox p fn (fun m => { m with waiting := false })
  match List.find? (fun ((_, g) : Nat × Group) => decide (g.pkg = p) && g.stepWait && g.stepT.isNone &&
      (match g.stop with | some st => decide (fn ∈ st.asked) | none => false)) s.groups with
  | some (u, _) => (s.modGroup u (fun g => { g with stepWait := false })).laterOnce (.groupStop u)
  | none => s)

/-! ## Contexts and dumps (R283 to R285) -/

/-- A dump header (R284). -/
def dumpHeader (kind len time name : Nat) : List Byte :=
  leBytes 8 (kind * 2 ^ 56 + len % 2 ^ 32) ++ leBytes 8 time ++ leBytes 8 name ++ leBytes 40 0
/-- The items of a group: each share's header and context. -/
def State.groupItems (s : State) (u : Nat) (g : Group) : List Byte :=
  (List.range g.shares.length).flatMap (fun j =>
    let c := s.context u j g
    dumpHeader 1 c.length (s.now g.pkg) (g.lr.launchid % 2 ^ 32 * 2 ^ 32 + g.gidx % 2 ^ 24 * 2 ^ 8) ++ c)
def Group.itemBytes (g : Group) : Nat := g.shares.foldl (fun n h => n + 64 + g.lr.contextBytes h.crews) 0

/-- The owner of a page that some package or the backing area holds, or that is LOST. -/
def State.pageOwner (s : State) (g : Nat) : Option Nat :=
  match s.masterOf g with
  | some q => some (s.tagOf q g).owner
  | none => (s.entryAt g 2 0).map (·.owner)

/-- The dump area is the function's to write: for a virtual function no page of it is another tenant's (R254). -/
def State.dumpAllowed (s : State) (p fn n : Nat) (m : Mbox) : Bool :=
  (List.range ((m.dmbase % 65536 + n + 65535) / 65536)).all (fun i =>
    let g := m.dmbase / 65536 + i
    match s.pageOwner g with
    | some o => (s.pkgD p).owns fn o
    | none => true)

/-- Write items into the dump area and end the command; over MCTP the bytes go out as well (R285). -/
def State.writeDump (s : State) (p fn : Nat) (m : Mbox) (bs : List Byte) : State :=
  if m.dmblocks * 4096 < bs.length then s.dstat p fn 6
  else if !s.dumpAllowed p fn bs.length m then (s.refuseHost p fn).dstat p fn 2
  else
    let s := s.partWrite p m.dmbase bs
    let s := if fn = mctpFn then s.signal p (.dump 0 bs) else s
    s.dstat p fn 0

/-- READ CONTEXT of a group that is halted or frozen (R279, R283). -/
def State.readCtx (s : State) (p fn u : Nat) (m : Mbox) : State :=
  match s.group? u with
  | none => s.dstat p fn 2
  | some g =>
    if g.phase = .draining then s.dstat p fn 3
    else if g.phase ≠ .running || !(g.stopped || g.frozen) then s.dstat p fn 5
    else s.writeDump p fn m (s.groupItems u g)

/-- READ CONTEXT (R283); during a save it waits for the save's end (R75). -/
def execReadContext (p fn : Nat) (s : State) : Out := .next (
  s.onGroup p fn 5 4 (fun s m u g =>
    if g.phase = .saving then (s.modMbox p fn (fun m => { m with busy := true, dumping := [u] })).later (.dump p (fn + contFn))
    else s.readCtx p fn u m))

/-- The FMODE and FFLAGS of a written context are ones the registers can hold (R99). -/
def Group.modesOk (g : Group) : Bool := g.threads.all (fun t => decide (t.fmode.toNat < 16) && decide (t.fmode.toNat % 8 < 5) &&
  decide (t.fflags.toNat < 32))

/-- A written context agrees with what the group would show of it: in every field that it may not change, and in ELAPSED, which runs on
while the group is halted, in being no later than now. A thread whose PC changes shows what it waited for before (R283). -/
def State.contextAgrees (s : State) (u j : Nat) (old new : Group) (bs : List Byte) : Bool :=
  let cs := s.context u j { new with threads := (new.threads.zip old.threads).map (fun (t, o) => { t with park := o.park, wait := o.wait }) }
  decide (cs.take 16 = bs.take 16) && decide (leNat ((bs.drop 16).take 8) ≤ leNat ((cs.drop 16).take 8)) && decide (cs.drop 24 = bs.drop 24)

/-- WRITE CONTEXT (R283): changes to the fields it admits, in all shares or in none. -/
def execWriteContext (p fn : Nat) (s : State) : Out := .next (
  s.onGroup p fn 6 5 (fun s m u g =>
    if g.phase = .draining then s.dstat p fn 3
    else if g.phase ≠ .running || !g.stopped || g.frozen then s.dstat p fn 5
    else if m.dmblocks * 4096 < g.itemBytes then s.dstat p fn 6
    else if !s.dumpAllowed p fn g.itemBytes m then (s.refuseHost p fn).dstat p fn 2
    else
      let (s, bs) := s.partRead p m.dmbase g.itemBytes
      let (new, at_) := (g.shares.zipIdx).foldl (fun ((g', o) : Group × Nat) (h, j) =>
        (g'.takeContext j ((bs.drop (o + 64)).take (g.lr.contextBytes h.crews)), o + 64 + g.lr.contextBytes h.crews)) (g, 0)
      let same := ((g.shares.zipIdx).foldl (fun ((ok, o) : Bool × Nat) (h, j) =>
        (ok && s.contextAgrees u j g new ((bs.drop (o + 64)).take (g.lr.contextBytes h.crews)), o + 64 + g.lr.contextBytes h.crews))
        (true, 0)).1
      if at_ = 0 || !same || !new.modesOk then s.dstat p fn 7
      else (s.modGroup u (fun _ => new)).dstat p fn 0))

/-- The groups of a DUMP under way have all stopped. -/
def State.dumpReady (s : State) (l : List Nat) : Bool :=
  l.all (fun u => match s.group? u with
    | some g => g.stopped || g.frozen || decide (g.phase ≠ .running && g.phase ≠ .saving)
    | none => true)

/-- A DUMP halts those of its groups that run and that nothing halts, also one that was resumed or restored meanwhile (R284). -/
def State.haltDumped (s : State) (p fn : Nat) (l : List Nat) : State :=
  l.foldl (fun s u => match State.group? s u with
    | some g => if g.stop.isSome || g.stopped || g.frozen || g.phase ≠ .running || g.pkg ≠ p then s else s.requestStop u 1 none 0 (some (fn + contFn))
    | none => s) s

/-- A DUMP or a READ CONTEXT goes on once the groups it waits for have stopped (R75, R284). -/
def State.goOnDump (s : State) (p fn : Nat) : State :=
  let m := (s.pkgD p).mboxOf fn
  if !m.busy then s
  else if m.dop = 5 then
    match m.dumping with
    | u :: _ =>
      let saving : Bool := match s.group? u with | some g => decide (g.phase = .saving) | none => false
      if saving then s.later (.dump p (fn + contFn))
      else (s.modMbox p fn (fun m => { m with dumping := [] })).readCtx p fn u m
    | [] => s
  else if m.dop ≠ 7 then s
  else if !s.dumpReady m.dumping then (s.haltDumped p fn m.dumping).laterOnce (.dump p (fn + contFn))
  else if !m.whole && m.dumping.all (fun u => match s.group? u with | some g => decide (g.phase = .saved) | none => false) then
    (s.modMbox p fn (fun m => { m with dumping := [] })).dstat p fn 2
  else
    let gs := m.dumping.filterMap (fun u => match s.group? u with
      | some g => if g.phase = .running then some (u, g) else none | none => none)
    let s := s.writeDump p fn m (gs.flatMap (fun (u, g) => s.groupItems u g))
    let s := m.dumping.foldl (fun s u =>
      if (((State.group? s u).bind (·.stop)).bind (·.fn)) = some (fn + contFn) then s.resumeGroup u else s) s
    s.modMbox p fn (fun m => { m with dumping := [] })

/-- Begin a DUMP of groups: it halts those that run (R284). -/
def State.beginDump (s : State) (p fn : Nat) (m : Mbox) (gs : List (Nat × Group)) : State :=
  let need := gs.foldl (fun n (_, g) => n + g.itemBytes) 0
  if m.dmblocks * 4096 < need then s.dstat p fn 6
  else
    let s := s.modMbox p fn (fun m => { m with busy := true, dumping := gs.map (·.1) })
    (s.haltDumped p fn (gs.map (·.1))).goOnDump p fn

/-- DUMP (R284): of the target group, or of each resident group of the region when WHOLE is 1. A function number of `contFn` or more
marks the event that carries a command on. -/
def execDump (p fn : Nat) (s : State) : Out := .next (
  if contFn ≤ fn then s.goOnDump p (fn - contFn)
  else if ((s.pkgD p).mboxOf fn).whole then s.onRegion p fn 7 6 (fun s m a =>
    let gs := (s.resident p).filter (fun (_, g) => s.inSubtree p g.leaf a && decide (g.phase ≠ .draining))
    if gs.any (fun (_, g) => !(s.effDbg p g.leaf).getLsbD 6) then s.dstat p fn 1 else s.beginDump p fn m gs)
  else s.onGroup p fn 7 6 (fun s m u g =>
    if g.phase = .draining then s.dstat p fn 3
    else if g.phase = .saved then s.dstat p fn 2
    else s.beginDump p fn m [(u, g)]))

/-- The 16 bytes of a frame tag (R139). -/
def FrameTag.bytes (t : FrameTag) : List Byte :=
  leBytes 8 (t.gpn % 2 ^ 40 * 2 ^ 24 + t.state % 8 * 2 ^ 21 + t.mode % 2 * 2 ^ 20 + t.age % 16 * 2 ^ 16 + t.rrd % 256 * 256 +
    t.rwr % 256) ++
  leBytes 8 (t.owner % 2 ^ 16 * 2 ^ 48 + bitOf t.mirror * 2 ^ 47 + t.unlisted % 8 * 2 ^ 44 + t.solew % 8 * 2 ^ 41 +
    t.lastwr % 2 ^ 12 * 2 ^ 29 + bitOf t.multiwr * 2 ^ 28 + t.ord % 256 * 2 ^ 20 + t.owr % 256 * 2 ^ 12)
/-- The 8 bytes of a line's metadata (R125). The 39 bits of CHECK are free: the manual gives no code for them (log entry 21). -/
def State.metaBytes (s : State) (tick n : Nat) : List Byte :=
  let m := SMap.get s.lmeta LineMeta.init n
  let check := leNat ((List.range 5).map (fun i => Config.freeByte tick (8 * n + i))) % 2 ^ 39
  leBytes 8 (check * 2 ^ 25 + m.act % 16 * 2 ^ 21 + m.cmp % 8 * 2 ^ 18 + m.vis % 4 * 2 ^ 16 + m.tag.toNat)

/-- DUMP PAGE (R275, R284): the page's frame tag here, or zeros, and its 512 metadata words. The permission is that of its tenant's
block; a page that nothing holds has none to ask. -/
def execDumpPage (p fn : Nat) (s : State) : Out := .next (
  s.command p fn 8 (fun s m =>
    let owner := s.pageOwner m.gpn
    let allowed := match owner with
      | none => decide (fn = 0) || decide (fn = mctpFn)
      | some o => (s.pkgD p).owns fn o
    let perm := match owner.bind (s.tenantBlock p) with
      | some (a, _) => (s.effDbg p a).getLsbD 4
      | none => true
    if !allowed then (s.refuseHost p fn).dstat p fn 2
    else if !perm then s.dstat p fn 1
    else
      let s := { s with freeTick := s.freeTick + 1 }
      let tag := match (s.pkgD p).frameOf m.gpn with | some _ => (s.tagOf p m.gpn).bytes | none => leBytes 16 0
      s.writeDump p fn m (dumpHeader 2 4112 (s.now p) (m.gpn % 2 ^ 40) ++ tag ++
        (List.range 512).flatMap (fun i => s.metaBytes s.freeTick (m.gpn * 512 + i)))))

/-! ## Slots (R276, R277) -/

/-- Enabled slots of a kind in a package: their SREG. -/
def Pkg.slotRegs (p : Pkg) (bp : Bool) : List Nat :=
  p.mbox.flatMap (fun ((_, m) : Nat × Mbox) =>
    (List.range (if bp then 64 else 32)).filterMap (fun i =>
      if bp then
        (if (SMap.get m.bp 0 (2 * i)).getLsbD 63 then some (bitsOf (SMap.get m.bp 0 (2 * i + 1)).toNat 63 48) else none)
      else if (SMap.get m.wp 0 (4 * i)).getLsbD 63 then some (bitsOf (SMap.get m.wp 0 (4 * i + 2)).toNat 63 48) else none))

/-- One more slot on a region would leave no path of its subtree covered by more than the limit (R276). -/
def State.slotFits (s : State) (p : Nat) (bp : Bool) (sreg : Nat) : Bool :=
  let regs := (s.pkgD p).slotRegs bp
  (s.pkgD p).blocks.all (fun ((a, _) : Nat × Block) =>
    !s.covered p a sreg || decide ((regs.filter (fun r => s.covered p a r)).length < (if bp then 8 else 4)))

/-- Write a word of a slot: the defined fields; setting EN beyond the limit is discarded, with DSTAT 2. -/
def State.slotWrite (s : State) (p fn : Nat) (bp : Bool) (key : Nat) (mask : DWord) (sregKey : Nat) (v : DWord) : State :=
  let m := (s.pkgD p).mboxOf fn
  let get (k : Nat) : DWord := SMap.get (if bp then m.bp else m.wp) 0 k
  let en := decide (key % (if bp then 2 else 4) = 0) && v.getLsbD 63 && !(get key).getLsbD 63
  if en && !s.slotFits p bp (bitsOf (get sregKey).toNat 63 48) then s.modMbox p fn (fun m => { m with dstat := 2 })
  else s.modMbox p fn (fun m =>
    if bp then { m with bp := SMap.set m.bp 0 key (v &&& mask) } else { m with wp := SMap.set m.wp 0 key (v &&& mask) })

/-- The mailbox acts: the package is READY. -/
def Pkg.ready (p : Pkg) : Bool := decide (p.boot.phase = 3) && !p.lost

/-- BREAKPOINT_SLOT_WRITE (R276): word w of slot i. -/
def execBreakpointSlotWrite (p fn i w : Nat) (v : DWord) (s : State) : Out := .next (
  if !(s.pkgD p).ready || 64 ≤ i || 2 ≤ w then s
  else s.slotWrite p fn true (2 * i + w) (if w = 0 then 0xE0FFFFFFFFFFFFFC#64 else 0xFFFF0000FFFFFFFF#64) (2 * i + 1) v)

/-- WATCHPOINT_SLOT_WRITE (R277): word w of slot i. -/
def execWatchpointSlotWrite (p fn i w : Nat) (v : DWord) (s : State) : Out := .next (
  if !(s.pkgD p).ready || 32 ≤ i || 4 ≤ w then s
  else
    let mask := if w = 0 then 0xF8FFFFFFFFFFFFFF#64 else if w = 1 then 0xFFFFFFFF#64 else if w = 2 then 0xFFFF000000000000#64 else 0
    s.slotWrite p fn false (4 * i + w) mask (4 * i + 2) v)

end Sys2Proof.Machine
end

