-- ==== Sys2Proof/Machine/Pages.lean ====
section
/-! DEFINITION. Attraction memory: climbing misses, first touch, replicas, upgrades, the mark, memory-side mode, windows (R140,
R143 to R150, R154, R159, R160, R410, R411). -/

namespace Sys2Proof.Machine

/-! ## The page's bytes as a whole -/

/-- A demand-zeroed page (R126, R144): zero bytes, TAG, VIS and ACT 0, line codes 1 where the page compresses inline. -/
def State.zeroPage (s : State) (g cmp : Nat) (side : Bool) : State :=
  let seg : SMap LineMeta := if !side && decide (1 ≤ cmp ∧ cmp ≤ 3) then
      (List.range 512).map (fun i => (g * 512 + i, { LineMeta.init with cmp := 1 })) else []
  { s with gmem := splice s.gmem (g * 65536) 65536 [], lmeta := splice s.lmeta (g * 512) 512 seg, pageCmp := SMap.del s.pageCmp g }

/-! ## The backing area (R153) -/

/-- The lowest free slot of a bitmap, from slot 1. -/
def State.freeSlot (s : State) (p base n : Nat) : Option Nat :=
  ((List.range n).drop 1).find? (fun i => !(((s.hbytes p (base + i / 8) 1).headD 0).getLsbD (i % 8)))
def State.setSlot (s : State) (p base i : Nat) (v : Bool) : State :=
  let b := (s.hbytes p (base + i / 8) 1).headD 0
  s.hput p (base + i / 8) [if v then b ||| (1#8 <<< (i % 8)) else b &&& ~~~(1#8 <<< (i % 8))]

/-! ## Climbing (R144) -/

inductive Climb where
  /-- it waits at a node, by level and prefix, or for the install of an entry -/
  | wait (node : Option (Nat × Nat))
  /-- a level with a child other than the requester's -/
  | turn (level child : Nat)
  | backed (slot : Nat)
  | nothing
  | lost
  deriving DecidableEq, Repr

/-- The present child for a read: the least (c − own child) mod 16 (R144). -/
def readChild (pres : BitVec 16) (own : Nat) : Option Nat := nextOf16 (own + 1) (fun c => pres.getLsbD c && decide (c ≠ own))

/-- An overflowed node without an entry probes its subtree; a holder's answer reinstalls the entry (R144, R156). None when the install
must wait. -/
def State.probe (s : State) (g level pre host : Nat) : Option State :=
  match (s.holdersOf g).filter (fun p => decide (prefixAt level p = pre)) with
  | [] => some (s.tally host 17)
  | h :: _ =>
    let t := s.tagOf h g
    let s := (s.tally host 17).modTag h g (fun t => { t with unlisted := t.unlisted &&& (7 - 2 ^ level) })
    (s.installEntry host (s.freshEntry g level pre t.mode t.mirror t.owner)).map (fun s =>
      if t.unlisted.testBit level then s.evcDown host g else s)

/-- An entry of a page's node that still stands at a package which was its host. -/
def State.strayAt (s : State) (g level pre host : Nat) : Option (Nat × DirEntry) :=
  s.pkgs.findSome? (fun (q, p) =>
    if q = host || prefixAt level q ≠ pre then none else ((p.dirSet (dsetOf g)).entry? g level).map (fun e => (q, e)))
/-- What a node that finds no entry does first: it takes over one that stands elsewhere (R157), or probes its subtree where its set is
overflowed (R144). None while an install must wait. -/
def State.lookAgain (s : State) (g level pre host : Nat) : Option State :=
  if ((s.dirOf host g).entry? g level).isSome then some s
  else match s.strayAt g level pre host with
    | some (q, e) => s.adoptEntry q e
    | none => if (s.dirOf host g).evc ≠ 0 then s.probe g level pre host else some s

/-- The climb of a request x of package p, from a level up. -/
def State.climb (s : State) (x p g : Nat) : Nat → Nat → State × Climb × Nat
  | 0, l => (s, .nothing, l)
  | f + 1, l =>
    let pre := prefixAt l p
    match s.nodeHost g l pre with
    | none => (s, .nothing, l)
    | some host =>
      match s.lookAgain g l pre host with
      | none => (s, .wait none, l)
      | some s =>
        match (s.dirOf host g).entry? g l with
        | none => State.climb s x p g f (l + 1)
        | some e =>
          if e.dstate = 5 then (s, .lost, l)
          else if s.nodeTaken x g (l, pre) then (s, .wait (some (l, pre)), l)
          else match readChild e.pres (childAt l p) with
            | some c => (s, .turn l c, l)
            | none => if e.backed then (s, .backed e.bkslot, l) else State.climb s x p g f (l + 1)

/-- Count a miss of a package once, and each level it climbs once (R161); each is a message to the level's node. -/
def State.climbTo (s : State) (here g : Nat) (missed : Bool) (climbed l : Nat) : State :=
  let s := if missed then s else s.tally here 0
  let s := if climbed < 1 && decide (1 ≤ l) then s.tally here 1 else s
  let s := if climbed < 2 && decide (2 ≤ l) then s.tally here 2 else s
  ((List.range 3).filter (fun k => decide (k ≤ l) && (!missed || decide (climbed < k)))).foldl (fun s k =>
    match s.nodeHost g k (prefixAt k here) with
    | some q => s.sendMsg here q 0 .climb g 0 0
    | none => s) s
/-- The same for a request. -/
def State.countClimb (s : State) (x here : Nat) (r : PageReq) (l : Nat) : State :=
  (s.climbTo here r.page r.missed r.climbed (min l 2)).setItem x (.page { r with missed := true, climbed := max r.climbed (min l 2) })

/-- The holder below a turn: the master when the child's subtree holds it, otherwise the lowest present one (R410). -/
def State.holderBelow (s : State) (p g level child : Nat) : Option Nat :=
  let sub := (s.holdersOf g).filter (fun q => decide (prefixAt level q = prefixAt level p) && decide (childAt level q = child))
  match s.firstMaster g with
  | some m => if m ∈ sub then some m else sub.head?
  | none => sub.head?

/-- A new replica is reported to the master's frame: it becomes MASTER-SHARED, RRD counts (R145, R411), and an injection of it has a
further candidate (R155). -/
def State.noteReplica (s : State) (m g reader : Nat) : State :=
  let s := (s.report m g).modTag m g (fun t => { t with
    state := if t.state = fsInjecting then t.state else fsShared, rrd := min 255 (t.rrd + 1) })
  { s with items := s.items.map (fun ((y, i) : Nat × Item) => match i with
      | .inj j => (y, if j.page = g && j.pkg = m then .inj { j with readers := insertNat j.readers reader } else i)
      | i => (y, i)) }

/-- The read miss turns at its ordering node (R145, R410): the master becomes MASTER-SHARED, RRD counts, a frame is FILLING. An
INJECTING master serves it, and the reader becomes a candidate (R155). -/
def State.fetchPage (s : State) (x : Nat) (r : PageReq) (level child : Nat) : State :=
  match s.holderBelow r.pkg r.page level child with
  | none => s.later (.climbingMiss x)
  | some h =>
    let ns := pathNodes level [h]
    let t := s.tagOf ((s.firstMaster r.page).getD h) r.page
    match s.busyNode x r.page ns with
    | some n => s.waitNode x r.page n (.climbingMiss x)
    | none => match s.takeFrame r.pkg r.page t.owner r.leaf x 1 with
      | (s, none) => (s.noWait x).later (.climbingMiss x)
      | (s, some f) =>
        let s := s.lockNodes x r.page 1 ns
        let s := match s.firstMaster r.page with
          | some m => s.noteReplica m r.page r.pkg
          | none => s
        let age := (s.pkgD r.pkg).lastAge r.page
        let s := s.fillFrame r.pkg f { FrameTag.init with
          gpn := r.page, state := fsFilling, owner := t.owner, mirror := t.mirror, age := age, charge := r.leaf }
        let s := s.sendPage h r.pkg 1 r.page
        (s.setItem x (.page { r with stage := 1, frame := f, from_ := h, waitAt := none })).later (.pageMoveDone x)

/-- A place for the second master of a mirrored page: the next bay in the row whose frames accept it (R157, R159). -/
def State.placeSecond (s : State) (p g : Nat) : State :=
  let t := s.tagOf p g
  let row := p / 256
  let bay := p / 16 % 16
  let places := (List.range 15).flatMap (fun i => (List.range 16).map (fun j => row * 256 + (bay + 1 + i) % 16 * 16 + j))
  match places.find? (fun q => s.alive q && (s.pkgD q).pageState g = 0 && ((ordinaryWays (pageSet g)).any (fun w =>
      decide (((s.pkgD q).frame (pageSet g * 16 + w)).state ≤ 1)))) with
  | none => s
  | some q =>
    match s.takeFrame q g t.owner (s.chargeOf q t) 0 2 with
    | (s, none) => s
    | (s, some f) =>
      let age := (s.pkgD q).lastAge g
      (s.copyPoison g p q).fillFrame q f { FrameTag.init with
        gpn := g, state := fsSole, mode := 1, owner := t.owner, mirror := true, second := true, age := age, charge := t.charge }

/-- The second master that a mirrored page lacks is made as soon as a frame accepts it (R157): a request of the first master's package
that is tried until then. -/
def State.secondDue (s : State) (m g : Nat) : State :=
  if (s.secondMaster g).isSome || s.pageReqs.any (fun (_, r) => decide (r.page = g) && decide (r.stage = 5)) then s
  else
    let (s, x) := s.newItem (.page { pkg := m, who := 0, page := g, va := 0, write := true, dir := 1, leaf := 0, tenant := 0, mtype := 0, peer := 0,
                                     cmp := 0, side := false, stage := 5, frame := 0, from_ := m, force := false, missed := false, climbed := 0,
                                     counted := false, waitAt := none })
    s.later (.upgrade x)

/-- The accesses of a package that have waited for a page: it counts none of them in ORD and OWR (R412). -/
def State.pageLate (s : State) (p g : Nat) : State :=
  s.accesses.foldl (fun s (x, a) =>
    let at_ (t : Trans) (va : Nat) : Bool := decide (t.mtype ≠ 5) && decide (t.addr va / 65536 = g)
    let hit : Bool := if a.stage = .translate then
        match (s.walk a.pkg (dieOf a.core) a.leaf a.va.toNat 0).2 with | .ok t => at_ t a.va.toNat | _ => false
      else (a.trans.zip a.pieces).any (fun (t, (v, _)) => at_ t v)
    if a.pkg = p && a.unperformed && hit then s.modAccess x (fun a => { a with late := true }) else s) s

/-- Demand-zero a page at a package for a leaf (R126, R144): MASTER-SOLE, with entries at all three levels. False when it must wait. -/
def State.firstTouch (s : State) (x p g tenant leaf cmp : Nat) (side mirror peer : Bool) : State × Bool :=
  let mir := mirror && !peer
  match s.takeFrame p g tenant leaf x (if mir then 2 else 1) with
  | (s, none) => (s, false)
  | (s, some f) =>
    let old := s
    let age := (s.pkgD p).lastAge g
    let s := s.fillFrame p f { FrameTag.init with
      gpn := g, state := fsSole, mode := bitOf (mir || peer), owner := tenant, mirror := mir, age := age, peer := peer, charge := leaf }
    let s := if mir then s.placeSecond p g else s
    match s.relist g (bitOf (mir || peer)) mir tenant with
    | none => (old, false)
    | some s => (((s.zeroPage g cmp side).pageLate p g).tally p 3, true)

/-- Read a page back from its slot of the backing area (R144): MASTER-SOLE, migratory; the slot is free again. False when it must
wait. -/
def State.readBack (s : State) (x p g leaf slot : Nat) : State × Bool :=
  match s.entryAt g 2 0 with
  | none => (s, false)
  | some e => match s.backing g e.owner, s.takeFrame p g e.owner leaf x (if e.mirror then 2 else 1) with
    | some (b, base, _), (s, some f) =>
      let old := s
      let age := (s.pkgD p).lastAge g
      let from_ := hostAddr b (base + slot * 65536)
      let s := { s with gmem := splice s.gmem (g * 65536) 65536 (cut s.hmem from_ 65536 (g * 65536)) }
      let s := ((s.copyPoison g 4096 p).dropPoison g 4096).fillFrame p f { FrameTag.init with
        gpn := g, state := fsSole, mode := bitOf e.mirror, owner := e.owner, mirror := e.mirror, age := age, charge := leaf }
      let s := s.setSlot b base slot false
      let s := s.mapEntries g (fun _ e => some { e with backed := false, bkslot := 0 })
      match s.relist g (bitOf e.mirror) e.mirror e.owner with
      | some s => (s, true)
      | none => (old, false)
    | _, (s, _) => (s, false)

/-- CLIMBING_MISS (R144). -/
def execClimbingMiss (x : Nat) (s : State) : Out := .next (
  match s.item? x with
  | some (.page r) =>
    let here := if r.mtype = 3 then r.peer else r.pkg
    let st := (s.pkgD here).pageState r.page
    if r.stage ≠ 0 then s
    else if s.pageReady r.pkg r.mtype r.peer r.page r.write || (s.item? r.who).isNone || !s.alive here then s.dropItem x
    else if st = 4 || st = 5 || st = 6 then s.later (.climbingMiss x)
    else if st ≠ 0 then (s.setItem x (.page { r with stage := 2 })).later (.upgrade x)
    else
      let (s, c, l) := s.climb x here r.page 3 0
      let s := s.countClimb x here r l
      let r := { r with missed := true, climbed := max r.climbed (min l 2) }
      match c with
      | .wait (some n) => s.waitNode x r.page n (.climbingMiss x)
      | .wait none => s.later (.climbingMiss x)
      | .lost => s.dropItem x
      | .turn level child =>
        if r.write || r.mtype = 3 then (s.setItem x (.page { r with stage := 2, waitAt := none })).later (.upgrade x)
        else s.fetchPage x r level child
      | .backed slot =>
        let (s, ok) := s.readBack x here r.page r.leaf slot
        if ok then s.dropItem x else (s.noWait x).later (.climbingMiss x)
      | .nothing =>
        let (touch, mirror) := s.effTouch r.pkg r.leaf
        if touch || r.force then
          let (s, ok) := s.firstTouch x here r.page r.tenant r.leaf r.cmp r.side mirror (decide (r.mtype = 3))
          if ok then s.dropItem x else s.later (.climbingMiss x)
        else (s.dropItem x).pageFault r.who r.va r.dir
  | _ => s)

/-- PAGE_MOVE_DONE (R144, R145): the last line has arrived; the frame is a REPLICA, and the entries are released. -/
def execPageMoveDone (x : Nat) (s : State) : Out := .next (
  match s.item? x with
  | some (.page r) =>
    if r.stage ≠ 1 then s
    else
      let m := (s.firstMaster r.page).getD r.from_
      let t := s.tagOf m r.page
      let s' := ((s.copyPoison r.page r.from_ r.pkg).modTag r.pkg r.page (fun t => { t with state := fsReplica })).modTag m r.page
        (fun t => { t with state := if t.state = fsSole then fsShared else t.state })
      match s'.relist r.page t.mode t.mirror t.owner with
      | none => s.later (.pageMoveDone x)
      | some s => (((s.unlock x r.page).pageLate r.pkg r.page).tally r.pkg 4).dropItem x
  | _ => s)

/-! ## Upgrades (R146) and memory-side mode (R148) -/

/-- The lowest node whose subtree holds the requester and every holder (R143, R410): its level. -/
def orderLevel (p : Nat) (hs : List Nat) : Nat :=
  if hs.all (fun q => decide (q / 16 = p / 16)) then 0 else if hs.all (fun q => decide (q / 256 = p / 256)) then 1 else 2

/-- The master takes memory-side mode (R148): replicas are invalidated, the mode stands in its frame and in the entries. -/
def State.switchMode (s : State) (m g : Nat) : State :=
  let s := ((s.holdersOf g).filter (fun q => decide ((s.pkgD q).pageState g = fsReplica))).foldl (fun s q => s.freeCopy q g) s
  let s := (s.modTag m g (fun t => { t with state := fsSole, mode := 1, solew := 0 })).tally m 7
  s.relistHeld g 1 (s.tagOf m g).mirror

/-- An injection ends without its page leaving: its locks are returned, and the frame that was to receive it is free (R143, R155). -/
def State.endInjection (s : State) (y : Nat) (j : Injection) : State :=
  let s := (s.unlock y j.page).dropItem y
  match j.target with
  | some (q, f) => if ((s.pkgD q).frame f).state = fsFilling then s.clearFrame q f else s
  | none => s
/-- An upgrade ends an injection of the same master (R155). -/
def State.cancelInjection (s : State) (m g : Nat) : State :=
  s.injs.foldl (fun s (y, j) => if j.pkg = m && j.page = g then (State.endInjection s y j).tally m 14 else s) s

/-- The directory invalidates the replicas of some packages, for a request of package p (R146). -/
def State.invalidate (s : State) (g p : Nat) (others : List Nat) : State :=
  others.foldl (fun s q => (State.sendMsg s p q 2 .invalidate g 0 0).freeCopy q g) s

/-- The requester's frame for an upgrade: the one it holds, or a new one. -/
def State.upgradeFrame (s : State) (x p g owner leaf : Nat) : State × Bool :=
  match (s.pkgD p).frameOf g with
  | some f => (s.modPkg p (fun q => q.modFrame f (fun t => { t with state := fsUpgrading })), true)
  | none => match s.takeFrame p g owner leaf x 1 with
    | (s, none) => (s, false)
    | (s, some f) =>
      let age := (s.pkgD p).lastAge g
      (s.fillFrame p f { FrameTag.init with gpn := g, state := fsUpgrading, owner := owner, age := age, charge := leaf }, true)

/-- The nodes that an upgrade holds, and its wait for them (R143, R410). -/
def State.upgradeNodes (s : State) (p g : Nat) : List (Nat × Nat) :=
  let hs := s.holdersOf g
  pathNodes (orderLevel p hs) (p :: hs)
/-- The nodes it meets: it climbs to the pod node and descends from there (R410). -/
def State.upgradeWay (s : State) (p g : Nat) : List (Nat × Nat) := (pathNodes 2 [p] ++ s.upgradeNodes p g).eraseDups
/-- An upgrade that reaches another package's master counts in its RWR, once (R146). -/
def State.countUpgrade (s : State) (x : Nat) (r : PageReq) (m p : Nat) : State × PageReq :=
  if m = p || r.counted then (s, r)
  else
    let r := { r with counted := true }
    ((s.modTag m r.page (fun t => { t with rwr := min 255 (t.rwr + 1) })).setItem x (.page r), r)

/-- A request of a master for itself: the switch to memory-side mode, at the ordering node of its holders (R148), or the second master of a
mirrored page (R157). -/
def State.ownRequest (s : State) (x : Nat) (r : PageReq) : State :=
  match s.firstMaster r.page with
  | none => s.dropItem x
  | some m =>
    if r.stage = 5 then
      if !(s.tagOf m r.page).mirror || (s.secondMaster r.page).isSome then s.dropItem x
      else
        let s' := s.placeSecond m r.page
        if (s'.secondMaster r.page).isSome then
          match s'.relist r.page 1 true (s.tagOf m r.page).owner with
          | some s => s.dropItem x
          | none => s.later (.upgrade x)
        else s'.later (.upgrade x)
    else
      let hs := s.holdersOf r.page
      match s.busyNode x r.page (pathNodes (orderLevel m hs) (m :: hs)) with
      | some n => s.waitNode x r.page n (.upgrade x)
      | none =>
        if (s.tagOf m r.page).mode = 0 && decide (isMasterState (s.tagOf m r.page).state) && hs.any (fun q => decide (q ≠ m)) then
          ((s.noWait x).switchMode m r.page).dropItem x
        else s.dropItem x

/-- UPGRADE (R146, R148): the request serialises at its ordering node, the other replicas are invalidated, the master yields. -/
def execUpgrade (x : Nat) (s : State) : Out := .next (
  match s.item? x with
  | some (.page r) =>
    let p := if r.mtype = 3 then r.peer else r.pkg
    if 4 ≤ r.stage then s.ownRequest x r
    else if r.stage ≠ 2 then s
    else if s.pageReady r.pkg r.mtype r.peer r.page r.write || (s.item? r.who).isNone || !s.alive p then s.dropItem x
    else match s.firstMaster r.page with
      | none => (s.setItem x (.page { r with stage := 0 })).later (.climbingMiss x)
      | some m =>
        let hs := s.holdersOf r.page
        let ns := s.upgradeNodes p r.page
        match s.busyNode x r.page (s.upgradeWay p r.page) with
        | some n => s.waitNode x r.page n (.upgrade x)
        | none =>
          let s := s.noWait x
          let (s, r) := s.countUpgrade x { r with waitAt := none } m p
          let mt := s.tagOf m r.page
          let others := hs.filter (fun q => decide (q ≠ p ∧ q ≠ m))
          if mt.state = fsYielding then s.later (.upgrade x)
          else if m ≠ p && decide (32 < mt.rwr) && hs.any (fun q => decide (q ≠ m)) && r.mtype ≠ 3 then (s.switchMode m r.page).dropItem x
          else if m = p then
            let s := s.cancelInjection m r.page
            let s := s.invalidate r.page p others
            let s := s.modTag p r.page (fun t => { t with state := fsSole })
            (((s.relistHeld r.page mt.mode mt.mirror).pageLate p r.page).tally p 6).dropItem x
          else if mt.mode = 1 && r.mtype ≠ 3 then
            if (s.pkgD p).pageState r.page = fsFilling then s.later (.upgrade x) else s.dropItem x
          else
            match s.upgradeFrame x p r.page mt.owner r.leaf with
            | (s, false) => s.later (.upgrade x)
            | (s, true) =>
              let s := s.cancelInjection m r.page
              let s := s.invalidate r.page p others
              let s := s.modTag m r.page (fun t => { t with state := fsYielding })
              let s := s.lockNodes x r.page 2 ns
              let s := if p ∈ hs then s else s.sendPage m p 1 r.page
              let s := s.sendMsg m p 1 .mark r.page 0 0
              (s.setItem x (.page { r with stage := 3, from_ := m, frame := bitOf (decide (p ∈ hs)) })).later (.markArrival x)
  | _ => s)

/-- MARK_ARRIVAL (R146, R411): the requester is MASTER-SOLE with the OWNER and MIRROR the mark carries; the YIELDING frame becomes
INVALID, and the entries record the new holder. -/
def execMarkArrival (x : Nat) (s : State) : Out := .next (
  match s.item? x with
  | some (.page r) =>
    let p := if r.mtype = 3 then r.peer else r.pkg
    if r.stage ≠ 3 then s
    else
      let t := s.tagOf r.from_ r.page
      let peer := decide (r.mtype = 3)
      let s' := ((if r.frame = 1 then s else s.copyPoison r.page r.from_ p).freeCopy r.from_ r.page).modTag p r.page (fun u => { u with
        state := fsSole, owner := t.owner, mirror := t.mirror, mode := bitOf peer, peer := peer })
      match s'.relist r.page (bitOf peer) t.mirror t.owner with
      | none => s.later (.markArrival x)
      | some s => (((s.unlock x r.page).pageLate p r.page).tally p 6).dropItem x
  | _ => s)

/-! ## Windows (R140, R149, R154) -/

/-- The memory-side rule of a master at a window end (R149). -/
def FrameTag.windowMode (t : FrameTag) : FrameTag :=
  if t.mode = 0 || t.peer || t.mirror then t
  else if !t.wrote then t
  else if t.multiwr then { t with solew := 0, prevwr := t.lastwr }
  else { t with solew := if t.prevwr = t.lastwr then t.solew + 1 else 1, prevwr := t.lastwr }
/-- The counts of a window are cleared (R140). -/
def FrameTag.windowClear (t : FrameTag) : FrameTag :=
  { t with rrd := 0, rwr := 0, ord := 0, owr := 0, multiwr := false, lastwr := 0, wrote := false }
/-- The tag has counted something in the window. -/
def FrameTag.counted (t : FrameTag) : Bool := decide (t.rrd ≠ 0 ∨ t.rwr ≠ 0 ∨ t.ord ≠ 0 ∨ t.owr ≠ 0) || t.wrote

/-- One frame at a window end. -/
def State.windowFrame (s : State) (p f : Nat) : State :=
  let t := (s.pkgD p).frame f
  if t.state = 0 then s
  else
    let s := if t.counted then
        let old := cut s.lmeta (t.gpn * 512) 512 (t.gpn * 512)
        let new := old.foldl (fun l (n, m) => SMap.set l LineMeta.init n { m with act := m.act / 2 }) s.lmeta
        { s with lmeta := new }
      else s
    let u := t.windowMode
    let s := s.modPkg p (fun q => q.setFrame f u.windowClear)
    if u.mode = 1 && decide (4 ≤ u.solew) && isMasterState t.state && !u.peer && !u.mirror then
      let s := (s.modPkg p (fun q => q.modFrame f (fun t => { t with mode := 0, solew := 0 }))).tally p 8
      s.relistHeld t.gpn 0 t.mirror
    else s

/-- A page in a reserve way moves to an INVALID ordinary way of its set (R154). -/
def State.reserveMove (s : State) (p f : Nat) : State :=
  let k := s.pkgD p
  let t := k.frame f
  if f % 16 ≠ 15 || decide (f / 16 % 4 ≠ 0) || !(decide (t.state = 2) || decide (t.state = 3)) then s
  else match (ordinaryWays (pageSet t.gpn)).find? (fun w => decide ((k.frame (pageSet t.gpn * 16 + w)).state = 0)) with
    | none => s
    | some w =>
      let k := (k.setFrame (pageSet t.gpn * 16 + w) { t with age := k.lastAge t.gpn }).setFrame f FrameTag.init
      (s.modPkg p (fun _ => k)).count p (5, 20) 0 64

/-- WINDOW_END (R140): every frame of the package, the injections it has accepted, the chains that wait for a window (R152), second
masters that mirrored pages still lack (R157). -/
def execWindowEnd (p : Nat) (s : State) : Out := .next (
  let fs := (s.pkgD p).frames.map (·.1)
  let s := fs.foldl (fun s f => s.windowFrame p f) s
  let s := fs.foldl (fun s f => s.reserveMove p f) s
  let s := s.modPkg p (fun q => { q with injected := 0 })
  let s := s.injs.foldl (fun s (y, j) =>
    if j.pkg = p && j.exhausted then (s.setItem y (.inj { j with exhausted := false, level := 0, cands := [], refused := 0 })).later
      (.injectionOffer y) else s) s
  fs.foldl (fun s f =>
    let t := (s.pkgD p).frame f
    if t.state = fsSole && t.mirror && !t.second then s.secondDue p t.gpn else s) s)

end Sys2Proof.Machine
end

