-- ==== Sys2Proof/Machine/Inject.lean ====
section
/-! DEFINITION. Injection of masters (R152, R153, R155), the loss of a package and the release of a LOST page (R157, R158). -/

namespace Sys2Proof.Machine

/-! ## Candidates (R152, R159) -/

/-- A bay may take the page: for a mirrored page only where the other master is not. -/
def State.bayAdmits (s : State) (j : Injection) (p : Nat) : Bool :=
  let m := [s.firstMaster j.page, s.secondMaster j.page].filterMap id
  m.all (fun q => decide (q = j.pkg) || decide (q / 16 ≠ p / 16))

/-- Up to three candidates of the evictor's bay: replica holders first, each group by distance. -/
def State.bayCands (s : State) (j : Injection) : List Nat :=
  let all := ((List.range 15).map (fun i => j.pkg / 16 * 16 + (j.pkg + 1 + i) % 16)).filter (fun q => s.alive q && s.bayAdmits j q)
  let rep (q : Nat) : Bool := decide ((s.pkgD q).pageState j.page = fsReplica)
  (all.filter rep ++ all.filter (fun q => !rep q)).take 3

/-- The packages whose reserve ways the row node or the pod node offers the page to, in order. -/
def State.reserveCands (s : State) (j : Injection) : List Nat :=
  let row := j.pkg / 256
  let bay := j.pkg / 16 % 16
  let l := if j.level = 1 then
      (List.range 16).flatMap (fun b => (List.range 16).map (fun i => row * 256 + (bay + 1 + b) % 16 * 16 + i))
    else
      (List.range 15).flatMap (fun r => (List.range 256).map (fun i => (row + 1 + r) % 16 * 256 + i))
  l.filter (fun q => decide (q ≠ j.pkg) && s.alive q && s.bayAdmits j q)

/-- The reserve way of a page's quad. -/
def reserveFrame (g : Nat) : Nat := pageSet g / 4 * 4 * 16 + 15

/-- The state a master takes: SOLE without replicas, made or on the way, else SHARED (R145, R411). -/
def State.masterState (s : State) (g : Nat) : Nat :=
  if (s.holdersOf g).any (fun q => decide ((s.pkgD q).pageState g = fsReplica)) ||
      s.pageReqs.any (fun (_, r) => decide (r.page = g) && decide (r.stage = 1)) then fsShared else fsSole
/-- The frame of a package becomes the page's master, with what a lost or yielding master's tag says of the page (R146, R152). -/
def State.makeMaster (s : State) (p g : Nat) (t : FrameTag) : State :=
  let s := s.modTag p g (fun u => { u with state := fsSole })
  s.modTag p g (fun u => { u with state := s.masterState g, owner := t.owner, mirror := t.mirror, mode := t.mode, second := t.second })

/-- The mark moves from the evictor to a frame that holds the page (R152, R411). -/
def State.moveMark (s : State) (x from_ dest g : Nat) : Option State :=
  let t := s.tagOf from_ g
  ((((s.freeCopy from_ g).makeMaster dest g t).relist g t.mode t.mirror t.owner)).map (fun s => s.unlock x g)

/-- An offer is refused, or accepted into a frame of the receiver: an INVALID ordinary way, or that of its oldest REPLICA. -/
def State.offerFrame (s : State) (q g : Nat) : State × Option Nat :=
  let k := s.pkgD q
  let fs := (ordinaryWays (pageSet g)).map (fun w => pageSet g * 16 + w)
  match fs.find? (fun f => decide ((k.frame f).state = 0)) with
  | some f => (s, some f)
  | none => match k.victim (fs.filter (fun f => decide ((k.frame f).state = 1))) with
    | some f => (s.dropReplica q (k.frame f).gpn, some f)
    | none => (s, none)

/-- The receiver has accepted an injection in this window (R152). -/
def State.countInjected (s : State) (q : Nat) : State := s.modPkg q (fun k => { k with injected := k.injected + 1 })
/-- The receiver takes the page into a frame: it fills, and the confirmation follows. -/
def State.acceptInto (s : State) (x : Nat) (j : Injection) (q f : Nat) : State :=
  let t := (s.pkgD j.pkg).frame j.frame
  let age := (s.pkgD q).lastAge j.page
  let s := (s.countInjected q).fillFrame q f { FrameTag.init with
    gpn := j.page, state := fsFilling, owner := t.owner, mirror := t.mirror, age := age, charge := t.charge }
  let s := s.sendPage j.pkg q 3 j.page
  (s.setItem x (.inj { j with target := some (q, f) })).later (.injectionConfirm x)

/-- The nodes below the ordering node of an offer, on the paths to the evictor and to a package that takes the page: their entries are
set on the way down, or the offer waits at the first that is not STABLE (R143). -/
def State.lockBelow (s : State) (x : Nat) (j : Injection) (qs : List Nat) : State × Bool :=
  let ns := if j.level = 0 then [] else (pathNodes (min j.level 2 - 1) (j.pkg :: qs)).filter (fun n => !s.ownLock x j.page n)
  match s.busyNode x j.page ns with
  | some n => ((s.setItem x (.inj j)).waitNode x j.page n (.injectionOffer x), false)
  | none => ((s.noWait x).lockNodes x j.page 3 ns, true)

/-- The chain goes on at the next level: its node's entry is released. -/
def State.injectNext (s : State) (x : Nat) (j : Injection) : State :=
  let s := s.unlock x j.page
  let s := if j.level = 0 then s.tally j.pkg 11 else if j.level = 1 then s.tally j.pkg 12 else s
  (s.setItem x (.inj { j with level := j.level + 1, cands := [], locked := false })).later (.injectionOffer x)

/-- The pod node's entry of a page is there, or is installed; none when the install must wait (R156). -/
def State.podEntry (s : State) (g : Nat) (t : FrameTag) : Option State :=
  if (s.entryAt g 2 0).isSome then some s
  else (s.nodeHost g 2 0).bind (fun h => s.installEntry h (s.freshEntry g 2 0 t.mode t.mirror t.owner))

/-- The page of an injection is written to a slot of the backing area: no package holds it any more (R152, R153). -/
def State.backPage (s : State) (j : Injection) (b base i : Nat) (mirror : Bool) : State :=
  let s := (s.holdersOf j.page).foldl (fun s q => s.freeCopy q j.page) (s.copyPoison j.page j.pkg 4096)
  let slotAt := hostAddr b (base + i * 65536)
  let s := { s with hmem := splice s.hmem slotAt 65536 (cut s.gmem (j.page * 65536) 65536 slotAt),
                    gmem := splice s.gmem (j.page * 65536) 65536 [] }
  let s := (s.setSlot b base i true).mapEntries j.page (fun _ e =>
    if e.level = 2 then some { e with backed := true, bkslot := i } else some e)
  (s.relistHeld j.page 0 mirror).tally j.pkg 13

/-- The pod node writes the page to the lowest free slot of the backing area, or the tenant's condition is raised (R152, R153). It waits
for the entries on the paths to the page's replicas, which are invalidated. -/
def State.injectHost (s : State) (x : Nat) (j : Injection) : State :=
  let t := (s.pkgD j.pkg).frame j.frame
  match (s.backing j.page t.owner).bind (fun (b, base, n) => (s.freeSlot b base n).map (fun i => (b, base, i))) with
  | some (b, base, i) =>
    match s.busyNode x j.page ((pathNodes 2 (s.holdersOf j.page)).filter (fun (l, _) => decide (l ≠ 2))), s.podEntry j.page t with
    | none, some s => ((s.backPage j b base i t.mirror).unlock x j.page).dropItem x
    | _, _ => (s.setItem x (.inj j)).later (.injectionOffer x)
  | none =>
    let s := s.signalTenant j.pkg t.owner 26 16
    let s := (s.modPkg j.pkg (fun k => { k with capexh := insertNat k.capexh t.owner })).tally j.pkg 15
    (s.unlock x j.page).setItem x (.inj { j with level := 0, cands := [], locked := false, refused := 0, exhausted := true })

/-- A candidate can accept: it is present, has accepted fewer than 256 injections in the window, and the other master allows its bay. -/
def State.mayAccept (s : State) (j : Injection) (q : Nat) : Bool :=
  s.alive q && s.bayAdmits j q && decide ((s.pkgD q).injected < 256)
/-- A candidate that holds a replica. -/
def State.takesMark (s : State) (j : Injection) (q : Nat) : Bool :=
  s.mayAccept j q && decide ((s.pkgD q).pageState j.page = fsReplica)

/-- A candidate with a replica takes the mark, and no data moves (R152). -/
def State.injectMark (s : State) (x : Nat) (j : Injection) (q : Nat) : State :=
  match s.lockBelow x j [q] with
  | (s, false) => s
  | (s, true) =>
  match ((s.countInjected q).sendMsg j.pkg q 3 .injection j.page 0 0).moveMark x j.pkg q j.page with
  | some s => s.dropItem x
  | none => (s.setItem x (.inj j)).later (.injectionOffer x)

/-- One offer of the bay node, to its next candidate (R152). -/
def State.offerBay (s : State) (x : Nat) (j : Injection) : State :=
  match j.cands with
  | [] => s.injectNext x j
  | q :: rest =>
    if s.takesMark j q then s.injectMark x j q
    else match (if s.mayAccept j q && decide ((s.pkgD q).pageState j.page = 0) then s.offerFrame q j.page else (s, none)) with
      | (s, some f) => s.acceptInto x j q f
      | (s, none) => ((s.tally q 10).setItem x (.inj { j with cands := rest, refused := j.refused + 1 })).later (.injectionOffer x)

/-- The offers of the row node or the pod node, to the reserve ways (R152). -/
def State.offerReserve (s : State) (x : Nat) (j : Injection) : State :=
  let f := reserveFrame j.page
  match j.cands.find? (fun q => s.takesMark j q ||
      (s.mayAccept j q && decide ((s.pkgD q).pageState j.page = 0) && decide (((s.pkgD q).frame f).state = 0))) with
  | some q =>
    if s.takesMark j q then s.injectMark x j q
    else match s.lockBelow x j [q] with
      | (s, true) => s.acceptInto x j q f
      | (s, false) => s
  | none => s.injectNext x j

/-- INJECTION_OFFER (R143, R152, R155): the node of its level is locked, and the nodes below it on the way to the evictor; a reader of the INJECTING frame is the first candidate. -/
def execInjectionOffer (x : Nat) (s : State) : Out := .next (
  match s.item? x with
  | some (.inj j) =>
    let t := (s.pkgD j.pkg).frame j.frame
    if j.exhausted || j.target.isSome then s
    else if t.state ≠ fsInjecting || t.gpn ≠ j.page then (s.unlock x j.page).dropItem x
    else
      let lv := min j.level 2
      let n := (lv, prefixAt lv j.pkg)
      if !j.locked && s.nodeTaken x j.page n then s.waitNode x j.page n (.injectionOffer x)
      else
        let s := if j.locked then s else s.lockNodes x j.page 3 [n]
        let cands := if j.locked then j.cands else if j.level = 0 then s.bayCands j else s.reserveCands j
        let j := { j with locked := true, cands := cands, waitAt := none }
        match (if 3 ≤ j.level then (s, true) else s.lockBelow x j []), j.readers.find? (s.takesMark j) with
        | (s, false), _ => s
        | (s, true), some q => s.injectMark x j q
        | (s, true), none =>
          if 3 ≤ j.level then s.injectHost x j
          else if j.level = 0 then s.offerBay x j
          else s.offerReserve x j
  | _ => s)

/-- INJECTION_CONFIRM (R152): every line has arrived; the receiver's frame is the master and the INJECTING frame becomes INVALID. -/
def execInjectionConfirm (x : Nat) (s : State) : Out := .next (
  match s.item? x with
  | some (.inj j) => match j.target with
    | none => s
    | some (q, _) => match (s.copyPoison j.page j.pkg q).moveMark x j.pkg q j.page with
      | some s => s.dropItem x
      | none => s.later (.injectionConfirm x)
  | _ => s)

/-! ## Loss of a package (R157) -/

/-- The surviving replica nearest to a package: by the lowest common level, then the least distance of the child, then the lowest
number (R144, R157). -/
def nearestTo (p : Nat) (hs : List Nat) : Option Nat :=
  (List.range 3).findSome? (fun l =>
    let near := hs.filter (fun q => decide (prefixAt l q = prefixAt l p))
    (nextOf16 (childAt l p + 1) (fun c => near.any (fun q => decide (childAt l q = c)))).bind
      (fun c => near.find? (fun q => decide (childAt l q = c))))

/-- A page without any copy is LOST (R157, R158): at every node that has an entry for it, and at the pod node. -/
def State.markLost (s : State) (g owner : Nat) : State :=
  match s.nodeHost g 2 0 with
  | none => s
  | some host =>
    let lost (e : DirEntry) : DirEntry := { e with dstate := 5, lock := 0, pres := 0, mchild := 0, mchild2 := 0, backed := false, bkslot := 0 }
    let s := s.mapEntries g (fun _ e => some (lost e))
    let s := if ((s.dirOf host g).entry? g 2).isSome then s
      else (s.installEntry host (lost (s.freshEntry g 2 0 0 false owner))).getD s
    s.tally host 19

/-- What the loss of package q does to a page of which it held a frame with tag t. -/
def State.losePage (s : State) (q : Nat) (t : FrameTag) : State :=
  let g := t.gpn
  if !isMasterState t.state then s.relistForce g t.mode t.mirror t.owner
  else match (s.firstMaster g).orElse (fun _ => s.secondMaster g) with
    | some m =>
      let s := s.modTag m g (fun u => { u with second := false })
      let s := if t.mirror then (s.placeSecond m g).secondDue m g else s
      s.relistForce g t.mode t.mirror t.owner
    | none => match nearestTo q (s.holdersOf g) with
      | some p => ((s.makeMaster p g { t with second := false }).tally p 18).relistForce g t.mode t.mirror t.owner
      | none => s.markLost g t.owner

/-- A package's frame of a page becomes INVALID. -/
def State.clearPage (s : State) (p g : Nat) : State :=
  match (s.pkgD p).frameOf g with | some f => s.clearFrame p f | none => s

/-- Operations of pages that the loss interrupts (R157): of a lost giver as a lost master, of a lost receiver the giver keeps the
page; of one page only where one is named (R292). -/
def State.loseOps (s : State) (q : Nat) (only : Option Nat) : State :=
  let s := s.pageReqs.foldl (fun s (x, r) =>
    let p := if r.mtype = 3 then r.peer else r.pkg
    if only.any (fun g => decide (g ≠ r.page)) then s
    else if r.stage = 1 && (r.from_ = q || p = q) then
      ((if p = q then s else s.clearPage p r.page).unlock x r.page).dropItem x
    else if r.stage = 3 && (r.from_ = q || p = q) then
      let s := if p = q then s.modTag r.from_ r.page (fun t => { t with state := fsSole })
        else if r.frame = 1 then s.modTag p r.page (fun t => { t with state := fsReplica })
        else s.clearPage p r.page
      (s.unlock x r.page).dropItem x
    else if r.pkg = q then s.dropItem x else s) s
  s.injs.foldl (fun s (x, j) =>
    if only.any (fun g => decide (g ≠ j.page)) then s
    else match j.target with
    | some (p, f) =>
      if p = q then
        ((s.unlock x j.page).modTag j.pkg j.page (fun t => { t with state := s.masterState j.page })).dropItem x
      else if j.pkg = q then ((s.unlock x j.page).clearFrame p f).dropItem x else s
    | none => if j.pkg = q then (s.unlock x j.page).dropItem x else s) s

/-- What runs on a lost package is gone with it. -/
def State.loseWork (s : State) (q : Nat) : State :=
  { s with
    groups := s.groups.filter (fun ((_, g) : Nat × Group) => decide (g.pkg ≠ q)),
    items := s.items.filter (fun ((_, i) : Nat × Item) => match i with
      | .access a => decide (a.pkg ≠ q)
      | .op o => decide (o.pkg ≠ q)
      | .wb w => decide (w.pkg ≠ q)
      | .walk w => decide (w.pkg ≠ q)
      | .carry c => decide (c.pkg ≠ q)
      | _ => true) }

/-! ### Nodes that move (R141, R157) -/

/-- EVC as the frames report it: the pages of a directory set of a host whose only holder has the UNLISTED bit of their node (R156). -/
def State.evcCount (s : State) (host d : Nat) : Nat :=
  (s.pkgs.flatMap (fun ((p, k) : Nat × Pkg) => k.frames.flatMap (fun ((_, t) : Nat × FrameTag) => (List.range 3).filter (fun l =>
    decide (t.state ≠ 0) && t.unlisted.testBit l && decide (dsetOf t.gpn = d) &&
      decide (s.nodeHost t.gpn l (prefixAt l p) = some host))))).length
/-- EVC of a set after a rebuild, or after the reset of a domain (R156, R157). -/
def State.recount (s : State) (host d : Nat) : State :=
  let n := min 65535 (s.evcCount host d)
  s.modPkg host (fun q => { q with dirs := SMap.set q.dirs DirSet.init d { q.dirSet d with evc := n, owners := [] } })

/-- Entries that stand at a package which is no longer the host of their node, each with the package. -/
def State.strayEntries (s : State) : List (Nat × DirEntry) :=
  s.pkgs.flatMap (fun ((q, p) : Nat × Pkg) => p.dirs.flatMap (fun ((_, d) : Nat × DirSet) => d.entries.filterMap (fun e =>
    match e with
    | some e => if s.nodeHost e.gpn e.level (prefixAt e.level q) = some q then none else some (q, e)
    | none => none)))
/-- The pages that some frame holds. -/
def State.heldPages (s : State) : List Nat :=
  (s.pkgs.flatMap (fun ((_, p) : Nat × Pkg) => p.frames.map (fun ((_, t) : Nat × FrameTag) => t.gpn))).foldl insertNat []
/-- The nodes of the held pages whose host is another than before: page, level, prefix. -/
def State.movedNodes (s0 s : State) : List (Nat × Nat × Nat) :=
  s.heldPages.flatMap (fun g => ((List.range 3).flatMap (fun l =>
    (((s.holdersOf g).map (prefixAt l)).eraseDups.filter (fun pre => decide (s0.nodeHost g l pre ≠ s.nodeHost g l pre))).map
      (fun pre => (g, l, pre)))))

/-- Nodes have other hosts than before (R141, R157): entries that still stand go to the new host, the survivors report their frames for
every node that moved, and the sets concerned are counted again. An entry that finds no room waits where it stands (R156). -/
def State.rehost (s0 s : State) : State :=
  let s := s.strayEntries.foldl (fun s (q, e) => (State.adoptEntry s q e).getD s) s
  let moved := State.movedNodes s0 s
  let s := moved.foldl (fun s (g, l, pre) => ((State.holdersOf s g).filter (fun p => decide (prefixAt l p = pre))).foldl
    (fun s p => s.modTag p g (fun t => { t with unlisted := t.unlisted &&& (7 - 2 ^ l) })) s) s
  let s := ((moved.map (·.1)).eraseDups).foldl (fun s g => match (State.firstMaster s g).orElse (fun _ => (s.holdersOf g).head?) with
    | some m => let t := s.tagOf m g; s.relistForce g t.mode t.mirror t.owner
    | none => s) s
  moved.foldl (fun s (g, l, pre) => [State.nodeHost s0 g l pre, State.nodeHost s g l pre].foldl (fun s h => match h with
    | some h => State.recount s h (dsetOf g)
    | none => s) s) s

/-- The pages of which a package is the natural host at all three levels have this hash in GPN 19:0 (R141). -/
def ownHash (q : Nat) : Nat := q % 16 + q / 16 % 16 * 16 + q / 256 * 256
/-- The new hosts of a lost package's nodes each broadcast a probe (R157, R161). -/
def State.probeMoved (s : State) (q : Nat) : State :=
  (List.range 3).foldl (fun s l => match s.nodeHost (ownHash q) l (prefixAt l q) with
    | some h => s.tally h 17
    | none => s) s
/-- The locks of a directory: the item, the page, DSTATE and the node. -/
def State.locksAt (s : State) (q : Nat) : List (Nat × Nat × Nat × Nat) :=
  (s.pkgD q).dirs.flatMap (fun ((_, d) : Nat × DirSet) => d.entries.filterMap (fun e => match e with
    | some e => if e.dstate = 0 || e.dstate = 5 then none else some (e.lock, e.gpn, e.dstate, e.level)
    | none => none))

/-- A package is lost (R157): its work and frames are gone, its pages are promoted or LOST, and its nodes move to new hosts, which
list what the survivors report. The operations that go on hold their entries there too. -/
def State.losePackage (s : State) (q : Nat) : State :=
  if !s.alive q then s
  else
    let s0 := s
    let tags := (s.pkgD q).frames.map (·.2)
    let s := s.modPkg q (fun k => { k with lost := true, cores := [], slices := [], frames := [], dirs := [] })
    let s := (s.loseWork q).loseOps q none
    let s := tags.foldl (fun s t => if t.state = 0 then s else State.losePage (s.dropPoison t.gpn q) q t) s
    let orphans := s.pkgs.flatMap (fun (_, p) => p.dirs.flatMap (fun ((_, d) : Nat × DirSet) => d.entries.filterMap (fun e =>
      match e with
      | some e => if e.dstate ≠ 5 && !e.backed && (s.firstMaster e.gpn).isNone && (s.secondMaster e.gpn).isNone then some e else none
      | none => none)))
    let s := orphans.foldl (fun s e =>
      if (State.firstMaster s e.gpn).isSome || State.pageLost s e.gpn then s
      else s.losePage q { FrameTag.init with gpn := e.gpn, state := fsSole, owner := e.owner, mirror := e.mirror, mode := e.mode }) s
    let s := (State.rehost s0 s).probeMoved q
    (s0.locksAt q).foldl (fun s (x, g, ds, l) =>
      if (State.item? s x).isSome then s.lockNodes x g ds [(l, prefixAt l q)] else s) s

/-- The release of a LOST page (R158): the page has no holder afterwards. -/
def State.releasePage (s : State) (g : Nat) : State := s.mapEntries g (fun _ e => if e.dstate = 5 then none else some e)

end Sys2Proof.Machine
end

