-- ==== Sys2Proof/Machine/Preempt.lean ====
section
/-! DEFINITION. Pre-emption: the request and its victims (R58), the choice of a way (R71 to R73), the save (R75 to R77) and the flush
(R80); the end of a drain (R43, R65). -/

namespace Sys2Proof.Machine

/-! ## The way each victim leaves (R71, R73) -/

/-- Elapsed time of a group (R71, R79). -/
def State.elapsedOf (s : State) (g : Group) : Nat := g.elapsed + (s.now g.pkg - g.placedAt)

/-- A way with its time-to-free, none for unbounded, and its cost; 0 drain, 1 save, 2 flush. -/
structure Way where
  way : Nat
  time : Option Nat
  cost : Nat
  deriving DecidableEq, Repr

/-- The eligible ways of a group, in the order drain, save, flush. -/
def State.ways (s : State) (g : Group) (room : Bool) : List Way :=
  let el := s.elapsedOf g
  let drain := match s.launch? g.pkg g.launch with
    | some l => if l.meanCount = 0 then none else some (l.meanSum / l.meanCount - el)
    | none => none
  let save := 2000 + (g.contextSize + 399) / 400
  (if g.stop.isSome || g.stopped then [] else [⟨0, drain, drain.getD 0⟩]) ++ (if room then [⟨1, some save, save⟩] else []) ++
    (if g.lr.restart && !g.gstored then [⟨2, some 0, el⟩] else [])

/-- The choice of R73. -/
def chooseWay (bound : Nat) (ws : List Way) : Option Way :=
  let meets := ws.filter (fun w => match w.time with | some t => decide (t ≤ bound) | none => false)
  let least (lt : Way → Way → Bool) (l : List Way) : Option Way :=
    l.foldl (fun b w => match b with | none => some w | some v => if lt w v then some w else b) none
  match least (fun w v => decide (w.cost < v.cost)) meets with
  | some w => some w
  | none => least (fun w v => match w.time, v.time with
      | some a, some b => decide (a < b) | some _, none => true | none, _ => false) ws

/-! ## Save and flush (R75, R80) -/

/-- A save begins: the group issues nothing more, and its contexts have their room (R75, R77). -/
def State.startSave (s : State) (u : Nat) (g : Group) (room : List (Nat × Nat × Nat)) : State :=
  let s := (s.takeSaveRoom u g room).dropBundles u
  (s.modGroup u (fun g => { g with phase := .saving })).laterOnce (.saveDone u)

/-- The membership of every share ends (R43, R80). -/
def State.leaveRails (s : State) (u : Nat) (g : Group) : State :=
  (g.shares.zipIdx).foldl (fun s (h, j) => match h.rail with | some m => s.leaveRail g.pkg g.launch u j m | none => s) s

/-- Deferred faults of a group are withdrawn from their fault-queue entries: an entry still to be written counts fewer, or is not
written at all (R80). -/
def State.withdraw (s : State) (u : Nat) (g : Group) : State :=
  let ids := g.threads.flatMap (fun t => (t.log.filter (fun e => decide (e.lstate = 1))).map (·.faultId)) ++
    (s.walks.filter (fun (_, w) => decide (w.thr.uid = u) && decide (w.fault ≠ 0))).map (fun (_, w) => w.fault)
  ids.foldl (fun s id => s.detach g.pkg id) s

/-- A flush: the group is discarded at once and is unplaced again (R80). -/
def State.flush (s : State) (u : Nat) (g : Group) : State :=
  let s := ((s.dropBundles u).leaveRails u g).withdraw u g
  let s := (s.clearPrivate g.pkg u false).dropItemsOf u
  let s := g.shares.foldl (fun s h => s.releaseTiles g.pkg h.core u) s
  let s := s.holdFreed u g
  let el := s.elapsedOf g
  let s := { s with groups := SMap.del s.groups u }
  let s := s.modLaunch g.pkg g.launch (fun l =>
    { l.unplace g.clusters with flushedQ := insertNat l.flushedQ g.gidx, charged := l.charged + el })
  (s.writeUse g.pkg g.leaf).laterOnce (.groupHandOut g.pkg)

/-- A command that a save records for reissue (R75): a CPR whose ring has not formed, an MMA at a K-block boundary, suspended there or not
(R236), other matrix commands not started, and scans that a wait for a carry-in holds up. -/
def State.recorded (s : State) (o : Op) : Bool :=
  match o.kind with
  | .cpr => !o.formed
  | .mma => !o.cancelled
  | .mz | .mst | .mlda | .scacc => decide (o.st = .queued)
  | .scn | .scop => decide (o.st = .queued) && (s.carryWaiter o.pkg o.core o.thr.uid o.share).isSome
  | _ => false

/-- A replayed STREF that waits for a PUBLISHING header: it is not retired yet, and stands in the operand log (R82, R205). -/
def Access.waitsHeader (a : Access) : Bool := a.replay && a.hdr.isSome
/-- The dirty lines, other than private ones, that the cores of a saving group have written, each with the core whose L1 holds it, and
whether one of their write-backs is still on its way. -/
def State.writtenLines (s : State) (g : Group) : List (Nat × L1Line) :=
  (s.pkgD g.pkg).cores.flatMap (fun ((c, k) : Nat × Core) => k.l1.filterMap (fun l =>
    if l.dirty ≠ 0 && l.priv.isNone && l.by_.any (fun (d, _) => g.shares.any (fun h => decide (h.core = d))) then some (c, l) else none))
def State.writesUnderWay (s : State) (g : Group) : Bool :=
  s.wbs.any (fun (_, w) => decide (w.pkg = g.pkg) && w.tags.any (fun (d, _) => g.shares.any (fun h => decide (h.core = d))))

/-- The engines and accesses of a saving group have settled (R75). -/
def State.settled (s : State) (u : Nat) : Bool :=
  s.accesses.all (fun (_, a) => decide (a.thr.uid ≠ u) || decide (a.stage = .logged) || a.waitsHeader) &&
  s.ops.all (fun (_, o) => decide (o.thr.uid ≠ u) || decide (o.st = .done) || decide (o.kind = .pub) || s.recorded o)

/-- The recorded commands leave their queues; a matrix operation stops at its K-block boundary, in its MPRG (R75, R236). -/
def State.recordOps (s : State) (u : Nat) : State :=
  let mine := s.ops.filter (fun (_, o) => decide (o.thr.uid = u) && decide (o.st ≠ .done) && decide (o.kind ≠ .pub))
  mine.foldl (fun s (x, o) =>
    let s := (s.dropWalksOf x).dequeue x o
    let s := if o.kind = .mma && decide (o.st = .running) then s.setMprg o false false o.row else s
    s.modOp x (fun o => { o with st := .queued, started := false, off := 0, held := [] })) s

/-- The registries keep the entries of operations that are not DONE (R345). -/
def State.trimRegistry (s : State) (h : Share) : Share :=
  let live : SMap RegEnt := h.registry.filter (fun ((_, e) : Nat × RegEnt) => !s.opDone e.op)
  { h with registry := live, regGens := live.map (fun ((n, e) : Nat × RegEnt) => (n, e.gen)) }

/-- SAVE_DONE (R75): once the engines have settled and what the group wrote has reached its homes, so that no release of the restored
group misses it (R193, R196), the contexts are written, private lines go back, and every core resource is
released. -/
def execSaveDone (u : Nat) (s : State) : Out := .next (
  match s.group? u with
  | none => s
  | some g =>
    if g.phase ≠ .saving || g.frozen then s
    else if !s.settled u then s.later (.saveDone u)
    else if !(s.writtenLines g).isEmpty then
      ((s.writtenLines g).foldl (fun s (c, l) => (State.sendWB s g.pkg c l l.dirty).modCore g.pkg c (fun k => k.l1Set l.cleaned)) s).later (.saveDone u)
    else if s.writesUnderWay g then s.later (.saveDone u)
    else
      let p := g.pkg
      let s := { s with items := s.items.map (fun ((x, i) : Nat × Item) => match i with
        | .access a => (x, if a.thr.uid = u && a.waitsHeader then
            .access { a with stage := .logged, replay := false, hdr := none } else i)
        | _ => (x, i)) }
      let s := s.recordOps u
      let s := s.walks.foldl (fun s (x, w) =>
        if w.thr.uid = u && decide (3 ≤ w.kind) then s.dropItem x else s) s
      let s := { s with freeTick := s.freeTick + 1 }
      let tick := s.freeTick
      let s := s.modGroup u (fun g => { g with drawn := tick })
      let s := match s.group? u with | some g => s.writeContexts u g | none => s
      let s := s.clearPrivate p u true
      let s := (g.shares.zipIdx).foldl (fun s (h, j) =>
        let tiles := s.tilesFor u j g h
        s.modShare u j (fun h => { s.trimRegistry h with savedTiles := tiles, tiles := false, tilesDue := false })) s
      let el := s.elapsedOf g
      let s := s.holdFreed u g
      let s := s.modGroup u (fun g => { g with phase := .saved, elapsed := el, placedAt := s.now p })
      let s := g.shares.foldl (fun s h => s.releaseTiles p h.core u) s
      let s := s.modLaunch p g.launch (fun l => { l.unplace g.clusters with savedQ := l.savedQ ++ [u] })
      ((if g.stop.isSome then s.laterOnce (.groupStop u) else s).writeUse p g.leaf).laterOnce (.groupHandOut p))

/-! ## The request (R58, R74) -/

/-- The groups of a die that a request may name: of regions with strictly lower effective PRIO, not frozen; lowest priority first, then
most recently placed, then the later instance (R58; log entry 118). -/
def State.candidates (s : State) (p die prio : Nat) : List (Nat × Group) :=
  let on := (s.resident p).filter (fun (u, g) => !g.frozen && !s.isVictim p u && decide (s.effPrio p g.leaf < prio) &&
    g.shares.any (fun h => decide (dieOf h.core = die)))
  let before (a b : Nat × Group) : Bool :=
    let pa := s.effPrio p a.2.leaf
    let pb := s.effPrio p b.2.leaf
    decide (pa < pb ∨ (pa = pb ∧ (b.2.placedAt < a.2.placedAt ∨ (b.2.placedAt = a.2.placedAt ∧ b.1 < a.1))))
  on.foldl (fun l x => (l.filter (fun y => before y x)) ++ [x] ++ l.filter (fun y => !before y x)) []

/-- The fewest of them, in order, whose leaving makes room for a launch's next group. -/
def State.victimsOn (s : State) (p die launch prio : Nat) : Option (List (Nat × Group)) :=
  let cs := s.candidates p die prio
  ((List.range (cs.length + 1)).drop 1).findSome? (fun n =>
    let out := cs.take n
    let s' := { s with groups := s.groups.filter (fun ((u, _) : Nat × Group) => out.all (fun (v, _) => decide (v ≠ u))) }
    if (s'.findCores p die launch none).isSome then some out else none)

/-- One victim leaves by the way chosen for it, which a code 6 record names; a halted victim without another way is drained once it is
resumed (R73). -/
def State.dismiss (s : State) (u : Nat) (latus : Nat) : State :=
  match s.group? u with
  | none => s
  | some g =>
    if g.phase ≠ .running then s
    else
      let (s, room) := s.saveRoom g
      let note (s : State) (w : Nat) : State :=
        s.trace g.pkg g.leaf 6 ⟨g.lr.launchid, g.gidx, 0, false, g.die⟩ w latus
      match chooseWay (latus * 1000) (s.ways g room.isSome) with
      | none => s
      | some w => match w.way, room with
        | 1, some r => (note s 1).startSave u g r
        | 2, _ => (note s 2).flush u g
        | _, _ => note s 0

/-- A pre-emption request arises for a launch whose next group fits on no die: the die on which the fewest groups must leave, ties to
the lowest (R58; log entry 118). A launch has one request at a time, for its next group: once every victim has left and the group still
fits nowhere, another arises, and what the first has freed stays held. -/
def State.request (s : State) (p launch : Nat) (l : Launch) : State :=
  let held := (s.pkgD p).heldFor.filter (fun w => decide (w.launch = launch))
  if l.lr.latus = 0 || held.any (fun w => !w.victims.isEmpty) then s
  else
    let prio := s.effPrio p l.leaf
    let best := (List.range 8).foldl (fun (b : Option (Nat × List (Nat × Group))) d =>
      match s.victimsOn p d launch prio with
      | none => b
      | some vs => match b with
        | some (_, ws) => if vs.length < ws.length then some (d, vs) else b
        | none => some (d, vs)) none
    match best with
    | none => s
    | some (d, vs) =>
      let s := s.modPkg p (fun q => { q with
        heldFor := q.heldFor.filter (fun w => decide (w.launch ≠ launch)) ++
          [{ launch := launch, die := d, victims := vs.map (·.1), freed := held.flatMap (·.freed) }] })
      vs.foldl (fun s (u, _) => s.dismiss u l.lr.latus) s

/-! ## The end of a drain (R43, R65, R66, R418) -/

/-- A draining group still has an operation that its drain waits for (R43). -/
def State.drainBusy (s : State) (u : Nat) : Bool :=
  s.accesses.any (fun (_, a) => decide (a.thr.uid = u) && (a.kind.writes || decide (a.kind.cls = some .store))) ||
  s.ops.any (fun (_, o) => decide (o.thr.uid = u) && decide (o.st ≠ .done))

/-- The memberships of a draining group end, as by RLEAVE: each once its share's running rail SCNs are over (R250). -/
def State.drainRails (s : State) (u : Nat) (g : Group) : State :=
  (g.shares.zipIdx).foldl (fun s (h, j) => match h.rail with
    | some m => if State.railBusy s u j then s else s.leaveRail g.pkg g.launch u j m
    | none => s) s

/-- DRAIN_END (R43, R65, R66): private lines are discarded, group slot and scratchpad are free; the launch's counts advance, and the
freed cores are refilled. A frozen group stays (R70). -/
def execDrainEnd (u : Nat) (s : State) : Out := .next (
  match s.group? u with
  | none => s
  | some g =>
    if g.phase ≠ .draining || g.frozen then s
    else
    let s := s.drainRails u g
    if s.drainBusy u then s.later (.drainEnd u)
    else
      let p := g.pkg
      let victim := s.isVictim p u
      let s := (s.clearPrivate p u false).dropItemsOf u
      let s := g.shares.foldl (fun s h => s.releaseTiles p h.core u) s
      let el := s.elapsedOf g
      let s := s.trace p g.leaf 5 ⟨g.lr.launchid, g.gidx, 0, false, g.die⟩ 0 el
      let s := s.holdFreed u g
      let s := { s with groups := SMap.del s.groups u }
      let s := s.modLaunch p g.launch (fun l => { l with
        resident := l.resident - 1, done := l.done + 1, meanSum := l.meanSum + el, meanCount := l.meanCount + 1,
        finished := g.clusters.foldl (fun (m : SMap Nat) c => SMap.set m 0 c (SMap.get m 0 c + 1)) l.finished })
      let s := if victim then s
        else g.shares.foldl (fun s h => s.modDie p (dieOf h.core) (fun d => { d with refill := d.refill ++ [(h.core, g.launch)] })) s
      ((s.writeUse p g.leaf).reportClusters p g.launch g.clusters).laterOnce (.groupHandOut p))

end Sys2Proof.Machine
end

