-- ==== Sys2Proof/Machine/Sequence.lean ====
section
/-! DEFINITION. The launch sequencer: taking records (R50 to R53, R57), dependences (R57), completion (R55, R66 to R68), hand-out (R56,
R61, R65, R419) and child launches (R69, R357). -/

namespace Sys2Proof.Machine

/-! ## Dependences (R52, R57) -/

/-- A DEP or COMPL word as an address: bit 63 HOST, bits 55:5. -/
def recordAddr (w : Nat) : Nat := w / 2 ^ 63 * 2 ^ 63 + bitsOf w 55 5 * 32

/-- The STATUS that a record's valid dependences show now. -/
def State.depStatus (s : State) (p : Nat) (deps : List Nat) : State × List Nat :=
  deps.foldl (fun (s, out) w =>
    if w % 2 = 0 then (s, out)
    else let (s, bs) := State.recRead s p (recordAddr w) 8; (s, out ++ [(bs.headD 0).toNat])) (s, [])

/-- Look again at every queue this package serves, at every pending dependence, and at the hand-out. -/
def State.poke (s : State) (p : Nat) : State := (s.laterOnce (.dependenceRecheck p)).laterOnce (.groupHandOut p)

/-! ## Completion (R55, R67, R68) -/

/-- The demotion of a chain's lines, in the slices of every package: to the eviction end, untagged, counted at their slices (R68, R176). -/
def State.demoteChain (s : State) (tag : Nat) : State :=
  s.pkgs.foldl (fun s ((p, _) : Nat × Pkg) =>
    let hit := (s.pkgD p).slices.filter (fun l => decide (l.chain = tag))
    let s := s.modPkg p (fun q => { q with slices := q.slices.filter (fun l => decide (l.chain ≠ tag)) ++
                                                       hit.map (fun l => { l with chain := 0 }) })
    hit.foldl (fun s l => s.count p (2, 3) l.slice 1) s) s

/-- The 32 bytes of a completion record (R55). -/
def Launch.record (l : Launch) (status now : Nat) : List Byte :=
  let limit := if l.lr.groups = 0 || status = 3 then 0 else limitOf l.lr
  leBytes 8 (l.lr.launchid % 2 ^ 32 * 2 ^ 32 + limit * 2 ^ 24 + status) ++ leBytes 8 (l.tstart.getD now) ++ leBytes 8 now ++
    leBytes 8 (l.done % 2 ^ 25 * 2 ^ 39 + min 65535 l.peak * 2 ^ 23 + min 65535 l.preempts * 2 ^ 7)

/-- A launch leaves the sequencer with a status: its record, its message, its dependents, its chain's end (R55, R57, R67, R68). -/
def State.complete (s : State) (p l status : Nat) : State :=
  match s.launch? p l with
  | none => s
  | some x =>
    let c := x.lr.compl.toNat
    let s := if c = 0 then s
      else (s.recWrite p (recordAddr c) (x.record status (s.now p))).trace p x.leaf 3 ⟨x.lr.launchid, 0, 0, true, 8⟩ status x.done
    let s := if x.lr.irq then ((s.pkgD p).fnsOf x.tenant).foldl (fun s fn => s.signal p (.msix fn x.lr.vector)) s else s
    let s := if x.lr.chend && decide (x.lr.chain ≠ 0) && (decide (status = 1) || decide (status = 4)) then
        s.demoteChain (s.chainTag p x.leaf x.lr.chain) else s
    let s := s.modPkg p (fun q => { q.unhold l with launches := SMap.del q.launches l })
    (s.writeUse p x.leaf).poke p

/-- A launch whose dependences are looked at: it fails, goes on waiting, or is eligible; an empty grid completes (R53, R57). -/
def State.settleLaunch (s : State) (p l : Nat) : State :=
  match s.launch? p l with
  | none => s
  | some x =>
    let (s, st) := s.depStatus p x.lr.deps
    if st.any (fun v => decide (2 ≤ v)) then s.complete p l 4
    else if st.any (fun v => decide (v = 0)) then s
    else
      let s := s.modLaunch p l (fun x => { x with waiting := false })
      if x.total = 0 then s.complete p l 1 else s.laterOnce (.groupHandOut p)

/-! ## Taking records (R50, R51, R53) -/

/-- A queue descriptor. -/
structure QDesc where
  host : Bool
  devfed : Bool
  en : Bool
  qsize : Nat
  qbase : Nat
  qerr : Bool
  tail : Nat
  head : Nat
  /-- a reserved bit is not zero -/
  rsv : Bool
def decodeQueue (bs : List Byte) : QDesc :=
  let a := leNat (bs.take 8)
  let b := leNat ((bs.drop 8).take 8)
  { host := decide (bitsOf a 63 63 = 1), devfed := decide (bitsOf a 62 62 = 1), en := decide (bitsOf a 61 61 = 1),
    qsize := bitsOf a 59 56, qbase := bitsOf a 55 7 * 128, qerr := decide (bitsOf b 32 32 = 1), tail := bitsOf b 31 16,
    head := bitsOf b 15 0, rsv := decide (bitsOf a 60 60 ≠ 0 ∨ bitsOf a 6 0 ≠ 0 ∨ bitsOf b 63 33 ≠ 0) }
def State.readQueue (s : State) (p blk q : Nat) : State × QDesc :=
  let (s, bs) := s.partRead p (qdescAt blk q) 16
  (s, decodeQueue bs)
/-- Records that the ring holds. -/
def QDesc.size (d : QDesc) : Nat := 2 ^ (d.qsize + 4)
/-- An error of the queue (R51). -/
def QDesc.broken (d : QDesc) : Bool := decide (13 ≤ d.qsize) || decide (d.size ≤ d.tail) || (d.en && d.rsv)
/-- The address of a slot: bit 63 set in host memory (R52). -/
def QDesc.slot (d : QDesc) (i : Nat) : Nat := bitOf d.host * 2 ^ 63 + (d.qbase + 128 * i) % 2 ^ 56

/-- The queue stops on an error. -/
def State.queueError (s : State) (p blk q : Nat) : State :=
  (s.setQerr p blk q true).modPkg p (fun k => { k with erred := k.erred ++ [(blk * 16 + q, false)] })

/-- A launch as it is taken. -/
def Launch.take (leaf tenant : Nat) (r : LaunchRec) : Launch :=
  { leaf := leaf, tenant := tenant, lr := r, waiting := true, next := 0, total := r.groups, savedQ := [], flushedQ := [],
    resident := 0, done := 0, peak := 0, preempts := 0, tstart := none, diePtr := 0, posPtr := [], placed := [], finished := [],
    reported := [], handedOut := false, meanSum := 0, meanCount := 0, charged := 0, eligible := false }

/-- One group of a launch needs more than some budget on its path ever gives (R47, R53). -/
def State.overBudget (s : State) (p leaf : Nat) (r : LaunchRec) : Bool :=
  let path := s.path p leaf
  let k := shareCount r
  (budgetPath 2 path).any (fun (_, b) => decide (b.grpmax < 1)) || (budgetPath 0 path).any (fun (_, b) => decide (b.cormax < k)) ||
    (budgetPath 1 path).any (fun (_, b) => decide (b.scrmax < k * r.scrg))

/-- RECORD_TAKE (R51, R53, R57): the head record of a queue is taken while every effective LFMAX has room. -/
def execRecordTake (p blk q : Nat) (s : State) : Out := .next (
  match s.block? p blk with
  | none => s
  | some b =>
    if !b.leaf || b.state ≠ 1 || !s.served p blk || !(decide (blk * 16 + q ∈ (s.pkgD p).served)) ||
        s.stopped (blk * 16 + q) then s
    else
      let (s, d) := s.readQueue p blk q
      if d.broken then s.queueError p blk q
      else if !d.en then s
      else
        let s := if d.qerr then s.setQerr p blk q false else s
        if d.tail = d.head % d.size then s
        else if !(budgetPath 4 (s.path p blk)).all (fun (a, c) => decide (s.inFlight p a < c.lfmax)) then s
        else
          let (s, bs) := s.recRead p (d.slot (d.head % d.size)) 128
          let r := decodeRecord bs
          let (s, st) := s.depStatus p r.deps
          if r.depblk && st.any (fun v => decide (v = 0)) && st.all (fun v => decide (v < 2)) then s
          else
            let l := s.nextId
            let tenant := s.tenantId p blk
            let s := State.partWrite { s with nextId := l + 1 } p (qdescAt blk q + 8) (leBytes 2 ((d.head + 1) % d.size))
            let s := s.modPkg p (fun k => { k with launches := SMap.put k.launches l (Launch.take blk tenant r) })
            let s := (s.writeUse p blk).laterOnce (.recordTake p blk q)
            if !recordOk r (s.tenantField p blk (·.chcount) 0) then s.complete p l 3
            else if r.groups ≠ 0 && s.overBudget p blk r then s.complete p l 5
            else s.settleLaunch p l)

/-- DEPENDENCE_RECHECK (R57): every pending dependence is read again, those of records that stall their queue too. -/
def execDependenceRecheck (p : Nat) (s : State) : Out := .next (
  let s := (s.pkgD p).launches.foldl (fun s ((l, x) : Nat × Launch) => if x.waiting then s.settleLaunch p l else s) s
  (s.pkgD p).served.foldl (fun s x => s.laterOnce (.recordTake p (x / 16) (x % 16))) s)

/-! ## Eligibility and service (R56) -/

/-- The launch has an unplaced group. -/
def Launch.unplaced (l : Launch) : Bool := !l.savedQ.isEmpty || !l.flushedQ.isEmpty || decide (l.next < l.total)
/-- A launch is eligible (R56); a region held by HALT REGION hands out nothing (R279). -/
def State.eligible (s : State) (p : Nat) (l : Launch) : Bool :=
  !l.waiting && l.unplaced && (match s.block? p l.leaf with | some b => decide (b.state = 1) | none => false) &&
    (s.path p l.leaf).all (fun (_, b) => !b.held) && s.served p l.leaf

def State.serv (s : State) (p a : Nat) : Nat := ((s.block? p a).map (·.serv)).getD 0
def State.setServ (s : State) (p a v : Nat) : State :=
  s.modPkg p (fun q => { q with blocks := SMap.modify q.blocks a (fun b => { b with serv := v }) })

/-- A leaf that becomes eligible takes the larger of its own SERV and the least among eligible leaves of its priority (R56). -/
def State.updateServ (s : State) (p : Nat) : State :=
  let ls := (s.pkgD p).launches
  let leaves (f : Launch → Bool) : List Nat := ls.foldl (fun l ((_, x) : Nat × Launch) => if f x then insertNat l x.leaf else l) []
  let now := leaves (fun x => s.eligible p x)
  let was := (leaves (·.eligible)).filter (fun a => decide (a ∈ now))
  let s := (now.filter (fun a => !decide (a ∈ was))).foldl (fun s a =>
    let peers := (was.filter (fun b => decide (s.effPrio p b = s.effPrio p a))).map (fun b => s.serv p b)
    match peers with
    | [] => s
    | v :: vs => s.setServ p a (max (s.serv p a) (vs.foldl min v))) s
  s.modPkg p (fun q => { q with launches := q.launches.map (fun ((l, x) : Nat × Launch) => (l, { x with eligible := s.eligible p x })) })

/-- One leaf is served before another: PRIO, then SERV, then REGID (R56). -/
def State.leafBefore (s : State) (p a b : Nat) : Bool :=
  let (pa, pb) := (s.effPrio p a, s.effPrio p b)
  let (sa, sb) := (s.serv p a, s.serv p b)
  decide (pb < pa ∨ (pa = pb ∧ (sa < sb ∨ (sa = sb ∧ s.regidOf p a < s.regidOf p b))))
/-- The leaves with an eligible launch, in the order of service. -/
def State.leavesInOrder (s : State) (p : Nat) : List Nat :=
  let ls := (s.pkgD p).launches.foldl (fun l ((_, x) : Nat × Launch) => if s.eligible p x then insertNat l x.leaf else l) []
  ls.foldl (fun l a => (l.filter (fun b => !s.leafBefore p a b)) ++ [a] ++ l.filter (fun b => s.leafBefore p a b)) []
/-- A leaf's launch: the highest LPRIO, then the one taken earliest (R56). -/
def State.leafLaunch (s : State) (p a : Nat) : Option (Nat × Launch) :=
  (s.pkgD p).launches.foldl (fun (b : Option (Nat × Launch)) ((l, x) : Nat × Launch) =>
    if x.leaf = a && s.eligible p x then
      match b with
      | none => some (l, x)
      | some (_, y) => if y.lr.lprio < x.lr.lprio then some (l, x) else b
    else b) none

/-! ## Hand-out (R56, R58, R61, R65) -/

/-- The next group of a launch: saved groups first, then flushed ones, then the next g; and the launch without it. -/
def Launch.nextGroup (l : Launch) (s : State) : Option (Nat × Option Nat × Launch) :=
  match l.savedQ, l.flushedQ with
  | u :: us, _ => some (((s.group? u).map (·.gidx)).getD 0, some u, { l with savedQ := us })
  | [], g :: gs => some (g, none, { l with flushedQ := gs })
  | [], [] => if l.next < l.total then some (l.next, none, { l with next := l.next + 1 }) else none

/-- Hand a launch's next group to a die: the service count, the first hand-out's record, the distributor (R56, R270). -/
def State.handTo (s : State) (p l die : Nat) (core : Option Nat) : State :=
  match s.launch? p l with
  | none => s
  | some x => match x.nextGroup s with
    | none => s
    | some (g, saved, y) =>
      let k := shareCount x.lr
      let w := (budgetPath 0 (s.path p x.leaf)).foldl (fun m (_, b) => min m b.cormax) 512
      let s := s.setServ p x.leaf (s.serv p x.leaf + k * ((65536 + w - 1) / w))
      let s := if x.tstart.isSome then s
        else s.trace p x.leaf 2 ⟨x.lr.launchid, 0, 0, true, 8⟩ (x.total % 2 ^ 32) (s.regidOf p x.leaf)
      let s := s.modLaunch p l (fun _ => { y with tstart := some (x.tstart.getD (s.now p)) })
      (s.modDie p die (fun d => { d with handed := d.handed ++ [⟨l, g, saved, core⟩] })).later (.groupPlace p die)

/-- The first die in a launch's order that places its next group (R61). -/
def State.offer (s : State) (p l : Nat) (x : Launch) : Option Nat :=
  ((List.range 8).map (fun i => (x.diePtr + i) % 8)).find? (fun d => (s.findCores p d l none).isSome)

/-- The refills that releases called for, in die order and core order: the first that goes ahead is handed out (R65, R419). A launch of
higher priority waits for room if it fits on no die, the released core apart. -/
def State.tryRefill (s : State) (p : Nat) : State × Bool :=
  let all := (List.range 8).flatMap (fun d =>
    ((((s.pkgD p).die d).refill.foldl (fun (l : List (Nat × Nat)) x =>
        l.filter (fun y => decide (y.1 ≤ x.1)) ++ [x] ++ l.filter (fun y => decide (x.1 < y.1))) []).map (fun x => (d, x))))
  all.foldl (fun ((s, got) : State × Bool) (d, c, l) =>
    if got then (s, true)
    else
      let before := s
      let s := s.modDie p d (fun k => { k with refill := k.refill.filter (fun x => decide (x ≠ (c, l))) })
      match s.launch? p l with
      | none => (s, false)
      | some x =>
        let higher := (s.pkgD p).launches.any (fun ((m, y) : Nat × Launch) =>
          decide (s.effPrio p x.leaf < s.effPrio p y.leaf) && s.eligible p y && (before.offer p m y).isNone)
        if s.eligible p x && !higher && (s.findCores p d l (some c)).isSome then (s.handTo p l d (some c), true) else (s, false))
    (s, false)

/-- Serve the leaves in order: the first whose launch's next group fits; a launch that fits nowhere may raise a request (R56, R58). -/
def State.serveLeaves (s : State) (p : Nat) : List Nat → State
  | [] => s
  | a :: as_ => match s.leafLaunch p a with
    | none => State.serveLeaves s p as_
    | some (l, x) => match s.offer p l x with
      | some d => s.handTo p l d none
      | none => State.serveLeaves (s.request p l x) p as_

/-- GROUP_HAND_OUT (R56): at most one group, refills first (R418). A group handed out before is placed first. -/
def execGroupHandOut (p : Nat) (s : State) : Out := .next (
  if (s.pkgD p).dies.any (fun ((_, d) : Nat × Die) => !d.handed.isEmpty) then s
  else
    let s := s.updateServ p
    match s.tryRefill p with
    | (s, true) => s.updateServ p
    | (s, false) => (s.serveLeaves p (s.leavesInOrder p)).updateServ p)

/-! ## The completion tree (R66) -/

/-- CLUSTER_REPORT (R66): a cluster reports once the launch is fully handed out and its counts are equal; when all 48 have reported, the
package counter completes the launch (R67). -/
def execClusterReport (p c l : Nat) (s : State) : Out := .next (
  match s.launch? p l with
  | none => s
  | some x =>
    if !x.handedOut || SMap.get x.placed 0 c ≠ SMap.get x.finished 0 c then s
    else
      let rep := insertNat x.reported c
      let s := s.modLaunch p l (fun x => { x with reported := rep })
      if 48 ≤ rep.length then s.complete p l 1 else s)

/-! ## Child launches (R69, R357) -/

/-- LAUNCH_ENQUEUE (R357): a LAUNCH's record reaches the bench: it is written to slot TAIL and TAIL advances, or it is refused; the
status goes back to the thread. -/
def execLaunchEnqueue (x : Nat) (s : State) : Out := .next (
  match s.access? x with
  | none => s
  | some a => match a.kind with
    | .launch q =>
      if a.stage ≠ .performed then s
      else
        let (s, d) := s.readQueue a.pkg a.leaf q
        let answer (s : State) (st : Nat) : State :=
          (s.modAccess x (fun a => { a with value := BitVec.ofNat 64 st })).later (.accessCompletion x)
        let stopped := d.qerr || s.stopped (a.leaf * 16 + q)
        if stopped then answer s 2
        else if d.broken then answer (s.queueError a.pkg a.leaf q) 2
        else if !d.en || !d.devfed then answer s 2
        else if (d.tail + 1) % d.size = d.head % d.size then answer s 1
        else
          let s := s.recWrite a.pkg (d.slot d.tail) (leBytes 128 a.line.toNat)
          let s := s.partWrite a.pkg (qdescAt a.leaf q + 10) (leBytes 2 ((d.tail + 1) % d.size))
          let s := s.modPkg a.pkg (fun k => { k with served := insertNat k.served (a.leaf * 16 + q) })
          answer (s.laterOnce (.dependenceRecheck a.pkg)) 0
    | _ => s)

end Sys2Proof.Machine
end

