-- ==== Sys2Proof/Machine/Commands.lean ====
section
/-! DEFINITION. The commands of BAR 0 (R254 to R258): REFRESH (R44, R49), INVALIDATE (R129), DOMAIN RESET (R70, R91), LOSS and RELEASE
LOST (R157, R158), RESOLVE (R84), FQHEAD (R258) and the doorbells (R51, R257). -/

namespace Sys2Proof.Machine

/-! ## The control page -/

def State.modCtl (s : State) (p fn : Nat) (f : Ctl → Ctl) : State := s.modPkg p (fun q => q.modCtl fn f)
/-- A discarded write sets ERR (R255). -/
def State.ctlErr (s : State) (p fn : Nat) : State := s.modCtl p fn (fun c => { c with err := true })
/-- Every BAR is open only in READY (R286, R288). -/
def State.barOpen (s : State) (p : Nat) : Bool := match s.pkg? p with | some q => q.ready && !q.lost | none => false

/-- Start a command of OP: while BUSY it is discarded (R256). -/
def State.ctlCommand (s : State) (p fn code : Nat) (body : State → Ctl → State) : State :=
  if !s.barOpen p then s
  else
    let c := (s.pkgD p).ctlOf fn
    if c.busy then s.ctlErr p fn
    else body (s.modCtl p fn (fun c => { c with op := BitVec.ofNat 8 code })) c

/-- The tenant on which FQHEAD, RESOLVE and CAPEXH act: the bound one, or the one that FQREGID names (R255). -/
def Pkg.actsOn (p : Pkg) (fn : Nat) : Option Nat :=
  if fn = 0 then some (p.ctlOf 0).fqregid
  else
    let b := SMap.get p.vfbind 0 (fn - 1)
    if b.getLsbD 16 then some (b.toNat % 65536) else none

/-! ## REFRESH (R44, R49, R258) -/

/-- The blocks above one that no package has cached yet are cached, without a change of their STATE. -/
def State.cacheAbove (s : State) (p : Nat) : Nat → Nat → State
  | 0, _ => s
  | f + 1, a =>
    match s.block? p a with
    | none => s
    | some b =>
      if b.level = 0 || b.parent = 0 then s
      else State.cacheAbove (if (s.block? p b.parent).isSome then s else s.cacheBlock p b.parent) p f b.parent

/-- A tenant's ring starts again where a REFRESH has changed its FQBASE or FQENT (R258). -/
def State.ringCheck (s : State) (q a : Nat) (old : Option Block) : State :=
  match s.block? q a with
  | none => s
  | some b =>
    if b.level ≠ 0 || (match old with | some o => decide (o.fqbase = b.fqbase ∧ o.fqent = b.fqent) | none => false) then s
    else (s.modPkg q (fun k => { k with fqs := SMap.set k.fqs FQ.init b.regid { FQ.init with base := b.fqbase, ent := b.fqent } })).later
      (.faultPost q b.regid)

/-- Injections that wait for capacity start again at a REFRESH of their tenant (R152). -/
def State.retryInjections (s : State) (regid : Nat) : State :=
  s.injs.foldl (fun s (y, j) =>
    if j.exhausted && decide (((s.pkgD j.pkg).frame j.frame).owner = regid) then
      (s.setItem y (.inj { j with exhausted := false, level := 0, cands := [], refused := 0 })).later (.injectionOffer y)
    else s) s

/-- A region error of a block (R44): the entry names no access, launch or die, and those fields are 0 (log entry 118). -/
def State.regionError (s : State) (p a : Nat) : State := (s.postFault p a 4 0 0 0 ⟨0, 0, 0, true, 8⟩ 0).1

/-- REFRESH of a block: it is read again, its STATE is judged by R44 and R49, with the links that memory holds now, and written; another
block that no longer keeps R44, by its path or a cycle of its links, is a region error of its own, and the sequencers look again. -/
def State.refreshBlock (s : State) (p a : Nat) : State :=
  let olds := s.upPkgs.map (fun q => (q, s.block? q a))
  let served := (s.pkgD p).blocks.filterMap (fun ((b, k) : Nat × Block) => if b ≠ a && k.state ≠ 0 && s.served p b then some b else none)
  let s := s.cacheBlock p a
  let s := s.cacheAbove p 8 a
  let s := olds.foldl (fun s (q, old) => State.ringCheck s q a old) s
  match s.block? p a with
  | none => s
  | some b =>
    let ok := pathOk (s.path p a) && linksEnd s.linksIn a && (!b.leaf || decide (b.child = 0))
    let s := if b.state = 2 || b.state = 3 then s.setBlockState p a b.state
      else
        let s := s.setBlockState p a (bitOf ok)
        if ok then s else s.regionError p a
    let s := served.foldl (fun s c => if s.served p c then s else s.regionError p c) s
    let s := if b.level = 0 then s.retryInjections b.regid else s
    s.upPkgs.foldl (fun s q => s.poke q) s

/-- REFRESH (R49, R256). -/
def execRefresh (p fn : Nat) (s : State) : Out := .next (
  s.ctlCommand p fn 1 (fun s c =>
    let a := bitsOf c.arg0.toNat 55 9 * 512
    if c.arg0.toNat ≠ a then s.ctlErr p fn
    else if !(s.pkgD p).owns fn (s.tenantInMem 8 a) then s.refuseHost p fn
    else s.refreshBlock p a))

/-! ## INVALIDATE (R129, R256) -/

/-- A translation of a tenant falls under an invalidate. -/
def Inval.hits (i : Inval) (bytes n : Nat) (t : Trans) : Bool :=
  decide (n = i.tenant) && (i.all || (decide (t.base < i.va + i.count * bytes) && decide (i.va < t.base + t.bytes)))

/-- INVALIDATE (R129, R256): translations and walk-cache entries are dropped, walks in flight are walked again, and the accesses that
used a dropped translation are noted. -/
def execInvalidate (p fn : Nat) (s : State) : Out := .next (
  s.ctlCommand p fn 2 (fun s c =>
    let a0 := c.arg0.toNat
    let a1 := c.arg1.toNat
    let regid := bitsOf a0 63 48
    if bitsOf a0 47 33 ≠ 0 || bitsOf a1 63 56 ≠ 0 || decide (16 ≤ (s.pkgD p).invals.length) then s.ctlErr p fn
    else if !(s.pkgD p).owns fn regid then s.refuseHost p fn
    else
      let (s, bytes) := match s.tenantBlock p regid with
        | some (a, _) => let (s, e) := s.rafEntry p a a1; (s, pageBytes (bitsOf e 63 62))
        | none => (s, 65536)
      let i : Inval := { fn := fn, tenant := regid, all := decide (bitsOf a0 32 32 = 1), va := a1, count := bitsOf a0 31 0, users := [] }
      let hit (n : Nat) (t : Trans) : Bool := i.hits bytes n t
      let users := (s.accesses.filter (fun (_, a) => decide (a.pkg = p) &&
        decide (a.stage ≠ Stage.translate ∧ a.stage ≠ Stage.logged ∧ a.stage ≠ Stage.performed) &&
        a.trans.any (hit (s.tenantId p a.leaf)))).map (·.1)
      let out (l : List (Nat × Trans)) : List (Nat × Trans) := l.filter (fun (n, t) => !hit n t)
      let s := s.modPkg p (fun q => { q with
        cores := q.cores.map (fun ((c, k) : Nat × Core) => (c, { k with tlb := out k.tlb })),
        clusters := q.clusters.map (fun ((c, k) : Nat × Cluster) => (c, { k with tlb := out k.tlb })),
        dies := q.dies.map (fun ((c, d) : Nat × Die) => (c, { d with
          walkCache := d.walkCache.filter (fun (n, _, _) => decide (n ≠ regid)), attrs := d.attrs.filter (fun (n, _, _) => decide (n ≠ regid)) })),
        invals := q.invals ++ [{ i with users := users }] })
      let s := { s with pageCmp := s.pageCmp.map (fun ((g, c) : Nat × PageCmp) => (g, { c with loose := c.loose || decide (c.tenant = regid) })) }
      let s := { s with items := s.items.map (fun ((x, it) : Nat × Item) => match it with
        | .walk w => (x, Item.walk (if w.pkg = p && w.tenant = regid && w.fault = 0 && w.failed = 0 then { w with redo := true } else w))
        | .access a => (x, Item.access (if a.pkg = p && decide (a.stage = Stage.translate) && a.trans.any (hit (s.tenantId p a.leaf)) then
            { a with trans := [] } else a))
        | it => (x, it)) }
      (s.modCtl p fn (fun c => { c with invseq := c.invseq + 1 })).later (.invalidateDone p)))

/-- An invalidate has completed: the accesses it noted are over, and no walk of the tenant is still to be walked again (R129). -/
def State.invalOver (s : State) (p : Nat) (i : Inval) : Bool :=
  i.users.all (fun x => match s.access? x with
    | some a => decide (a.stage = .performed) || decide (a.stage = .logged)
    | none => true) &&
  s.walks.all (fun (_, w) => !(decide (w.pkg = p) && decide (w.tenant = i.tenant) && w.redo))

/-- INVALIDATE_DONE (R129, R256): of each function the oldest invalidates that are over complete, and INVDONE advances. -/
def execInvalidateDone (p : Nat) (s : State) : Out := .next (
  let (left, s) := (s.pkgD p).invals.foldl (fun ((left, s) : List Inval × State) i =>
    if left.any (fun j => decide (j.fn = i.fn)) || !s.invalOver p i then (left ++ [i], s)
    else (left, s.modCtl p i.fn (fun c => { c with invdone := c.invdone + 1 }))) ([], s)
  let s := s.modPkg p (fun q => { q with invals := left })
  if left.isEmpty then s else s.laterOnce (.invalidateDone p))

/-! ## DOMAIN RESET (R70, R91) -/

/-- Discard a group of a domain: without save, its private lines without write-back; what waits on it elsewhere is let go (R91). -/
def State.discard (s : State) (u : Nat) : State :=
  match s.group? u with
  | none => s
  | some g =>
    let s := s.dropBundles u
    let s := g.shares.foldl (fun s h => match h.rail with | some m => s.dropChain g.pkg g.launch m.chain | none => s) s
    let s := (s.ops.filter (fun (_, o) => decide (o.thr.uid = u) && decide (o.kind = .pub) && decide (o.st = .running ∨ o.st = .suspended))).foldl
      (fun s (x, o) => State.undoWalk s x o) s
    let s := ((s.withdraw u g).clearPrivate g.pkg u false).dropItemsOf u
    let s := if g.phase = .saved then s else g.shares.foldl (fun s h => s.releaseTiles g.pkg h.core u) s
    let s := if g.phase = .saved || g.phase = .saving then s.dropSaveRoom u g else s
    let s := s.endShown g.pkg u
    { s with groups := SMap.del s.groups u }

/-- The records that a queue still holds and that name a completion record receive STATUS 2; HEAD := TAIL (R70). A queue without a ring
size, or whose TAIL lies outside its ring, holds no record that can be named (log entry 63). -/
def State.killQueue (s : State) (p blk q : Nat) : State :=
  let (s, d) := s.readQueue p blk q
  let n := if 13 ≤ d.qsize || decide (d.size ≤ d.tail) then 0 else (d.tail + d.size - d.head % d.size) % d.size
  let now := s.now p
  let s := (List.range n).foldl (fun s i =>
    let (s, bs) := State.recRead s p (d.slot ((d.head + i) % d.size)) 128
    let r := decodeRecord bs
    if r.compl.toNat = 0 then s
    else
      let l := { Launch.take blk 0 r with tstart := some now }
      (s.recWrite p (recordAddr r.compl.toNat) (l.record 2 now)).trace p blk 3 ⟨r.launchid, 0, 0, true, 8⟩ 2 0) s
  s.partWrite p (qdescAt blk q + 8) (leBytes 2 d.tail)

/-- The package whose sequencer serves a queue, and whose host memory holds its ring and its records (R51, R55); p where none does. -/
def State.servingPkg (s : State) (p x : Nat) : Nat := (s.upPkgs.find? (fun q => decide (x ∈ (s.pkgD q).served))).getD p

/-- The reset of the domain that holds a tenant's pages ends the overflow of sets at EVC 65,535 that have evicted entries of such pages (R156). -/
def State.freeSets (s : State) (tenant : Nat) : State :=
  let sets := s.pkgs.flatMap (fun ((p, k) : Nat × Pkg) => k.dirs.filterMap (fun ((d, x) : Nat × DirSet) =>
    if x.evc = 65535 && decide (tenant ∈ x.owners) then some (p, d) else none))
  sets.foldl (fun s (h, d) => State.recount s h d) s

/-- The reset of a fault domain (R70, R91), on every package. -/
def State.resetDomain (s : State) (p root : Nat) : State :=
  let blocks := ((s.pkgD p).blocks.filter (fun ((a, _) : Nat × Block) => decide (s.domainRoot p a = root))).map (fun ((a, b) : Nat × Block) => (a, b))
  let live := blocks.filter (fun (_, b) => decide (b.state ≠ 0))
  let s := live.foldl (fun s (a, _) => State.setBlockState s p a 3) s
  let gs := (s.groups.filter (fun ((_, g) : Nat × Group) => decide (s.domainRoot g.pkg g.leaf = root))).map (·.1)
  let s := gs.foldl (fun s u => s.discard u) s
  let s := s.upPkgs.foldl (fun s q =>
    let ls := ((s.pkgD q).launches.filter (fun ((_, l) : Nat × Launch) => decide (s.domainRoot q l.leaf = root))).map (·.1)
    let s := s.modPkg q (fun k => { k with dies := k.dies.map (fun ((i, d) : Nat × Die) =>
      (i, { d with handed := d.handed.filter (fun h => !decide (h.launch ∈ ls)), refill := d.refill.filter (fun (_, l) => !decide (l ∈ ls)) })) })
    ls.foldl (fun s l => s.complete q l 2) s) s
  let s := (blocks.filter (fun (_, b) => b.leaf)).foldl (fun s (a, _) => (List.range 16).foldl (fun s q => State.killQueue s (s.servingPkg p (a * 16 + q)) a q) s) s
  let s := live.foldl (fun s (a, _) => State.setBlockState s p a 1) s
  let s := match s.block? p root with
    | some b => if b.level ≠ 0 then s
        else
          let lost := s.pkgs.flatMap (fun ((_, k) : Nat × Pkg) => k.dirs.flatMap (fun ((_, d) : Nat × DirSet) => d.entries.filterMap (fun (e : Option DirEntry) =>
            match e with | some e => if e.dstate = 5 && e.owner = b.regid then some e.gpn else none | none => none)))
          let s := lost.foldl (fun s g => State.releasePage s g) s
          State.freeSets s b.regid
    | none => s
  s.upPkgs.foldl (fun s q => s.poke q) s

/-- DOMAIN RESET (R91, R256). -/
def execDomainReset (p fn : Nat) (s : State) : Out := .next (
  s.ctlCommand p fn 3 (fun s c =>
    let a := bitsOf c.arg0.toNat 55 9 * 512
    if c.arg0.toNat ≠ a then s.ctlErr p fn
    else match s.block? p a with
      | none => s.ctlErr p fn
      | some b =>
        if !(s.pkgD p).owns fn (s.tenantId p a) then s.refuseHost p fn
        else if s.domainRoot p a ≠ a || b.state = 0 then s.ctlErr p fn
        else s.resetDomain p a))

/-! ## LOSS and RELEASE LOST (R157, R158) -/

/-- LOSS (R157, R256), of the physical function only: another package is declared lost. -/
def execLoss (p fn : Nat) (s : State) : Out := .next (
  s.ctlCommand p fn 4 (fun s c =>
    let q := c.arg0.toNat
    if fn ≠ 0 || decide (4096 ≤ q) || decide (q = p) then s.ctlErr p fn else s.losePackage q))

/-- RELEASE LOST (R158, R256), of the physical function only. -/
def execReleaseLost (p fn : Nat) (s : State) : Out := .next (
  s.ctlCommand p fn 5 (fun s c => if fn ≠ 0 || decide (2 ^ 40 ≤ c.arg0.toNat) then s.ctlErr p fn else s.releasePage c.arg0.toNat))

/-! ## RESOLVE and FQHEAD (R84, R255, R258) -/

/-- RESOLVE (R84, R255); what it changes in the log of a saved group it changes in the save area. -/
def execResolve (p fn : Nat) (v : DWord) (s : State) : Out := .next (
  if !s.barOpen p then s
  else
    let s := s.modCtl p fn (fun c => { c with resolve := BitVec.ofNat 64 (v.toNat % 2 ^ 18) })
    let id := bitsOf v.toNat 15 0
    let act := bitsOf v.toNat 17 16
    if act = 3 then (s.ctlErr p fn).tally p 33
    else match (s.pkgD p).faults.find? (fun f => decide (f.id = id) && f.open_) with
      | none => s.tally p 33
      | some f =>
        if (s.pkgD p).actsOn fn = some f.tenant then
          let old := s.groups
          let s := s.resolved p id act
          s.groups.foldl (fun s ((u, g) : Nat × Group) =>
            if g.phase = .saved && decide ((SMap.find? old u).map (fun h => h.threads.map (·.log)) ≠ some (g.threads.map (·.log))) then s.saveLogs g else s) s
        else if fn = 0 then s.tally p 33 else s.refuseHost p fn)

/-- FQHEAD (R258): a write of h takes effect only when (h − FQHEAD) mod 2^32 ≤ (W − FQHEAD) mod 2^32. -/
def execFqheadWrite (p fn : Nat) (v : DWord) (s : State) : Out := .next (
  if !s.barOpen p then s
  else match (s.pkgD p).actsOn fn with
    | none => s.ctlErr p fn
    | some t =>
      let q := SMap.get (s.pkgD p).fqs FQ.init t
      let h := v.setWidth 32
      if (h - q.head).toNat ≤ (q.w - q.head).toNat then
        (s.modPkg p (fun k => { k with fqs := SMap.set k.fqs FQ.init t { q with head := h } })).laterOnce (.faultPost p t)
      else s.ctlErr p fn)

/-! ## Doorbells (R51, R257) -/

/-- The leaf that a REGID names: one that is served, else a detached one with VALID set, else one whose VALID was clear, else one that
memory links below a cached block and no REFRESH has named yet (R49). -/
def State.leafOf (s : State) (p regid : Nat) : Option Nat :=
  let ok (b : Block) : Bool := decide (b.regid = regid) && b.leaf
  let find (f : Block → Bool) : Option Nat :=
    (List.find? (fun ((_, b) : Nat × Block) => ok b && f b) (s.pkgD p).blocks).map (·.1)
  let linked (_ : Unit) : Option Nat := (s.reach linkFuel ((s.pkgD p).blocks.map (fun (a, _) => s.childOf a)) []).find? (fun a =>
    decide (bitsOf (s.gnat a 8) 63 48 = regid) && decide (bitsOf (s.gnat a 8) 32 32 = 1))
  ((find (fun b => decide (b.state ≠ 0))).orElse (fun _ => (find (·.valid)).orElse (fun _ => (find (fun _ => true)).orElse linked)))

/-- A tail write to a queue (R51): a device-fed queue discards it. -/
def State.tailWrite (s : State) (p blk q tail : Nat) : State :=
  let (s, d) := s.readQueue p blk q
  if d.devfed then s.tally p 35
  else
    let s := s.partWrite p (qdescAt blk q + 10) (leBytes 2 tail)
    let s := s.modPkg p (fun k => { k with served := insertNat k.served (blk * 16 + q) })
    (s.laterOnce (.recordTake p blk q)).laterOnce (.dependenceRecheck p)

/-- A write to the doorbell page (R257): aligned and 64 bits wide, bits 63:48 REGID, 19:16 queue, 15:0 TAIL. -/
def State.doorbell (s : State) (p fn off size : Nat) (v : DWord) : State :=
  if !s.barOpen p then s
  else if size ≠ 8 || off % 8 ≠ 0 || bitsOf v.toNat 47 20 ≠ 0 then s.tally p 34
  else match s.leafOf p (bitsOf v.toNat 63 48) with
    | none => s.tally p 34
    | some a =>
      let tenant := if (s.block? p a).isSome then s.tenantId p a else s.tenantInMem 8 a
      if !(s.pkgD p).owns fn tenant then s.refuseHost p fn
      else s.tailWrite p a (bitsOf v.toNat 19 16) (bitsOf v.toNat 15 0)

end Sys2Proof.Machine
end

