-- ==== Sys2Proof/Machine/Host.lean ====
section
/-! DEFINITION. What the host reads and writes: the registers of BAR 0 and BAR 4 (R254, R255, R274, R289), the window of BAR 2 (R259),
the time series (R273) and the consumer's end of a trace buffer (R268). -/

namespace Sys2Proof.Machine

/-! ## Registers as the host reads them -/

/-- The functions of PCI Express: 0 the physical one, n + 1 virtual function n (R254). -/
def hostFn (fn : Nat) : Bool := decide (fn ≤ 64)
/-- BOOTSTAT (R289). -/
def Boot.stat (b : Boot) : Nat :=
  b.phase % 16 * 2 ^ 60 + b.failcode % 256 * 2 ^ 52 + b.failkind % 16 * 2 ^ 48 + b.failunit % 1024 * 2 ^ 38 + b.thrlvl % 16 * 2 ^ 34 +
    b.imgver.toNat * 4
/-- A record of the self-test result log (R288). -/
def UnitFail.record (u : UnitFail) : Nat := u.code % 256 * 2 ^ 14 + u.kind % 16 * 2 ^ 10 + u.unit % 1024
/-- The 4 KiB of the log: its records, then zeros (R288). -/
def Boot.logBytes (b : Boot) : List Byte :=
  (List.range 512).flatMap (fun i => leBytes 8 ((b.reslog[i]?.map UnitFail.record).getD 0))
/-- A path entry (R282). -/
def PathEnt.low (e : PathEnt) : Nat :=
  2 ^ 63 + bitOf e.parked * 2 ^ 62 + bitOf e.hit * 2 ^ 61 + bitOf e.wait * 2 ^ 60 + e.pc.toNat % 2 ^ 56 / 4 * 4
def PathEnt.high (e : PathEnt) : Nat := e.crew % 1024 * 2 ^ 54 + e.mask.toNat

/-- The counter that CNTSEL selects, with its current value (R271, R274). -/
def Pkg.cntval (p : Pkg) : DWord :=
  let b := bitsOf p.cntsel.toNat 63 56
  let i := bitsOf p.cntsel.toNat 55 40
  let c := bitsOf p.cntsel.toNat 7 0
  match bankShape[b]? with
  | some (n, k) => if i < n && c < k then SMap.get p.counters 0 (ctrKey (b, c) i) else 0
  | none => 0

/-- A 64-bit word of BAR 0's control page (R255). -/
def Pkg.bar0Word (p : Pkg) (fn off : Nat) : Nat :=
  let c := p.ctlOf fn
  let t := p.actsOn fn
  if off = 0 then c.op.toNat
  else if off = 0x08 then c.arg0.toNat
  else if off = 0x10 then c.arg1.toNat
  else if off = 0x18 then bitOf c.busy * 2 ^ 63 + bitOf c.err * 2 ^ 62 + c.invdone.toNat * 2 ^ 16 + c.invseq.toNat
  else if off = 0x20 then (match t with | some t => (SMap.get p.fqs FQ.init t).head.toNat | none => 0)
  else if off = 0x28 then c.resolve.toNat
  else if off = 0x30 then c.winbase.toNat
  else if off = 0x38 then (match t with | some t => bitOf (decide (t ∈ p.capexh)) | none => 0)
  else if off = 0x40 then c.vecs.toNat
  else if off = 0x48 then (if fn = 0 then c.fqregid else 0)
  else if 0x100 ≤ off && off < 0x300 && fn = 0 then (SMap.get p.vfbind 0 ((off - 0x100) / 8)).toNat
  else 0

/-- A 64-bit word of BAR 4 (R274, R276, R277, R282, R288 to R290). -/
def Pkg.bar4Word (p : Pkg) (fn off : Nat) : Nat :=
  let m := p.mboxOf fn
  let pf := decide (fn = 0)
  if off = 0x98 then p.boot.stat
  else if 0x2000 ≤ off && off < 0x3000 then (p.boot.reslog[(off - 0x2000) / 8]?.map UnitFail.record).getD 0
  else if 0x3000 ≤ off && off < 0x3020 then bitsOf m.nonce.toNat ((off - 0x3000) * 8 + 63) ((off - 0x3000) * 8)
  else if off = 0x3028 then m.attstat
  else if 0x3100 ≤ off && off < 0x3BE8 then leNat ((m.attresp.drop (off - 0x3100)).take 8)
  else if p.boot.phase < 3 && fn ≠ mctpFn then 2 ^ 64 - 1
  else if off = 0 then m.dop.toNat
  else if off = 0x08 then m.launchid % 2 ^ 32 * 2 ^ 32 + m.gidx % 2 ^ 24 * 2 ^ 8
  else if off = 0x10 then m.regid % 2 ^ 16 * 2 ^ 48 + bitOf m.whole * 2 ^ 16 + m.tidx % 2 ^ 15
  else if off = 0x18 then m.gpn
  else if off = 0x20 then bitOf m.busy * 2 ^ 63 + bitOf m.stopped * 2 ^ 62 + bitOf p.holdover * 2 ^ 61 + bitOf m.att * 2 ^ 60 +
    bitOf m.waiting * 2 ^ 59 + m.dstat
  else if off = 0x28 then m.stopcause * 2 ^ 56 + m.hitcnt * 2 ^ 48 + m.trapdepth * 2 ^ 46 + m.trapc.toNat
  else if off = 0x30 then m.name.toNat
  else if off = 0x38 then m.ntidx
  else if off = 0x40 then m.npc.toNat % 2 ^ 56 / 4 * 4
  else if off = 0x48 then m.dmbase
  else if off = 0x50 then m.dmblocks
  else if off = 0x58 then m.paths.length % 2 ^ 16 * 2 ^ 16 + m.pathstart
  else if off = 0x60 then (if pf then p.cntsel.toNat else 0)
  else if off = 0x68 then (if pf then p.cntval.toNat else 0)
  else if off = 0x70 then (if pf then p.series.banks * 256 + p.series.k else 0)
  else if off = 0x78 then (if pf then p.series.base else 0)
  else if off = 0x80 then (if pf then p.series.size else 0)
  else if off = 0x88 then (if pf then p.series.wr else 0)
  else if off = 0x90 then (if pf then p.series.rd else 0)
  else if 0x400 ≤ off && off < 0x800 then (SMap.get m.bp 0 ((off - 0x400) / 8)).toNat
  else if 0x800 ≤ off && off < 0xC00 then (SMap.get m.wp 0 ((off - 0x800) / 8)).toNat
  else if 0x1000 ≤ off && off < 0x2000 then
    match m.paths[m.pathstart + (off - 0x1000) / 16]? with
    | some e => if off % 16 = 0 then e.low else e.high
    | none => 0
  else 0

/-- What the host reads of the 64-bit word at an offset of BAR 0, of BAR 4, or (bar 6, log entry 94) of the BAR registers: all ones
where the BAR does not answer (R254, R255, R274, R288). -/
def State.registerRead (s : State) (p fn bar off : Nat) : Nat :=
  let q := s.pkgD p
  let ones := 2 ^ 64 - 1
  if bar = 0 then (if s.barOpen p && hostFn fn then q.bar0Word fn (off / 8 * 8) else ones)
  else if bar = 4 then (if q.boot.powered && !q.lost && (hostFn fn || fn = mctpFn) then q.bar4Word fn (off / 8 * 8) else ones)
  else if fn = 0 && bar = 6 then (q.bars.getD (off / 8 * 2) 0).toNat + 2 ^ 32 * (q.bars.getD (off / 8 * 2 + 1) 0).toNat
  else ones

/-! ## Register writes -/

/-- A write of some bytes of a 64-bit word over what it holds. -/
def mergeWord (old : Nat) (off size : Nat) (v : DWord) : DWord :=
  let mask := BitVec.ofNat 64 ((2 ^ (8 * size) - 1) * 2 ^ (8 * (off % 8)))
  (BitVec.ofNat 64 old &&& ~~~mask) ||| ((v <<< (8 * (off % 8))) &&& mask)
/-- The write covers a byte of the word. -/
def wroteByte (off size i : Nat) : Bool := decide (off % 8 ≤ i) && decide (i < off % 8 + size)

/-- Start the attestation of a nonce: `mctp` tells where the answer goes (R290). -/
def State.attest (s : State) (p fn : Nat) (mctp : Bool) (nonce : BitVec 256) : State :=
  if !(s.pkgD p).boot.powered then s
  else
    let s := if mctp then s else s.modMbox p fn (fun m => { m with attstat := 1 })
    let s := s.modPkg p (fun q => { q with boot := { q.boot with attQ := q.boot.attQ ++ [(mctp, fn, nonce)] } })
    if (s.pkgD p).boot.phase = 0 then s else s.laterOnce (.attestationSigned p)

/-- TSK_WRITE (R273, R274): the physical function starts, changes or stops the series; K of 1 to 9 and 25 to 31 is discarded. -/
def execTskWrite (p fn : Nat) (v : DWord) (s : State) : Out := .next (
  if fn ≠ 0 || !s.barOpen p then s
  else
    let k := bitsOf v.toNat 4 0
    if (1 ≤ k && k ≤ 9) || 25 ≤ k then s.modMbox p fn (fun m => { m with dstat := 2 })
    else s.modPkg p (fun q => { q with series := { q.series with k := k, banks := bitsOf v.toNat 13 8, seq := 0 } }))

/-- A write to BAR 0 (R255, R257). -/
def State.writeBar0 (s : State) (p fn off size : Nat) (v : DWord) : Out :=
  let q := s.pkgD p
  let o := off / 8 * 8
  let m := mergeWord (q.bar0Word fn o) off size v
  let only := mergeWord 0 off size v
  let set (f : Ctl → Ctl) : Out := .next (s.modCtl p fn f)
  if !s.barOpen p then .next s
  else if 0x10000 ≤ off then .next (s.doorbell p fn off size v)
  else if o = 0 then
    if !wroteByte off size 0 then .next s
    else match bitsOf m.toNat 7 0 with
      | 1 => execRefresh p fn s
      | 2 => execInvalidate p fn s
      | 3 => execDomainReset p fn s
      | 4 => execLoss p fn s
      | 5 => execReleaseLost p fn s
      | _ => .next (s.ctlErr p fn)
  else if o = 0x08 then set (fun c => { c with arg0 := m })
  else if o = 0x10 then set (fun c => { c with arg1 := m })
  else if o = 0x18 then set (fun c => { c with err := c.err && !only.getLsbD 62 })
  else if o = 0x20 then (if off % 8 < 4 then execFqheadWrite p fn (m &&& 0xFFFFFFFF#64) s else .next s)
  else if o = 0x28 then
    if wroteByte off size 0 && wroteByte off size 1 then execResolve p fn m s
    else set (fun c => { c with resolve := m &&& 0x3FFFF#64 })
  else if o = 0x30 then set (fun c => { c with winbase := m &&& 0x00FFFFFF00000000#64 })
  else if o = 0x38 then
    match q.actsOn fn with
    | some t => .next (if only.getLsbD 0 then s.modPkg p (fun q => { q with capexh := eraseNat q.capexh t }) else s)
    | none => .next s
  else if o = 0x40 then set (fun c => { c with vecs := m &&& 0x07FF07FF#64 })
  else if o = 0x48 then (if fn = 0 then set (fun c => { c with fqregid := m.toNat % 65536 }) else .next s)
  else if 0x100 ≤ o && o < 0x300 then
    if fn = 0 then .next (s.modPkg p (fun q => { q with vfbind := SMap.set q.vfbind 0 ((o - 0x100) / 8) (m &&& 0x1FFFF#64) }))
    else .next (s.ctlErr p fn)
  else .next s

/-- A write to BAR 4 (R274, R290). Outside READY only the attestation registers act (R288), but for the management controller's mailbox,
which answers in every state (R263). -/
def State.writeBar4 (s : State) (p fn off size : Nat) (v : DWord) : Out :=
  let q := s.pkgD p
  let o := off / 8 * 8
  let m := mergeWord (q.bar4Word fn o) off size v
  let set (f : Mbox → Mbox) : Out := .next (s.modMbox p fn f)
  let pf (f : Series → Series) : Out :=
    .next (if fn = 0 then s.modPkg p (fun q => { q with series := f q.series }) else s)
  if q.lost || !q.boot.powered then .next s
  else if o = 0 then
    if !wroteByte off size 0 then .next s
    else match bitsOf m.toNat 7 0 with
      | 1 => execDebugHalt p fn s
      | 2 => execHaltRegion p fn s
      | 3 => execResume p fn s
      | 4 => execStep p fn s
      | 5 => execReadContext p fn s
      | 6 => execWriteContext p fn s
      | 7 => execDump p fn s
      | 8 => execDumpPage p fn s
      | 9 => execAttach p fn s
      | 10 => execDetach p fn s
      | n => .next (s.command p fn n (fun s _ => s.dstat p fn 2))
  else if 0x3000 ≤ o && o < 0x3020 then
    let i := o - 0x3000
    set (fun k => { k with attstat := k.attstat % 2, nonce := BitVec.ofNat 256 (k.nonce.toNat - bitsOf k.nonce.toNat (8 * i + 63) (8 * i) * 2 ^ (8 * i) +
      m.toNat * 2 ^ (8 * i)) })
  else if o = 0x3020 then
    if !wroteByte off size 0 then .next s
    else
      let s := s.modMbox p fn (fun k => { k with attstat := k.attstat % 2 })
      .next (if (mergeWord 0 off size v).getLsbD 0 then s.attest p fn false (q.mboxOf fn).nonce else s)
  else if q.boot.phase ≠ 3 && fn ≠ mctpFn then .next s
  else if o = 0x08 then set (fun k => { k with launchid := bitsOf m.toNat 63 32, gidx := bitsOf m.toNat 31 8 })
  else if o = 0x10 then set (fun k => { k with regid := bitsOf m.toNat 63 48, whole := m.getLsbD 16, tidx := bitsOf m.toNat 14 0 })
  else if o = 0x18 then set (fun k => { k with gpn := bitsOf m.toNat 39 0 })
  else if o = 0x48 then set (fun k => { k with dmbase := bitsOf m.toNat 55 12 * 4096 })
  else if o = 0x50 then set (fun k => { k with dmblocks := bitsOf m.toNat 31 0 })
  else if o = 0x58 then set (fun k => { k with pathstart := bitsOf m.toNat 15 0 })
  else if o = 0x60 then
    .next (if fn = 0 then s.modPkg p (fun q => { q with cntsel := m &&& 0xFFFFFF00000000FF#64 }) else s)
  else if o = 0x70 then
    if wroteByte off size 0 then execTskWrite p fn m s else pf (fun r => { r with banks := bitsOf m.toNat 13 8 })
  else if o = 0x78 then pf (fun r => { r with base := bitsOf m.toNat 55 0 })
  else if o = 0x80 then pf (fun r => { r with size := bitsOf m.toNat 31 0 })
  else if o = 0x90 then pf (fun r => { r with rd := bitsOf m.toNat 31 0 })
  else if 0x400 ≤ o && o < 0x800 then execBreakpointSlotWrite p fn ((o - 0x400) / 16) (o % 16 / 8) m s
  else if 0x800 ≤ o && o < 0xC00 then execWatchpointSlotWrite p fn ((o - 0x800) / 32) (o % 32 / 8) m s
  else .next s

/-- The address bits that a BAR register holds (R254): of 128 KiB, 4 GiB and 64 KiB. -/
def barMask (k : Nat) : Word :=
  if k % 6 = 0 then 0xFFFE0000 else if k % 6 = 2 then 0 else if k % 6 = 4 then 0xFFFF0000 else 0xFFFFFFFF
/-- A write to BAR register k, counting the VF BAR registers from 6 (R254). -/
def Pkg.writeBar (p : Pkg) (k : Nat) (v : Word) : Pkg :=
  { p with bars := p.bars.set k ((v &&& barMask k) ||| (barsInit.getD k 0 &&& 0xF)) }

/-- A host write of 1 to 8 bytes: to BAR 0 or BAR 4 within one 64-bit word, to the doorbell page, or (bar 6, log entry 94) to a BAR
register of the physical function; function 65 is the management controller, which has a mailbox and no BAR 0 (R263). -/
def State.writeRegister (s : State) (p fn bar off size : Nat) (v : DWord) : Out :=
  let doorbell := decide (bar = 0) && decide (0x10000 ≤ off) && decide (off < 0x20000)
  if size = 0 || (8 < off % 8 + size && !doorbell) then .next s
  else if hostFn fn && bar = 0 && off < 0x20000 then s.writeBar0 p fn off size v
  else if (hostFn fn || fn = mctpFn) && bar = 4 && off < 0x10000 then s.writeBar4 p fn off size v
  else if fn = 0 && bar = 6 && off % 4 = 0 && off < 48 && size = 4 then .next (s.modPkg p (·.writeBar (off / 4) (v.setWidth 32)))
  else .next s

/-! ## The consumer's end of a trace buffer (R268) -/

/-- TRRD_WRITE (R268): in the buffer at the effective TRBASE and TRBLOCKS of a block. -/
def execTrrdWrite (p blk : Nat) (v : Word) (s : State) : Out := .next (
  let (base, blocks) := s.effTrace p blk
  if blocks < 3 then s else s.trrdAt p base blocks v)

/-! ## The window (R259) -/

inductive WinPage where
  /-- a package holds the page -/
  | ok
  /-- the page is on its way, or a frame is awaited -/
  | wait
  /-- R144 would post a fault -/
  | miss
  /-- another tenant's page -/
  | foreign
  deriving DecidableEq, Repr

/-- The tenant that a function's window serves: none for the physical function (R259). -/
def Pkg.boundTenant (p : Pkg) (fn : Nat) : Option Nat := if fn = 0 then none else p.actsOn fn

/-- Bring about that some package holds a page, as R259 lets a window access do. -/
def State.windowPage (s : State) (p fn g : Nat) : State × WinPage :=
  let tenant := (s.pkgD p).boundTenant fn
  match s.masterOf g with
  | some m => match tenant with
    | some t => if (s.tagOf m g).owner = t then (s, .ok) else (s, .foreign)
    | none => (s, if fn = 0 then .ok else .foreign)
  | none => match tenant with
    | none => (s, if fn = 0 then .miss else .foreign)
    | some t =>
      let (s, c, l) := s.climb 0 p g 3 0
      let seen := SMap.find? (s.pkgD p).hostSeen g
      let s := (s.climbTo p g seen.isSome (seen.getD 0) (min l 2)).modPkg p (fun k =>
        { k with hostSeen := SMap.put k.hostSeen g (max (seen.getD 0) (min l 2)) })
      match c with
      | .wait _ | .turn .. => (s, .wait)
      | .lost => (s, if s.lostOwner g = some t then .miss else .foreign)
      | .backed slot =>
        if ((s.entryAt g 2 0).map (·.owner)) = some t then
          let (s, ok) := s.readBack 0 p g (((s.tenantBlock p t).map (·.1)).getD 0) slot
          (s, if ok then .ok else .wait)
        else (s, .foreign)
      | .nothing =>
        match s.tenantBlock p t with
        | none => (s, .miss)
        | some (a, _) =>
          let (touch, mirror) := s.effTouch p a
          if touch then
            let (s, ok) := s.firstTouch 0 p g t a 0 false mirror false
            (s, if ok then .ok else .wait)
          else (s, .miss)

/-- The pages of an access, one after the other. -/
def State.windowPages (s : State) (p fn ga size : Nat) : State × WinPage :=
  let (s, r) := s.windowPage p fn (ga / 65536)
  if r = .ok && (ga + size - 1) / 65536 ≠ ga / 65536 then s.windowPage p fn ((ga + size - 1) / 65536) else (s, r)

/-- The global address of an offset of BAR 2. -/
def State.windowAddr (s : State) (p fn off : Nat) : Nat := bitsOf ((s.pkgD p).ctlOf fn).winbase.toNat 55 32 * 2 ^ 32 + off

/-- A read through the window (R259); `false` while its page is on the way. -/
def State.windowRead (s : State) (p fn off size : Nat) : State × Bool :=
  let ones : Signal := .read fn (BitVec.ofNat 64 (2 ^ (8 * size) - 1))
  if !s.barOpen p then (s.signal p ones, true)
  else
    let ga := s.windowAddr p fn off
    match s.windowPages p fn ga size with
    | (s, .ok) =>
      let (s, bs) := s.partRead p ga size
      (s.signal p (.read fn (BitVec.ofNat 64 (leNat bs))), true)
    | (s, .wait) => (s, false)
    | (s, .miss) => ((s.tally p 31).signal p ones, true)
    | (s, .foreign) => ((s.refuseHost p fn).signal p ones, true)

/-- A write through the window (R259), never of a TAG bit; `false` while its page is on the way. -/
def State.windowWrite (s : State) (p fn off size : Nat) (v : DWord) : State × Bool :=
  if !s.barOpen p then (s, true)
  else
    let ga := s.windowAddr p fn off
    match s.windowPages p fn ga size with
    | (s, .ok) =>
      let bs := s.storable ga (leBytes size v.toNat)
      ((s.trrdStore p ga bs).getD (s.partWrite p ga bs), true)
    | (s, .wait) => (s, false)
    | (s, .miss) => (s.tally p 31, true)
    | (s, .foreign) => (s.refuseHost p fn, true)

/-! ## The order of the host's accesses (R195, R257, R259) -/

/-- The access of BAR 2 is one of 1 to 8 bytes within the 4 GiB. -/
def windowHolds (fn off size : Nat) : Bool := hostFn fn && decide (1 ≤ size) && decide (size ≤ 8) && decide (off + size ≤ 2 ^ 32)

/-- Perform an access of the host; `false` while it waits for a page. -/
def State.hostPerform (s : State) (p fn : Nat) : HostAccess → State × Bool
  | .read off size => if windowHolds fn off size then s.windowRead p fn off size else (s, true)
  | .write off size v => if windowHolds fn off size then s.windowWrite p fn off size v else (s, true)
  | .register bar off size v => (match s.writeRegister p fn bar off size v with | .next s => s | _ => s, true)
  | .doorbell off size v => (s.doorbell p fn off size v, true)

/-- An access of the window is over: its climb is forgotten. -/
def State.hostDone (s : State) (p : Nat) : HostAccess → State
  | .read .. | .write .. => if (s.pkgD p).hostSeen.isEmpty then s else s.modPkg p (fun q => { q with hostSeen := [] })
  | _ => s

/-- A bridge's accesses act in the order PCI Express delivers them, whatever their function: one that comes while another waits for its
page stands behind it. -/
def State.hostAccess (s : State) (p fn : Nat) (i : HostAccess) : State :=
  let queue (s : State) : State := s.modPkg p (fun q => { q with hostQ := q.hostQ ++ [(fn, i)] })
  if (s.pkgD p).hostQ.isEmpty then
    match s.hostPerform p fn i with
    | (s, true) => s.hostDone p i
    | (s, false) => (queue s).later (.windowRead p fn 0 0)
  else queue s

/-- The accesses that wait are tried in order, as far as their pages are there. -/
def State.hostDrain : Nat → Nat → State → State
  | 0, _, s => s
  | n + 1, p, s =>
    match (s.pkgD p).hostQ with
    | [] => s
    | (fn, i) :: rest => match s.hostPerform p fn i with
      | (s, false) => s.later (.windowRead p fn 0 0)
      | (s, true) => State.hostDrain n p ((s.modPkg p (fun q => { q with hostQ := rest })).hostDone p i)

/-- WINDOW_READ (R259). One of size 0 is the bridge's own: it tries the waiting accesses again. -/
def execWindowRead (p fn off size : Nat) (s : State) : Out := .next (
  if size = 0 then State.hostDrain (s.pkgD p).hostQ.length p s else s.hostAccess p fn (.read off size))

/-- WINDOW_WRITE (R259). -/
def execWindowWrite (p fn off size : Nat) (v : DWord) (s : State) : Out := .next (s.hostAccess p fn (.write off size v))

/-- REGISTER_WRITE (R255, R274). -/
def execRegisterWrite (p fn bar off size : Nat) (v : DWord) (s : State) : Out :=
  .next (s.hostAccess p fn (.register bar off size v))

/-- QUEUE_TAIL_DOORBELL (R257). -/
def execQueueTailDoorbell (p fn off size : Nat) (v : DWord) (s : State) : Out :=
  .next (s.hostAccess p fn (.doorbell off size v))

/-! ## The time series (R273) -/

/-- Write bytes into the series ring, wrapping at TSSIZE. -/
def State.ringWrite (s : State) (p base size at_ : Nat) (bs : List Byte) : State :=
  let n := size - at_
  let s := s.partWrite p (base + at_) (bs.take n)
  if n < bs.length then s.partWrite p base (bs.drop n) else s

/-- The bytes of a snapshot. -/
def Latch.bytes (l : Latch) : List Byte :=
  leBytes 8 l.tick ++ leBytes 8 (l.k * 2 ^ 59 + l.banks * 2 ^ 53 + l.seq % 2 ^ 32) ++
    leBytes 8 l.values.length ++ leBytes 8 0 ++ l.values.flatMap (fun v => leBytes 8 v.toNat)

/-- TIMESERIES_TICK (R273): the oldest latched snapshot is appended to the ring, or skipped where it does not fit. -/
def execTimeseriesTick (p : Nat) (s : State) : Out := .next (
  let r := (s.pkgD p).series
  match r.latches with
  | [] => s
  | l :: rest =>
    let bs := l.bytes
    let space := if r.wr = r.rd then r.size else (r.rd + r.size - r.wr) % r.size
    let s := s.modPkg p (fun q => { q with series := { q.series with latches := rest } })
    if space ≤ bs.length || r.size ≤ r.wr then s.tally p 36
    else (s.ringWrite p r.base r.size r.wr bs).modPkg p (fun q => { q with series := { q.series with wr := (r.wr + bs.length) % r.size } }))

end Sys2Proof.Machine
end

