-- ==== Sys2Proof/Machine/Sha3.lean ====
section
/-! DEFINITION. SHA3-256, which R286 and R290 name: the fixed function of the FIPS 202 standard, which the spec does not repeat (log
entry 22). A digest of 32 bytes is a number whose low byte comes first. -/

namespace Sys2Proof.Machine

/-- The rotations of the 25 lanes, lane x + 5y. -/
def keccakRotations : List Nat :=
  [0, 1, 62, 28, 27] ++ [36, 44, 6, 55, 20] ++ [3, 10, 43, 25, 39] ++ [41, 45, 15, 21, 8] ++ [18, 2, 61, 56, 14]
/-- The constants of the 24 rounds. -/
def keccakConstants : List DWord :=
  [0x1, 0x8082, 0x800000000000808A, 0x8000000080008000, 0x808B, 0x80000001] ++
  [0x8000000080008081, 0x8000000000008009, 0x8A, 0x88, 0x80008009, 0x8000000A] ++
  [0x8000808B, 0x800000000000008B, 0x8000000000008089, 0x8000000000008003, 0x8000000000008002, 0x8000000000000080] ++
  [0x800A, 0x800000008000000A, 0x8000000080008081, 0x8000000000008080, 0x80000001, 0x8000000080008008]

/-- One round of the permutation on 25 lanes. -/
def keccakRound (a : List DWord) (rc : DWord) : List DWord :=
  let column := (List.range 5).map (fun x => (List.range 5).foldl (fun (c : DWord) y => c ^^^ a.getD (x + 5 * y) 0) 0)
  let mixed := (List.range 25).map (fun i =>
    a.getD i 0 ^^^ column.getD ((i + 4) % 5) 0 ^^^ (column.getD ((i + 1) % 5) 0).rotateLeft 1)
  let turned := (List.range 25).map (fun i =>
    let from_ := (i % 5 + 3 * (i / 5)) % 5 + 5 * (i % 5)
    (mixed.getD from_ 0).rotateLeft (keccakRotations.getD from_ 0))
  let out := (List.range 25).map (fun i =>
    turned.getD i 0 ^^^ (~~~(turned.getD (i / 5 * 5 + (i + 1) % 5) 0) &&& turned.getD (i / 5 * 5 + (i + 2) % 5) 0))
  out.set 0 (out.getD 0 0 ^^^ rc)

/-- Absorb the lanes of one block of 136 bytes. -/
def keccakAbsorb (a : List DWord) (block : List Byte) : List DWord :=
  let lane (i : Nat) : DWord := BitVec.ofNat 64 (leNat ((block.drop (8 * i)).take 8))
  keccakConstants.foldl keccakRound ((List.range 25).map (fun i => if i < 17 then a.getD i 0 ^^^ lane i else a.getD i 0))

/-- SHA3-256 of a message. -/
def sha3 (m : List Byte) : BitVec 256 :=
  let n := m.length / 136 + 1
  let pad := 136 * n - m.length
  let p := m ++ (if pad = 1 then [0x86] else [0x06] ++ List.replicate (pad - 2) 0 ++ [0x80])
  let a := (List.range n).foldl (fun a i => keccakAbsorb a ((p.drop (136 * i)).take 136)) (List.replicate 25 (0 : DWord))
  BitVec.ofNat 256 (leNat ((List.range 4).flatMap (fun i => leBytes 8 (a.getD i 0).toNat)))

end Sys2Proof.Machine
end

