-- ==== Sys2Proof/Machine/Boot.lean ====
section
/-! DEFINITION. Power-up, SAFE and READY (R286 to R289), attestation (R290), integrity (R291, R292), throttling (R293), holdover and
PTP (R264). -/

namespace Sys2Proof.Machine

def State.modBoot (s : State) (p : Nat) (f : Boot → Boot) : State := s.modPkg p (fun q => { q with boot := f q.boot })
/-- A package whose power is good stands in a phase of R286. -/
def State.inPhase (s : State) (p n : Nat) : Bool :=
  match s.pkg? p with | some q => q.boot.powered && decide (q.boot.phase = n) | none => false

/-! ## Phases (R286) -/

/-- POWER_GOOD (R286, R287): phase IMAGE begins. A package that has not stood in the pod before, or that was lost before its power went,
takes its place there, and hosts the nodes that R141 gives it. -/
def execPowerGood (p : Nat) (s : State) : Out := .next (
  if 4096 ≤ p then s
  else
    if (s.pkgD p).boot.powered then s
    else
      let s := if (s.pkg? p).isNone || (s.pkgD p).lost then State.rehost s { s with pkgs := SMap.put s.pkgs p Pkg.init } else s
      s.modBoot p (fun _ => { Boot.init with powered := true }))

/-- The first failure of a phase leads to SAFE (R286, R288). -/
def Boot.safe (b : Boot) (code kind unit : Nat) : Boot := { b with phase := 4, failcode := code, failkind := kind, failunit := unit }

/-- Requests that arrived in phase 0 are answered once the part has left it (R290). -/
def State.wakeAttest (s : State) (p : Nat) : State :=
  if (s.pkgD p).boot.attQ.isEmpty then s else s.laterOnce (.attestationSigned p)

/-- IMAGE_PHASE_END (R286, R290): for each slot whether its signature verifies, its IMGVER, and its bytes as read from flash. -/
def execImagePhaseEnd (p : Nat) (ok0 ok1 : Bool) (ver0 ver1 : BitVec 32) (slot0 slot1 : List Byte) (s : State) : Out := .next (
  if !s.inPhase p 0 then s
  else
    let one := ok1 && (!ok0 || decide (ver0.toNat < ver1.toNat))
    (s.modBoot p (fun b =>
      if !ok0 && !ok1 then { b.safe 1 11 0 with imgver := 0, imgok := false, digest := sha3 slot0 }
      else { b with phase := 1, imgok := true, imgver := if one then ver1 else ver0, digest := sha3 (if one then slot1 else slot0) })).wakeAttest p)

/-- REPAIR_PHASE_END (R286): a value out of range, by its unit, or the die identities, the soft-repair and the trim values of the image. -/
def execRepairPhaseEnd (p : Nat) (fail : Option UnitFail) (values : ImageValues) (s : State) : Out := .next (
  if !s.inPhase p 1 || !fail.all UnitFail.inPart then s
  else s.modBoot p (fun b => match fail with
    | some u => b.safe 2 u.kind u.unit
    | none => { b with phase := 2, ids := values.ids.take 8, repair := values.repair, trim := values.trim }))

/-- SELFTEST_END (R286, R288): the failed units, first failure first. In READY every BAR is open and the sequencer starts. -/
def execSelftestEnd (p : Nat) (fails : List UnitFail) (s : State) : Out := .next (
  if !s.inPhase p 2 || !fails.all UnitFail.ofSelftest then s
  else match fails with
    | [] => (s.modBoot p (fun b => { b with phase := 3, reslog := [] })).poke p
    | u :: _ => s.modBoot p (fun b => { b.safe u.code u.kind u.unit with reslog := fails.take 512 }))

/-- POWER_LOSS (R287, R288): the package's whole state goes; that it was declared lost stays known to the others until its power is good
again. Global memory goes with the last package that holds it. -/
def execPowerLoss (p : Nat) (s : State) : Out := .next (
  if !(s.pkgD p).boot.powered then s
  else
    let pages := ((s.pkgD p).frames.filter (fun ((_, t) : Nat × FrameTag) => decide (t.state ≠ 0))).map (fun ((_, t) : Nat × FrameTag) => t.gpn)
    let lost := (s.pkgD p).lost
    let s := (s.loseWork p).loseOps p none
    let s := pages.foldl (fun s g => State.dropPoison s g p) { s with pkgs := SMap.modify s.pkgs p (fun _ => { Pkg.init with lost := lost }) }
    let others := s.pkgs.filter (fun ((_, q) : Nat × Pkg) => q.boot.powered && !q.lost)
    if others.isEmpty then { s with gmem := [], lmeta := [], pageCmp := [] }
    else
      let gone := pages.filter (fun g => (s.holdersOf g).isEmpty)
      { s with
        gmem := s.gmem.filter (fun ((a, _) : Nat × Byte) => !decide (a / 65536 ∈ gone)),
        lmeta := s.lmeta.filter (fun ((n, _) : Nat × LineMeta) => !decide (n / 512 ∈ gone)),
        pageCmp := s.pageCmp.filter (fun ((g, _) : Nat × PageCmp) => !decide (g ∈ gone)) })

/-! ## Attestation (R290) -/

/-- Bytes +0x000 to +0x16F of the response. -/
def Boot.claim (b : Boot) (nonce : BitVec 256) : List Byte :=
  leBytes 32 nonce.toNat ++ leBytes 8 (b.imgver.toNat + bitOf b.imgok * 2 ^ 32) ++ leBytes 32 b.digest.toNat ++
    leBytes 32 (sha3 b.logBytes).toNat ++ leBytes 8 b.stat ++
    (List.range 8).flatMap (fun d => leBytes 32 (b.ids[d]?.getD 0).toNat)
/-- The response of 2,788 bytes: the claim and its signature. -/
def Boot.response (b : Boot) (nonce : BitVec 256) : List Byte := b.claim nonce ++ leBytes 2420 (Config.sign (b.claim nonce)).toNat

/-- ATTESTATION_REQUEST (R290): over MCTP, or through NONCE and ATTREQ of the physical function. -/
def execAttestationRequest (p : Nat) (mctp : Bool) (nonce : BitVec 256) (s : State) : Out := .next (
  if !(s.pkgD p).boot.powered then s
  else if mctp then s.attest p 0 true nonce
  else (s.modMbox p 0 (fun m => { m with nonce := nonce })).attest p 0 false nonce)

/-- ATTESTATION_SIGNED (R290): the oldest request is answered, over MCTP or in ATTRESP; VALID says that the nonce is still the
current one. -/
def execAttestationSigned (p : Nat) (s : State) : Out := .next (
  let b := (s.pkgD p).boot
  if b.phase = 0 then s
  else match b.attQ with
    | [] => s
    | (mctp, fn, nonce) :: rest =>
      let bytes := b.response nonce
      let s := s.modBoot p (fun b => { b with attQ := rest })
      let s := if mctp then s.signal p (.mctp bytes)
        else s.modMbox p fn (fun m => { m with
          attresp := bytes,
          attstat := bitOf (rest.any (fun (c, f, _) => !c && decide (f = fn))) + 2 * bitOf (decide (m.nonce = nonce)) })
      s.wakeAttest p)

/-! ## Integrity (R291, R292) -/

/-- A frame tag is lost: its page is treated as by a loss of the package, for that frame only (R157, R292). -/
def State.loseFrame (s : State) (p f : Nat) : State :=
  let t := (s.pkgD p).frame f
  if t.state = 0 then s
  else
    let s := (s.loseOps p (some t.gpn)).flushPage p t.gpn
    (s.clearFrame p f).losePage p t

/-- A directory entry is lost: the page's master frame is treated as lost, or the page itself where no frame is its master. -/
def State.loseEntry (s : State) (p d i : Nat) : State :=
  match ((((s.pkgD p).dirSet d).entries)[i]?).join with
  | none => s
  | some e =>
    match (s.firstMaster e.gpn).bind (fun m => ((s.pkgD m).frameOf e.gpn).map (fun f => (m, f))) with
    | some (m, f) => s.loseFrame m f
    | none => s.markLost e.gpn e.owner

/-- SOFT_ERROR (R262, R291, R292): CHECK corrects an error within one 8-bit symbol of a stored line; any other is a mismatch that the next
consumer of the package's copy takes (log entry 120). -/
def execSoftError (p : Nat) (e : SoftError) (s : State) : Out := .next (
  match e with
  | .line n k => if k ≤ 1 || (s.pkgD p).pageState (n / 512) = 0 then s else s.modMeta (128 * n) (fun m => { m with poison := insertNat m.poison p })
  | .frame f => s.loseFrame p f
  | .dirEntry d i => s.loseEntry p d i
  | .held g t => match s.thread? ⟨g, t⟩ with
    | some h => if h.exited then s else s.integrityFail ⟨g, t⟩ h.place.core
    | none => s
  | .credit n vc => s.modPkg p (fun q => q.modPort n (fun k => { k with credits := k.credits.modify vc (· - 1) }))
  | .slot n seq => s.modPkg p (fun q => q.modPort n (fun k =>
      if k.replay.any (fun f => decide (f.seq = seq)) || decide ((seq + 65536 - k.txAck) % 65536 < (k.txNext + 65536 - k.txAck) % 65536) then
        { k with lost := insertNat k.lost seq } else k)))

/-- SCRUB (R292): a stored line with an uncorrectable mismatch, or with a line code of 4 to 7 (R123), is stored with poison. -/
def execScrub (p line : Nat) (s : State) : Out := .next (
  if (s.pkgD p).pageState (line / 512) ≠ 0 && decide (4 ≤ (s.lineMeta (128 * line)).cmp) then
    s.modMeta (128 * line) (fun m => { m with poison := insertNat m.poison p })
  else s)

/-! ## Throttling (R293) -/

/-- Power at or below 3,400 W and every sensor at or below 100 °C. -/
def coolEnough (power temp : Nat) : Bool := decide (power ≤ 3400) && decide (temp ≤ 100)
/-- Note since when the package has been cool. -/
def Pkg.noteCool (q : Pkg) (power temp : Nat) : Pkg :=
  { q with boot := { q.boot with lowSince := if coolEnough power temp then (q.boot.lowSince.orElse (fun _ => some q.cyc)) else none } }

/-- THROTTLE_RAISE (R293): the check, once in every 10 µs, with the mean power of the last 1 ms in W and the hottest sensor in °C. -/
def execThrottleRaise (p power temp : Nat) (s : State) : Out := .next (
  s.modPkg p (fun q =>
    let q := q.noteCool power temp
    if q.cyc / 10000 ≤ q.boot.raisedAt / 10000 then q
    else
      let up := decide (3600 < power) || decide (105 < temp)
      { q with boot := { q.boot with raisedAt := q.cyc, thrlvl := if up then min 15 (q.boot.thrlvl + 1) else q.boot.thrlvl } }))

/-- THROTTLE_LOWER (R293): after 100 µs at or below the lower limits the level falls by one. -/
def execThrottleLower (p power temp : Nat) (s : State) : Out := .next (
  s.modPkg p (fun q =>
    let q := q.noteCool power temp
    match q.boot.lowSince with
    | some t => if t + 100000 ≤ q.cyc then { q with boot := { q.boot with thrlvl := q.boot.thrlvl - 1, lowSince := some q.cyc } } else q
    | none => q))

/-! ## Holdover and PTP (R264) -/

/-- A record of code 14 goes to every buffer of the package with the code enabled (R266, R270). -/
def State.traceHoldover (s : State) (p pay0 : Nat) : State :=
  let bufs := ((s.pkgD p).blocks.filterMap (fun ((a, b) : Nat × Block) =>
    if b.leaf && decide (b.state ≠ 0) && (s.effDbg p a).getLsbD 7 then some (s.effTrace p a) else none)).eraseDups
  bufs.foldl (fun s (base, n) => if n = 0 then s else State.traceInto s p base n 14 ⟨0, 0, 0, true, 8⟩ pay0 0) s

/-- HOLDOVER_ENTER (R264): the counter runs free. -/
def execHoldoverEnter (p : Nat) (s : State) : Out := .next (
  if (s.pkgD p).holdover || !(s.pkgD p).boot.powered then s
  else (s.modPkg p (fun q => { q with holdover := true, slew := 0 })).traceHoldover p 1)

/-- HOLDOVER_LEAVE (R264). -/
def execHoldoverLeave (p : Nat) (s : State) : Out := .next (
  if !(s.pkgD p).holdover then s else (s.modPkg p (fun q => { q with holdover := false })).traceHoldover p 0)

/-- PTP_MESSAGE (R264): the offset to the master, in 1/256 ns, is slewed at no more than 100 parts per million. -/
def execPtpMessage (p : Nat) (offset : Int) (s : State) : Out := .next (
  if (s.pkgD p).holdover || !(s.pkgD p).boot.powered then s else s.modPkg p (fun q => { q with slew := offset }))

end Sys2Proof.Machine
end

