-- ==== Sys2Proof/Machine/Integer.lean ====
section
/-! DEFINITION. Integer, logic, shift, compare and bit-field instructions (R313, R316, R321, R347 to R351, R362, R369, R405). -/

namespace Sys2Proof.Machine

/-- IADD (R347). -/
def execIadd (d a b : Nat) (s : State) : Out :=
  alu3 s d a b (· + ·)
/-- IADD.S64 (R347). -/
def execIadd64 (d a b : Nat) (s : State) : Out :=
  alu3w s d a b (· + ·)
/-- IADD with an immediate (R347). -/
def execIaddImm (d a : Nat) (imm : BitVec 12) (s : State) : Out :=
  alu2 s d a (· + imm.signExtend 32)
/-- ISUB (R347). -/
def execIsub (d a b : Nat) (s : State) : Out :=
  alu3 s d a b (· - ·)
/-- ISUB.S64 (R347). -/
def execIsub64 (d a b : Nat) (s : State) : Out :=
  alu3w s d a b (· - ·)
/-- IMUL (R347): the low half. -/
def execImul (d a b : Nat) (s : State) : Out :=
  alu3 s d a b (· * ·)
/-- IMUL.S64 (R347): the low half. -/
def execImul64 (d a b : Nat) (s : State) : Out :=
  alu3w s d a b (· * ·)
/-- IMULH.S32 (R347): bits 63:32 of the signed product. -/
def execImulhS32 (d a b : Nat) (s : State) : Out :=
  alu3 s d a b (fun x y => wrapTo 32 (x.toInt * y.toInt / 2 ^ 32))
/-- IMULH.Z32 (R347): bits 63:32 of the unsigned product. -/
def execImulhZ32 (d a b : Nat) (s : State) : Out :=
  alu3 s d a b (fun x y => BitVec.ofNat 32 (x.toNat * y.toNat / 2 ^ 32))
/-- IMAD (R347, R349): reads d as its addend. -/
def execImad (d a b : Nat) (s : State) : Out :=
  alu3d s d a b (fun z x y => x * y + z)
/-- IMAD.S64 (R347, R349). -/
def execImad64 (d a b : Nat) (s : State) : Out :=
  alu3wd s d a b (fun z x y => x * y + z)
/-- A 32-bit value read by sext for .S and by zext for .Z (R347). -/
def intOf (sg : Sgn) (x : Word) : Int := match sg with | .s => x.toInt | .z => (x.toNat : Int)
def intOf64 (sg : Sgn) (x : DWord) : Int := match sg with | .s => x.toInt | .z => (x.toNat : Int)
/-- The quotient and the remainder of R348. -/
def divRem (x y : Int) : Int × Int := if y = 0 then (-1, x) else let q := Int.tdiv x y; (q, x - q * y)
/-- IDIV (R348). -/
def execIdiv (sg : Sgn) (d a b : Nat) (s : State) : Out :=
  alu3 s d a b (fun x y => wrapTo 32 (divRem (intOf sg x) (intOf sg y)).1)
/-- IREM (R348). -/
def execIrem (sg : Sgn) (d a b : Nat) (s : State) : Out :=
  alu3 s d a b (fun x y => wrapTo 32 (divRem (intOf sg x) (intOf sg y)).2)
/-- IMIN (R347). -/
def execImin (sg : Sgn) (d a b : Nat) (s : State) : Out :=
  alu3 s d a b (fun x y => if intOf sg y < intOf sg x then y else x)
/-- IMIN.S64 and .Z64 (R347). -/
def execImin64 (sg : Sgn) (d a b : Nat) (s : State) : Out :=
  alu3w s d a b (fun x y => if intOf64 sg y < intOf64 sg x then y else x)
/-- IMAX (R347). -/
def execImax (sg : Sgn) (d a b : Nat) (s : State) : Out :=
  alu3 s d a b (fun x y => if intOf sg x < intOf sg y then y else x)
/-- IMAX.S64 and .Z64 (R347). -/
def execImax64 (sg : Sgn) (d a b : Nat) (s : State) : Out :=
  alu3w s d a b (fun x y => if intOf64 sg x < intOf64 sg y then y else x)
/-- IABS (R347). -/
def execIabs (d a : Nat) (s : State) : Out :=
  alu2 s d a (fun x => wrapTo 32 (x.toInt.natAbs : Int))
/-- IABS.S64 (R347). -/
def execIabs64 (d a : Nat) (s : State) : Out :=
  alu2w s d a (fun x => wrapTo 64 (x.toInt.natAbs : Int))
/-- INEG (R347). -/
def execIneg (d a : Nat) (s : State) : Out :=
  alu2 s d a (fun x => -x)
/-- INEG.S64 (R347). -/
def execIneg64 (d a : Nat) (s : State) : Out :=
  alu2w s d a (fun x => -x)
/-- AND (R313). -/
def execAnd (d a b : Nat) (s : State) : Out :=
  alu3 s d a b (· &&& ·)
/-- AND.S64 (R313). -/
def execAnd64 (d a b : Nat) (s : State) : Out :=
  alu3w s d a b (· &&& ·)
/-- ANDN (R313). -/
def execAndn (d a b : Nat) (s : State) : Out :=
  alu3 s d a b (fun x y => x &&& ~~~y)
/-- ANDN.S64 (R313). -/
def execAndn64 (d a b : Nat) (s : State) : Out :=
  alu3w s d a b (fun x y => x &&& ~~~y)
/-- OR (R369). -/
def execOr (d a b : Nat) (s : State) : Out :=
  alu3 s d a b (· ||| ·)
/-- OR.S64 (R369). -/
def execOr64 (d a b : Nat) (s : State) : Out :=
  alu3w s d a b (· ||| ·)
/-- XOR (R405). -/
def execXor (d a b : Nat) (s : State) : Out :=
  alu3 s d a b (· ^^^ ·)
/-- XOR.S64 (R405). -/
def execXor64 (d a b : Nat) (s : State) : Out :=
  alu3w s d a b (· ^^^ ·)
/-- SHL, SHR, SAR and ROT of R369 over n bits, by an unbounded count. -/
def shlN {n : Nat} (x : BitVec n) (c : Nat) : BitVec n := if c < n then x <<< c else 0
def shrN {n : Nat} (x : BitVec n) (c : Nat) : BitVec n := if c < n then x >>> c else 0
def sarN {n : Nat} (x : BitVec n) (c : Nat) : BitVec n := x.sshiftRight (min c (n - 1))
def rotN {n : Nat} (x : BitVec n) (c : Nat) : BitVec n := x.rotateLeft (c % n)
/-- SHL (R369). -/
def execShl (d a b : Nat) (s : State) : Out :=
  alu3 s d a b (fun x y => shlN x y.toNat)
/-- SHL.S64 (R369): the count is a single register. -/
def execShl64 (d a b : Nat) (s : State) : Out :=
  aluShw s d a b shlN
/-- SHR (R369). -/
def execShr (d a b : Nat) (s : State) : Out :=
  alu3 s d a b (fun x y => shrN x y.toNat)
/-- SHR.S64 (R369): the count is a single register. -/
def execShr64 (d a b : Nat) (s : State) : Out :=
  aluShw s d a b shrN
/-- SAR (R369). -/
def execSar (d a b : Nat) (s : State) : Out :=
  alu3 s d a b (fun x y => sarN x y.toNat)
/-- SAR.S64 (R369): the count is a single register. -/
def execSar64 (d a b : Nat) (s : State) : Out :=
  aluShw s d a b sarN
/-- ROT (R369). -/
def execRot (d a b : Nat) (s : State) : Out :=
  alu3 s d a b (fun x y => rotN x y.toNat)
/-- ROT.S64 (R369): the count is a single register. -/
def execRot64 (d a b : Nat) (s : State) : Out :=
  aluShw s d a b rotN
/-- CLZ (R321). -/
def execClz (d a : Nat) (s : State) : Out :=
  alu2 s d a (fun x => if x = 0 then 32 else BitVec.ofNat 32 (31 - Nat.log2 x.toNat))
/-- POPC (R369). -/
def execPopc (d a : Nat) (s : State) : Out :=
  alu2 s d a (fun x => BitVec.ofNat 32 ((List.range 32).countP (fun i => x.getLsbD i)))
/-- BREV (R321): bit i moves to bit 31 - i. -/
def execBrev (d a : Nat) (s : State) : Out :=
  alu2 s d a (fun x => x.reverse)
/-- The condition of ISET on n-bit values (R351). -/
def icompare {n : Nat} (c : ICmp) (x y : BitVec n) : Bool :=
  match c with
  | .eq => x == y
  | .ne => x != y
  | .ltS => x.slt y
  | .leS => x.sle y
  | .ltZ => x.ult y
  | .leZ => x.ule y
/-- ISET (R351): writes every bit of the predicate. -/
def execIset (w : Width) (c : ICmp) (p a b : Nat) (s : State) : Out :=
  match w with
  | .w32 => governed s [(a, 1), (b, 1)] (fun k _ _ => s.retire k (fun t => t.wrP p (predOf (icompare c (t.rd a) (t.rd b)))))
  | .w64 => governed s [(a, 2), (b, 2)] (fun k _ _ => s.retire k (fun t => t.wrP p (predOf (icompare c (t.rd64 a) (t.rd64 b)))))
/-- ISEL (R350). -/
def execIsel (n d a b : Nat) (s : State) : Out :=
  governed s [(d, 1), (a, 1), (b, 1)] (fun k _ _ => s.retire k (fun t =>
    t.wr d (if (t.rdP n).getLsbD 0 then t.rd a else t.rd b)))
/-- LEA (R362): an address without an access, untagged. -/
def execLea (d a : Nat) (imm : BitVec 12) (s : State) : Out :=
  alu2w s d a (· + imm.signExtend 64)
/-- The field of R316: position, and length clipped at bit 31. -/
def bfField (b : Word) : Nat × Nat := let pos := bitsOf b.toNat 4 0; (pos, min (bitsOf b.toNat 13 8) (32 - pos))
/-- BFX (R316). -/
def execBfx (sg : Sgn) (d a b : Nat) (s : State) : Out :=
  alu3 s d a b (fun x y =>
    let (pos, w) := bfField y
    let f := x.toNat / 2 ^ pos % 2 ^ w
    if w = 0 then 0
    else match sg with
      | .z => BitVec.ofNat 32 f
      | .s => if 2 ^ (w - 1) ≤ f then BitVec.ofNat 32 (2 ^ 32 + f - 2 ^ w) else BitVec.ofNat 32 f)
/-- BFI (R316): reads d as a source. -/
def execBfi (d a b : Nat) (s : State) : Out :=
  alu3d s d a b (fun z x y =>
    let (pos, w) := bfField y
    BitVec.ofNat 32 (z.toNat - z.toNat / 2 ^ pos % 2 ^ w * 2 ^ pos + x.toNat % 2 ^ w * 2 ^ pos))

end Sys2Proof.Machine
end

