-- ==== Sys2Proof/Machine/Packed.lean ====
section
/-! DEFINITION. Packed vector instructions (R391 to R394). -/

namespace Sys2Proof.Machine

/-- VADD on integers (R392). -/
def execVaddInt (t : VInt) (d a b : Nat) (s : State) : Out :=
  packedInt s t d a b (· + ·)
/-- VSUB on integers (R392). -/
def execVsubInt (t : VInt) (d a b : Nat) (s : State) : Out :=
  packedInt s t d a b (· - ·)
/-- VMUL on integers (R392). -/
def execVmulInt (t : VInt) (d a b : Nat) (s : State) : Out :=
  packedInt s t d a b (· * ·)
/-- VMIN on integers (R392). -/
def execVminInt (t : VInt) (d a b : Nat) (s : State) : Out :=
  packedInt s t d a b min
/-- VMAX on integers (R392). -/
def execVmaxInt (t : VInt) (d a b : Nat) (s : State) : Out :=
  packedInt s t d a b max
/-- VDOT4 (R392): reads d as its addend. -/
def execVdot4 (d a b : Nat) (s : State) : Out :=
  packedForm s [(d, 1), (a, 1), (b, 1)] 8 4 (fun k _ _ => s.retire k (fun t =>
    t.wr d (wrapTo 32 ((List.range 4).foldl (fun acc j =>
      if govBit (t.rdP 0) 8 j then acc + subInt 8 j (t.rd a) * subInt 8 j (t.rd b) else acc) (t.rd d).toInt))))
/-- VADD (R393). -/
def execVaddFloat (t : VFloat) (d a b : Nat) (s : State) : Out :=
  packedFloat s t d a b (fun f t _ x y => f.add t.ftz t.rm x y)
/-- VSUB (R393). -/
def execVsubFloat (t : VFloat) (d a b : Nat) (s : State) : Out :=
  packedFloat s t d a b (fun f t _ x y => f.add t.ftz t.rm x y.neg)
/-- VMUL (R393). -/
def execVmulFloat (t : VFloat) (d a b : Nat) (s : State) : Out :=
  packedFloat s t d a b (fun f t _ x y => f.mul t.ftz t.rm x y)
/-- VMIN (R393). -/
def execVminFloat (t : VFloat) (d a b : Nat) (s : State) : Out :=
  packedFloat s t d a b (fun f _ _ x y => f.minMax false x y)
/-- VMAX (R393). -/
def execVmaxFloat (t : VFloat) (d a b : Nat) (s : State) : Out :=
  packedFloat s t d a b (fun f _ _ x y => f.minMax true x y)
/-- VFMA (R393). -/
def execVfma (t : VFloat) (d a b : Nat) (s : State) : Out :=
  packedFloat s t d a b (fun f t z x y => f.fma t.ftz t.rm x y z)
/-- VSEL (R394): governed as .S8X4; with n = 0 every active byte takes a. -/
def execVsel (n d a b : Nat) (s : State) : Out :=
  packedForm s [(d, 1), (a, 1), (b, 1)] 8 4 (fun k _ _ => s.retire k (fun t =>
    t.wr d (packed (t.rdP 0) 8 4 (t.rd d) (fun j => subElem 8 j (if (t.rdP n).getLsbD j then t.rd a else t.rd b)))))
/-- VPACK (R394). -/
def execVpack (t : VInt) (d a b : Nat) (s : State) : Out :=
  match t with
  | .s8x4 => packedForm s [(d, 1), (a, 1), (b, 1)] 8 4 (fun k _ _ => s.retire k (fun t =>
      t.wr d (packed (t.rdP 0) 8 4 (t.rd d) (fun j =>
        (satTo (subInt 16 (j % 2) (if j < 2 then t.rd a else t.rd b)) (-128) 127 % 256).toNat))))
  | .s16x2 => packedForm s [(d, 1), (a, 1), (b, 1)] 16 2 (fun k _ _ => s.retire k (fun t =>
      t.wr d (packed (t.rdP 0) 16 2 (t.rd d) (fun j =>
        (satTo (if j = 0 then t.rd a else t.rd b).toInt (-32768) 32767 % 65536).toNat))))
/-- VUNPK (R394): bit 0 of b chooses the half. -/
def execVunpk (t : VInt) (d a b : Nat) (s : State) : Out :=
  match t with
  | .s8x4 => packedForm s [(d, 1), (a, 1), (b, 1)] 16 2 (fun k _ _ => s.retire k (fun t =>
      t.wr d (packed (t.rdP 0) 16 2 (t.rd d) (fun j =>
        (subInt 8 (2 * ((t.rd b).toNat % 2) + j) (t.rd a) % 65536).toNat))))
  | .s16x2 => governed s [(d, 1), (a, 1), (b, 1)] (fun k _ _ => s.retire k (fun t =>
      t.wr d (wrapTo 32 (subInt 16 ((t.rd b).toNat % 2) (t.rd a)))))

end Sys2Proof.Machine
end

