-- ==== Sys2Proof/Machine/Dispatch.lean ====
section
/-! DEFINITION. The dispatch: one arm per constructor of `Instr`, each one direct call of its meaning. -/

namespace Sys2Proof.Machine

/-- The meaning of an instruction in a state. -/
def exec (i : Instr) (s : State) : Host.Outcome State Fault Refusal :=
  match i with
  | .iadd d a b => Sys2Proof.Machine.execIadd d a b s
  | .iadd64 d a b => Sys2Proof.Machine.execIadd64 d a b s
  | .iaddImm d a imm => Sys2Proof.Machine.execIaddImm d a imm s
  | .isub d a b => Sys2Proof.Machine.execIsub d a b s
  | .isub64 d a b => Sys2Proof.Machine.execIsub64 d a b s
  | .imul d a b => Sys2Proof.Machine.execImul d a b s
  | .imul64 d a b => Sys2Proof.Machine.execImul64 d a b s
  | .imulhS32 d a b => Sys2Proof.Machine.execImulhS32 d a b s
  | .imulhZ32 d a b => Sys2Proof.Machine.execImulhZ32 d a b s
  | .imad d a b => Sys2Proof.Machine.execImad d a b s
  | .imad64 d a b => Sys2Proof.Machine.execImad64 d a b s
  | .idiv sg d a b => Sys2Proof.Machine.execIdiv sg d a b s
  | .irem sg d a b => Sys2Proof.Machine.execIrem sg d a b s
  | .imin sg d a b => Sys2Proof.Machine.execImin sg d a b s
  | .imin64 sg d a b => Sys2Proof.Machine.execImin64 sg d a b s
  | .imax sg d a b => Sys2Proof.Machine.execImax sg d a b s
  | .imax64 sg d a b => Sys2Proof.Machine.execImax64 sg d a b s
  | .iabs d a => Sys2Proof.Machine.execIabs d a s
  | .iabs64 d a => Sys2Proof.Machine.execIabs64 d a s
  | .ineg d a => Sys2Proof.Machine.execIneg d a s
  | .ineg64 d a => Sys2Proof.Machine.execIneg64 d a s
  | .and d a b => Sys2Proof.Machine.execAnd d a b s
  | .and64 d a b => Sys2Proof.Machine.execAnd64 d a b s
  | .andn d a b => Sys2Proof.Machine.execAndn d a b s
  | .andn64 d a b => Sys2Proof.Machine.execAndn64 d a b s
  | .or d a b => Sys2Proof.Machine.execOr d a b s
  | .or64 d a b => Sys2Proof.Machine.execOr64 d a b s
  | .xor d a b => Sys2Proof.Machine.execXor d a b s
  | .xor64 d a b => Sys2Proof.Machine.execXor64 d a b s
  | .shl d a b => Sys2Proof.Machine.execShl d a b s
  | .shl64 d a b => Sys2Proof.Machine.execShl64 d a b s
  | .shr d a b => Sys2Proof.Machine.execShr d a b s
  | .shr64 d a b => Sys2Proof.Machine.execShr64 d a b s
  | .sar d a b => Sys2Proof.Machine.execSar d a b s
  | .sar64 d a b => Sys2Proof.Machine.execSar64 d a b s
  | .rot d a b => Sys2Proof.Machine.execRot d a b s
  | .rot64 d a b => Sys2Proof.Machine.execRot64 d a b s
  | .clz d a => Sys2Proof.Machine.execClz d a s
  | .popc d a => Sys2Proof.Machine.execPopc d a s
  | .brev d a => Sys2Proof.Machine.execBrev d a s
  | .iset w c p a b => Sys2Proof.Machine.execIset w c p a b s
  | .isel n d a b => Sys2Proof.Machine.execIsel n d a b s
  | .lea d a imm => Sys2Proof.Machine.execLea d a imm s
  | .fadd d a b => Sys2Proof.Machine.execFadd d a b s
  | .fsub d a b => Sys2Proof.Machine.execFsub d a b s
  | .fmul d a b => Sys2Proof.Machine.execFmul d a b s
  | .ffma d a b => Sys2Proof.Machine.execFfma d a b s
  | .fmin d a b => Sys2Proof.Machine.execFmin d a b s
  | .fmax d a b => Sys2Proof.Machine.execFmax d a b s
  | .frcp d a => Sys2Proof.Machine.execFrcp d a s
  | .frsq d a => Sys2Proof.Machine.execFrsq d a s
  | .fsqrt d a => Sys2Proof.Machine.execFsqrt d a s
  | .fexp2 d a => Sys2Proof.Machine.execFexp2 d a s
  | .flog2 d a => Sys2Proof.Machine.execFlog2 d a s
  | .fsin d a => Sys2Proof.Machine.execFsin d a s
  | .fcos d a => Sys2Proof.Machine.execFcos d a s
  | .ftanh d a => Sys2Proof.Machine.execFtanh d a s
  | .fcmp c p a b => Sys2Proof.Machine.execFcmp c p a b s
  | .cvt dst src d a => Sys2Proof.Machine.execCvt dst src d a s
  | .cvtd dst src pol d a => Sys2Proof.Machine.execCvtd dst src pol d a s
  | .vaddInt t d a b => Sys2Proof.Machine.execVaddInt t d a b s
  | .vsubInt t d a b => Sys2Proof.Machine.execVsubInt t d a b s
  | .vmulInt t d a b => Sys2Proof.Machine.execVmulInt t d a b s
  | .vminInt t d a b => Sys2Proof.Machine.execVminInt t d a b s
  | .vmaxInt t d a b => Sys2Proof.Machine.execVmaxInt t d a b s
  | .vdot4 d a b => Sys2Proof.Machine.execVdot4 d a b s
  | .vaddFloat t d a b => Sys2Proof.Machine.execVaddFloat t d a b s
  | .vsubFloat t d a b => Sys2Proof.Machine.execVsubFloat t d a b s
  | .vmulFloat t d a b => Sys2Proof.Machine.execVmulFloat t d a b s
  | .vminFloat t d a b => Sys2Proof.Machine.execVminFloat t d a b s
  | .vmaxFloat t d a b => Sys2Proof.Machine.execVmaxFloat t d a b s
  | .vfma t d a b => Sys2Proof.Machine.execVfma t d a b s
  | .vsel n d a b => Sys2Proof.Machine.execVsel n d a b s
  | .vpack t d a b => Sys2Proof.Machine.execVpack t d a b s
  | .vunpk t d a b => Sys2Proof.Machine.execVunpk t d a b s
  | .pand d a b => Sys2Proof.Machine.execPand d a b s
  | .por d a b => Sys2Proof.Machine.execPor d a b s
  | .pxor d a b => Sys2Proof.Machine.execPxor d a b s
  | .pnot d a => Sys2Proof.Machine.execPnot d a s
  | .pmovPred d a => Sys2Proof.Machine.execPmovPred d a s
  | .pmovFromV d v => Sys2Proof.Machine.execPmovFromV d v s
  | .pmovToV a v => Sys2Proof.Machine.execPmovToV a v s
  | .ld k d b o => Sys2Proof.Machine.execLd k d b o s
  | .ldref d b o => Sys2Proof.Machine.execLdref d b o s
  | .st k s_ b o => Sys2Proof.Machine.execSt k s_ b o s
  | .stref s_ b o => Sys2Proof.Machine.execStref s_ b o s
  | .lds k d b o => Sys2Proof.Machine.execLds k d b o s
  | .sts k s_ b o => Sys2Proof.Machine.execSts k s_ b o s
  | .ldpv w d b o => Sys2Proof.Machine.execLdpv w d b o s
  | .stpv w s_ b o => Sys2Proof.Machine.execStpv w s_ b o s
  | .ldAcq w d a sc => Sys2Proof.Machine.execLdAcq w d a sc s
  | .ldrefAcq d a sc => Sys2Proof.Machine.execLdrefAcq d a sc s
  | .stRel32 d a sc => Sys2Proof.Machine.execStRel32 d a sc s
  | .stRel64 d a sc => Sys2Proof.Machine.execStRel64 d a sc s
  | .strefRel d a sc => Sys2Proof.Machine.execStrefRel d a sc s
  | .ldsAcq w d a sc => Sys2Proof.Machine.execLdsAcq w d a sc s
  | .stsRel w d a sc => Sys2Proof.Machine.execStsRel w d a sc s
  | .atom op d a ord sc noret => Sys2Proof.Machine.execAtom op d a ord sc noret s
  | .atoms op d a ord sc noret => Sys2Proof.Machine.execAtoms op d a ord sc noret s
  | .kld n b o => Sys2Proof.Machine.execKld n b o s
  | .kst n b o => Sys2Proof.Machine.execKst n b o s
  | .oinit d a b => Sys2Proof.Machine.execOinit d a b s
  | .launch d a q => Sys2Proof.Machine.execLaunch d a q s
  | .pref a => Sys2Proof.Machine.execPref a s
  | .wbr a b => Sys2Proof.Machine.execWbr a b s
  | .invr a b => Sys2Proof.Machine.execInvr a b s
  | .cpt h k => Sys2Proof.Machine.execCpt h k s
  | .cps h k => Sys2Proof.Machine.execCps h k s
  | .cpg h k a => Sys2Proof.Machine.execCpg h k a s
  | .cpsc h k a => Sys2Proof.Machine.execCpsc h k a s
  | .cpb h k a => Sys2Proof.Machine.execCpb h k a s
  | .cpz h k a => Sys2Proof.Machine.execCpz h k a s
  | .cpr h k a => Sys2Proof.Machine.execCpr h k a s
  | .mma h k z => Sys2Proof.Machine.execMma h k z s
  | .mmas h k a z => Sys2Proof.Machine.execMmas h k a z s
  | .mz h z => Sys2Proof.Machine.execMz h z s
  | .mst h k z => Sys2Proof.Machine.execMst h k z s
  | .mlda h k z => Sys2Proof.Machine.execMlda h k z s
  | .scacc h k p z => Sys2Proof.Machine.execScacc h k p z s
  | .scn h k => Sys2Proof.Machine.execScn h k s
  | .scop h a s_ => Sys2Proof.Machine.execScop h a s_ s
  | .pub h sc a => Sys2Proof.Machine.execPub h sc a s
  | .hwait h => Sys2Proof.Machine.execHwait h s
  | .htest h p => Sys2Proof.Machine.execHtest h p s
  | .hcan h => Sys2Proof.Machine.execHcan h s
  | .hmov h s_ => Sys2Proof.Machine.execHmov h s_ s
  | .hst h a => Sys2Proof.Machine.execHst h a s
  | .hld h a => Sys2Proof.Machine.execHld h a s
  | .swarm a b => Sys2Proof.Machine.execSwarm a b s
  | .swadd a b => Sys2Proof.Machine.execSwadd a b s
  | .swait a b => Sys2Proof.Machine.execSwait a b s
  | .rjoin a => Sys2Proof.Machine.execRjoin a s
  | .brz a o => Sys2Proof.Machine.execBrz a o s
  | .bnz a o => Sys2Proof.Machine.execBnz a o s
  | .brp p o => Sys2Proof.Machine.execBrp p o s
  | .jmp o => Sys2Proof.Machine.execJmp o s
  | .call o => Sys2Proof.Machine.execCall o s
  | .br a => Sys2Proof.Machine.execBr a s
  | .callReg a => Sys2Proof.Machine.execCallReg a s
  | .nop => Sys2Proof.Machine.execNop s
  | .exit => Sys2Proof.Machine.execExit s
  | .yield => Sys2Proof.Machine.execYield s
  | .rsync => Sys2Proof.Machine.execRsync s
  | .rleave => Sys2Proof.Machine.execRleave s
  | .tret => Sys2Proof.Machine.execTret s
  | .trap c => Sys2Proof.Machine.execTrap c s
  | .bkpt => Sys2Proof.Machine.execBkpt s
  | .halt => Sys2Proof.Machine.execHalt s
  | .fence sc ord => Sys2Proof.Machine.execFence sc ord s
  | .bar => Sys2Proof.Machine.execBar s
  | .tmark a => Sys2Proof.Machine.execTmark a s
  | .prio n => Sys2Proof.Machine.execPrio n s
  | .rep sd sa sb n => Sys2Proof.Machine.execRep sd sa sb n s
  | .repReg sd sa sb c => Sys2Proof.Machine.execRepReg sd sa sb c s
  | .winb b => Sys2Proof.Machine.execWinb b s
  | .ret => Sys2Proof.Machine.execRet s
  | .waitc l s_ c t => Sys2Proof.Machine.execWaitc l s_ c t s
  | .movi d imm => Sys2Proof.Machine.execMovi d imm s
  | .movh d imm => Sys2Proof.Machine.execMovh d imm s
  | .mov d a => Sys2Proof.Machine.execMov d a s
  | .mov64 d a => Sys2Proof.Machine.execMov64 d a s
  | .kmovFromK d n => Sys2Proof.Machine.execKmovFromK d n s
  | .kmovToK n a => Sys2Proof.Machine.execKmovToK n a s
  | .srd d r => Sys2Proof.Machine.execSrd d r s
  | .swr r a => Sys2Proof.Machine.execSwr r a s
  | .bfx sg d a b => Sys2Proof.Machine.execBfx sg d a b s
  | .bfi d a b => Sys2Proof.Machine.execBfi d a b s
  | .xshf w d a b => Sys2Proof.Machine.execXshf w d a b s
  | .xbal d p => Sys2Proof.Machine.execXbal d p s
  | .xvote v p a => Sys2Proof.Machine.execXvote v p a s
  | .xidx d a => Sys2Proof.Machine.execXidx d a s
  | .xred op d a => Sys2Proof.Machine.execXred op d a s
  | .xscan op d a => Sys2Proof.Machine.execXscan op d a s
  | .invalidateDone p => Sys2Proof.Machine.execInvalidateDone p s
  | .windowRead p fn off size => Sys2Proof.Machine.execWindowRead p fn off size s
  | .windowWrite p fn off size v => Sys2Proof.Machine.execWindowWrite p fn off size v s
  | .stepWaitEnd p fn => Sys2Proof.Machine.execStepWaitEnd p fn s
  | .dump p fn => Sys2Proof.Machine.execDump p fn s
  | .groupStop g => Sys2Proof.Machine.execGroupStop g s
  | .attestationSigned p => Sys2Proof.Machine.execAttestationSigned p s
  | .imagePhaseEnd p ok0 ok1 ver0 ver1 slot0 slot1 => Sys2Proof.Machine.execImagePhaseEnd p ok0 ok1 ver0 ver1 slot0 slot1 s
  | .repairPhaseEnd p fail values => Sys2Proof.Machine.execRepairPhaseEnd p fail values s
  | .selftestEnd p fails => Sys2Proof.Machine.execSelftestEnd p fails s
  | .throttleRaise p power temp => Sys2Proof.Machine.execThrottleRaise p power temp s
  | .throttleLower p power temp => Sys2Proof.Machine.execThrottleLower p power temp s
  | .holdoverEnter p => Sys2Proof.Machine.execHoldoverEnter p s
  | .holdoverLeave p => Sys2Proof.Machine.execHoldoverLeave p s
  | .ptpMessage p offset => Sys2Proof.Machine.execPtpMessage p offset s
  | .bundlingRound p c => Sys2Proof.Machine.execBundlingRound p c s
  | .priorityPromotion g t => Sys2Proof.Machine.execPriorityPromotion g t s
  | .yieldDemotionEnd g t => Sys2Proof.Machine.execYieldDemotionEnd g t s
  | .recordTake p blk q => Sys2Proof.Machine.execRecordTake p blk q s
  | .dependenceRecheck p => Sys2Proof.Machine.execDependenceRecheck p s
  | .groupHandOut p => Sys2Proof.Machine.execGroupHandOut p s
  | .saveDone g => Sys2Proof.Machine.execSaveDone g s
  | .groupPlace p die => Sys2Proof.Machine.execGroupPlace p die s
  | .clusterModeChange p c fused => Sys2Proof.Machine.execClusterModeChange p c fused s
  | .drainEnd g => Sys2Proof.Machine.execDrainEnd g s
  | .clusterReport p c l => Sys2Proof.Machine.execClusterReport p c l s
  | .launchEnqueue x => Sys2Proof.Machine.execLaunchEnqueue x s
  | .faultPost p regid => Sys2Proof.Machine.execFaultPost p regid s
  | .accessReplay g t => Sys2Proof.Machine.execAccessReplay g t s
  | .engineFailureTrap g t => Sys2Proof.Machine.execEngineFailureTrap g t s
  | .translationWalkDone x => Sys2Proof.Machine.execTranslationWalkDone x s
  | .homeReadRequest x => Sys2Proof.Machine.execHomeReadRequest x s
  | .ownershipRequest x => Sys2Proof.Machine.execOwnershipRequest x s
  | .forwardedRead x => Sys2Proof.Machine.execForwardedRead x s
  | .writeBackArrival x => Sys2Proof.Machine.execWriteBackArrival x s
  | .atomicAtHome x => Sys2Proof.Machine.execAtomicAtHome x s
  | .releaseCompletion p c => Sys2Proof.Machine.execReleaseCompletion p c s
  | .routerPowerDown p r => Sys2Proof.Machine.execRouterPowerDown p r s
  | .routerWake p r => Sys2Proof.Machine.execRouterWake p r s
  | .climbingMiss x => Sys2Proof.Machine.execClimbingMiss x s
  | .pageMoveDone x => Sys2Proof.Machine.execPageMoveDone x s
  | .upgrade x => Sys2Proof.Machine.execUpgrade x s
  | .markArrival x => Sys2Proof.Machine.execMarkArrival x s
  | .injectionOffer x => Sys2Proof.Machine.execInjectionOffer x s
  | .injectionConfirm x => Sys2Proof.Machine.execInjectionConfirm x s
  | .holderReport p page level => Sys2Proof.Machine.execHolderReport p page level s
  | .windowEnd p => Sys2Proof.Machine.execWindowEnd p s
  | .flitReceive p port f => Sys2Proof.Machine.execFlitReceive p port f s
  | .linkReplayRequest p port n => Sys2Proof.Machine.execLinkReplayRequest p port n s
  | .ackCreditReturn p port ack cr => Sys2Proof.Machine.execAckCreditReturn p port ack cr s
  | .windowAuditSend p port => Sys2Proof.Machine.execWindowAuditSend p port s
  | .windowAuditReceive p port a => Sys2Proof.Machine.execWindowAuditReceive p port a s
  | .copyArrival x => Sys2Proof.Machine.execCopyArrival x s
  | .copyComplete x => Sys2Proof.Machine.execCopyComplete x s
  | .kBlockDone x => Sys2Proof.Machine.execKBlockDone x s
  | .matrixComplete x => Sys2Proof.Machine.execMatrixComplete x s
  | .scanStart x => Sys2Proof.Machine.execScanStart x s
  | .carryArrival x => Sys2Proof.Machine.execCarryArrival x s
  | .scanComplete x => Sys2Proof.Machine.execScanComplete x s
  | .walkStart p die => Sys2Proof.Machine.execWalkStart p die s
  | .walkComplete x => Sys2Proof.Machine.execWalkComplete x s
  | .timeseriesTick p => Sys2Proof.Machine.execTimeseriesTick p s
  | .objectMark x => Sys2Proof.Machine.execObjectMark x s
  | .accessCompletion x => Sys2Proof.Machine.execAccessCompletion x s
  | .scrub p line => Sys2Proof.Machine.execScrub p line s
  | .linkTrainingDone p port cr => Sys2Proof.Machine.execLinkTrainingDone p port cr s
  | .refresh p fn => Sys2Proof.Machine.execRefresh p fn s
  | .invalidate p fn => Sys2Proof.Machine.execInvalidate p fn s
  | .domainReset p fn => Sys2Proof.Machine.execDomainReset p fn s
  | .loss p fn => Sys2Proof.Machine.execLoss p fn s
  | .releaseLost p fn => Sys2Proof.Machine.execReleaseLost p fn s
  | .resolve p fn v => Sys2Proof.Machine.execResolve p fn v s
  | .fqheadWrite p fn v => Sys2Proof.Machine.execFqheadWrite p fn v s
  | .registerWrite p fn bar off size v => Sys2Proof.Machine.execRegisterWrite p fn bar off size v s
  | .queueTailDoorbell p fn off size v => Sys2Proof.Machine.execQueueTailDoorbell p fn off size v s
  | .debugHalt p fn => Sys2Proof.Machine.execDebugHalt p fn s
  | .haltRegion p fn => Sys2Proof.Machine.execHaltRegion p fn s
  | .resume p fn => Sys2Proof.Machine.execResume p fn s
  | .step p fn => Sys2Proof.Machine.execStep p fn s
  | .readContext p fn => Sys2Proof.Machine.execReadContext p fn s
  | .writeContext p fn => Sys2Proof.Machine.execWriteContext p fn s
  | .dumpPage p fn => Sys2Proof.Machine.execDumpPage p fn s
  | .attach p fn => Sys2Proof.Machine.execAttach p fn s
  | .detach p fn => Sys2Proof.Machine.execDetach p fn s
  | .breakpointSlotWrite p fn i_ w v => Sys2Proof.Machine.execBreakpointSlotWrite p fn i_ w v s
  | .watchpointSlotWrite p fn i_ w v => Sys2Proof.Machine.execWatchpointSlotWrite p fn i_ w v s
  | .tskWrite p fn v => Sys2Proof.Machine.execTskWrite p fn v s
  | .trrdWrite p blk v => Sys2Proof.Machine.execTrrdWrite p blk v s
  | .attestationRequest p mctp nonce => Sys2Proof.Machine.execAttestationRequest p mctp nonce s
  | .powerLoss p => Sys2Proof.Machine.execPowerLoss p s
  | .softError p e => Sys2Proof.Machine.execSoftError p e s
  | .linkFailure p port => Sys2Proof.Machine.execLinkFailure p port s
  | .powerGood p => Sys2Proof.Machine.execPowerGood p s

end Sys2Proof.Machine
end

