-- ==== Sys2Proof/Machine/Step.lean ====
section
/-! DEFINITION. One step of the machine: an input, an event of the part, or a thread's instruction; and the placing of a program
word where the next step fetches it. -/

namespace Sys2Proof.Machine

/-- One step: what `State.plan` says comes next happens, then the clocks advance. -/
def step (s : State) : Host.Outcome State Fault Refusal :=
  match s.plan with
  | .done t => .next (t.tick s.issuing)
  | .event i t => match exec i t with
    | .next u => .next (u.tick s.issuing)
    | r => r
  | .issue i k pc skip depth rep t => match exec i t with
    | .next u => .next ((u.finishIssue k pc skip depth rep).tick s.issuing)
    | r => r

/-- The role of the only crew that may issue a word: COPY for a copy command, VECTOR for a scan or rail command, MATRIX otherwise
(R34). -/
def roleOfWord (w : Word) : Nat :=
  match decodeWord w with
  | .ok (.cpt ..) | .ok (.cps ..) | .ok (.cpg ..) | .ok (.cpsc ..) | .ok (.cpb ..) | .ok (.cpz ..) | .ok (.cpr ..) => 0
  | .ok (.scn ..) | .ok (.scop ..) | .ok (.rjoin _) | .ok .rsync | .ok .rleave => 2
  | _ => 1

/-- The launch record of the loaded program: one group of one crew, its first instruction at 0x10000. -/
def loadRec (w : Word) : LaunchRec :=
  { entry := 0x10000, gridx := 1, gridy := 1, gridz := 1, crewc := bitOf (decide (roleOfWord w = 0)),
    crewm := bitOf (decide (roleOfWord w = 1)), crewv := bitOf (decide (roleOfWord w = 2)), regs8 := 16, scrg := 256,
    privw := 64, slimw := 32, chain := 0, chend := false, fusel1 := false, restart := false, depblk := false, lprio := 0,
    latus := 0, deps := [0, 0, 0, 0], launchid := 1, args := 0, compl := 0, irq := false, vector := 0, privbase := 0x100000,
    bad := false }

/-- The block of the loaded program's region: a tenant that is a leaf, ACTIVE, with a trap vector and a fault queue. -/
def loadBlock : Block :=
  { regid := 1, prio := 0, level := 0, leaf := true, ovr := 0, state := 1, domroot := true, valid := true, parent := 0,
    child := 0, sibling := 0, lfmax := 1, grpmax := 1, cormax := 1, scrmax := 256, frmmax := 64, trapvec := 0x10100, dbgperm := 0,
    trbase := 0, trblocks := 0, svbase := 0, svblocks := 0, rafbase := 0x20000, fqbase := 0, fqent := 64, wbbase := 0,
    wbblocks := 0, cmpbase := 0, bkbase := 0, bkpages := 0, chbase := 0, chcount := 0, mirror := false, firsttouch := true,
    serv := 0, held := false }

/-- The translation of the program's page: executable, type SHARED, at global page 1. -/
def loadTrans : Trans :=
  { base := 0x10000, bytes := 0x10000, ga := 0x10000, mtype := 0, pol := 0, cmp := 0, side := false, sidx := 0, w := false, x := true,
    dirty := false, peer := 0 }

/-- The state with an instruction word placed where the next step fetches it: package 0 is READY with one active region, the page
of the code is here and translated, and one thread of one group stands at the word in a bundle of its core, whose turn it is
(log entry 1: a program is loaded from outside, and this stands for that load). -/
def State.withFetchWord (s : State) (nbits w : Nat) : State :=
  let word := BitVec.ofNat 32 (w % 2 ^ nbits)
  let u := s.nextId
  let r := loadRec word
  let t := Thread.start 0x10000 ⟨0, 0, 0⟩ 0
  let g := { Group.start 0 0 0x1000 1 0 0 r with
             shares := [Share.start r 0 0 0 1], threads := [t] }
  let f := pageSet 1 * 16
  let p := s.pkgD 0
  let p := { p with boot := { p.boot with powered := true, phase := 3 }, blocks := SMap.put p.blocks 0x1000 loadBlock }
  let p := p.setFrame f { FrameTag.init with gpn := 1, state := fsSole, owner := 1 }
  let p := p.modCore 0 (fun k => { k with tlb := [(1, loadTrans)], bundles := [⟨0x10000, [⟨u, 0⟩], none⟩], open_ := true })
  { s with pkgs := SMap.put s.pkgs 0 p, groups := SMap.put s.groups u g, nextId := u + 1, turn := .issue, nextCore := (0, 0),
           gmem := memWrite s.gmem 0x10000 (leBytes 4 word.toNat) }

end Sys2Proof.Machine
end

