-- ==== Sys2Proof/Safety.lean ====
section
/-! DEFINITION. What claims are stated in: an issuing thread and its operands, what an instruction does to one thread, the
registers a register-only form names, the frame of such a form, the canonical form of memory, runs of the machine. -/

namespace Sys2Proof.Machine

/-! ## An issuing thread -/

/-- A thread is issuing: `cur` names it, and it stands in its group. -/
def State.Issuing (s : State) (k : TKey) (g : Group) (t : Thread) : Prop :=
  s.cur = some k ∧ s.group? k.uid = some g ∧ g.threads[k.tidx]? = some t

/-- The register fields lie in the window and none of their registers is pending (R22, R24, R300). -/
def OperandsReady (g : Group) (t : Thread) (sp : Spans) : Prop := inWindow g t sp = true ∧ pendingOf t sp = []

/-- Whenever a thread for which `c` holds issues `i` with its operands ready, the next state is the one in which the thread holds
`f` of itself and goes on after the instruction. -/
def YieldsWhen (c : Thread → Prop) (i : Instr) (sp : Spans) (f : Thread → Thread) : Prop :=
  ∀ s k g t, s.Issuing k g t → c t → OperandsReady g t sp → exec i s = .next (s.retire k f)

/-- The same for every active thread (R302). -/
def Yields (i : Instr) (sp : Spans) (f : Thread → Thread) : Prop := YieldsWhen (fun t => t.active = true) i sp f

/-- The same for every thread that issues the instruction: it is not governed (R302). -/
def YieldsAlways (i : Instr) (sp : Spans) (f : Thread → Thread) : Prop := YieldsWhen (fun _ => True) i sp f

/-- Whenever an active thread issues `i` with its operands ready, the next state is `f` of the state. -/
def Leads (i : Instr) (sp : Spans) (f : State → TKey → Group → Thread → State) : Prop :=
  ∀ s k g t, s.Issuing k g t → t.active = true → OperandsReady g t sp → exec i s = .next (f s k g t)

/-- The same for every thread that issues the instruction. -/
def LeadsAlways (i : Instr) (sp : Spans) (f : State → TKey → Group → Thread → State) : Prop :=
  ∀ s k g t, s.Issuing k g t → OperandsReady g t sp → exec i s = .next (f s k g t)

/-! ## Register-only forms -/

/-- The 93 rows of spec/opcode_table.json that no word encodes: what the part, its host, its debugger and the outside world do. -/
def isStep : Instr → Bool
  | .refresh _ _ | .invalidate _ _ | .invalidateDone _ | .domainReset _ _ | .loss _ _ | .releaseLost _ _ | .resolve _ _ _
  | .fqheadWrite _ _ _ | .registerWrite _ _ _ _ _ _ | .queueTailDoorbell _ _ _ _ _ | .windowRead _ _ _ _
  | .windowWrite _ _ _ _ _ | .debugHalt _ _ | .haltRegion _ _ | .resume _ _ | .step _ _ | .stepWaitEnd _ _ | .readContext _ _
  | .writeContext _ _ | .dump _ _ | .dumpPage _ _ | .attach _ _ | .detach _ _ | .groupStop _ | .breakpointSlotWrite _ _ _ _ _
  | .watchpointSlotWrite _ _ _ _ _ | .tskWrite _ _ _ | .trrdWrite _ _ _ | .attestationRequest _ _ _ | .attestationSigned _
  | .powerGood _ | .imagePhaseEnd _ _ _ _ _ _ _ | .repairPhaseEnd _ _ _ | .selftestEnd _ _ | .throttleRaise _ _ _
  | .throttleLower _ _ _ | .holdoverEnter _ | .holdoverLeave _ | .ptpMessage _ _ | .bundlingRound _ _ | .priorityPromotion _ _
  | .yieldDemotionEnd _ _ | .recordTake _ _ _ | .dependenceRecheck _ | .groupHandOut _ | .saveDone _ | .groupPlace _ _
  | .clusterModeChange _ _ _ | .drainEnd _ | .clusterReport _ _ _ | .launchEnqueue _ | .faultPost _ _ | .accessReplay _ _
  | .engineFailureTrap _ _ | .translationWalkDone _ | .homeReadRequest _ | .ownershipRequest _ | .forwardedRead _
  | .writeBackArrival _ | .atomicAtHome _ | .releaseCompletion _ _ | .routerPowerDown _ _ | .routerWake _ _ | .climbingMiss _
  | .pageMoveDone _ | .upgrade _ | .markArrival _ | .injectionOffer _ | .injectionConfirm _ | .holderReport _ _ _
  | .windowEnd _ | .flitReceive _ _ _ | .linkReplayRequest _ _ _ | .ackCreditReturn _ _ _ _ | .windowAuditSend _ _
  | .windowAuditReceive _ _ _ | .copyArrival _ | .copyComplete _ | .kBlockDone _ | .matrixComplete _ | .scanStart _
  | .carryArrival _ | .scanComplete _ | .walkStart _ _ | .walkComplete _ | .timeseriesTick _ | .objectMark _
  | .accessCompletion _ | .powerLoss _ | .softError _ _ | .scrub _ _ | .linkFailure _ _ | .linkTrainingDone _ _ _ => true
  | _ => false

/-- What a register-only form names: every register field with its registers (R93, R300), the registers it may write, the
predicate it may write, whether it may set sticky flags, and whether p0 bit 0 governs it (R302). -/
structure Form where
  regs : Spans
  dst : Spans
  pdst : Option Nat
  flags : Bool
  governed : Bool
  deriving DecidableEq, Repr

/-- d, a, b of n registers each. -/
def threeRegs (n d a b : Nat) : Spans := [(d, n), (a, n), (b, n)]
/-- d, a of n registers each. -/
def twoRegs (n d a : Nat) : Spans := [(d, n), (a, n)]

/-- A governed form that writes n registers from d. -/
def aluForm (sp : Spans) (n d : Nat) : Form := ⟨sp, [(d, n)], none, false, true⟩
/-- The same, with sticky flags. -/
def fpuForm (sp : Spans) (n d : Nat) : Form := ⟨sp, [(d, n)], none, true, true⟩
/-- A form that writes no thread register. -/
def bareForm (sp : Spans) (p : Option Nat) (flags governed : Bool) : Form := ⟨sp, [], p, flags, governed⟩

/-- The forms that touch nothing but registers, predicates and sticky flags of their own thread and cannot trap on the values
of their operands, from the encodings of R295 and the entries of the instructions. Packed forms are those of
`packedOf?`. -/
def formOf? : Instr → Option Form
  | .iadd d a b | .isub d a b | .imul d a b | .imulhS32 d a b | .imulhZ32 d a b | .imad d a b
  | .idiv _ d a b | .irem _ d a b | .imin _ d a b | .imax _ d a b
  | .and d a b | .andn d a b | .or d a b | .xor d a b | .shl d a b | .shr d a b | .sar d a b | .rot d a b
  | .isel _ d a b | .bfx _ d a b | .bfi d a b => some (aluForm (threeRegs 1 d a b) 1 d)
  | .iadd64 d a b | .isub64 d a b | .imul64 d a b | .imad64 d a b | .imin64 _ d a b | .imax64 _ d a b
  | .and64 d a b | .andn64 d a b | .or64 d a b | .xor64 d a b => some (aluForm (threeRegs 2 d a b) 2 d)
  | .shl64 d a b | .shr64 d a b | .sar64 d a b | .rot64 d a b => some (aluForm [(d, 2), (a, 2), (b, 1)] 2 d)
  | .iaddImm d a _ | .iabs d a | .ineg d a | .clz d a | .popc d a | .brev d a | .mov d a | .xidx d a =>
    some (aluForm (twoRegs 1 d a) 1 d)
  | .iabs64 d a | .ineg64 d a | .lea d a _ | .mov64 d a => some (aluForm (twoRegs 2 d a) 2 d)
  | .movi d _ | .movh d _ => some (aluForm [(d, 1)] 1 d)
  | .fadd d a b | .fsub d a b | .fmul d a b | .ffma d a b | .fmin d a b | .fmax d a b =>
    some (fpuForm (threeRegs 1 d a b) 1 d)
  | .frcp d a | .frsq d a | .fsqrt d a | .fexp2 d a | .flog2 d a | .fsin d a | .fcos d a | .ftanh d a =>
    some (fpuForm (twoRegs 1 d a) 1 d)
  | .cvt dst src d a => some (fpuForm [(d, kindRegs dst), (a, kindRegs src)] (kindRegs dst) d)
  | .fcmp _ p a b => some (bareForm [(a, 1), (b, 1)] (some p) true true)
  | .iset .w32 _ p a b => some (bareForm [(a, 1), (b, 1)] (some p) false true)
  | .iset .w64 _ p a b => some (bareForm [(a, 2), (b, 2)] (some p) false true)
  | .pand d _ _ | .por d _ _ | .pxor d _ _ | .pnot d _ | .pmovPred d _ | .htest _ d => some (bareForm [] (some d) false false)
  | .pmovFromV d v => some (bareForm [(v, 1)] (some d) false false)
  | .pmovToV _ v => some ⟨[(v, 1)], [(v, 1)], none, false, false⟩
  | .vunpk .s16x2 d a b => some (aluForm (threeRegs 1 d a b) 1 d)
  | .nop => some (bareForm [] none false false)
  | _ => none

/-- The packed forms of R391: destination, operands, the width and the number of the sub-elements that govern them. -/
def packedOf? : Instr → Option (Form × Nat × Nat)
  | .vaddInt .s8x4 d a b | .vsubInt .s8x4 d a b | .vmulInt .s8x4 d a b | .vminInt .s8x4 d a b | .vmaxInt .s8x4 d a b
  | .vdot4 d a b | .vsel _ d a b | .vpack .s8x4 d a b => some (aluForm (threeRegs 1 d a b) 1 d, 8, 4)
  | .vaddInt .s16x2 d a b | .vsubInt .s16x2 d a b | .vmulInt .s16x2 d a b | .vminInt .s16x2 d a b | .vmaxInt .s16x2 d a b
  | .vpack .s16x2 d a b | .vunpk .s8x4 d a b => some (aluForm (threeRegs 1 d a b) 1 d, 16, 2)
  | .vaddFloat _ d a b | .vsubFloat _ d a b | .vmulFloat _ d a b | .vminFloat _ d a b | .vmaxFloat _ d a b | .vfma _ d a b =>
    some (fpuForm (threeRegs 1 d a b) 1 d, 16, 2)
  | _ => none

/-- An allotment register lies in the destination of a form. -/
def Form.writes (F : Form) (t : Thread) (r : Nat) : Prop := ∃ sp ∈ F.dst, t.wbase + sp.1 ≤ r ∧ r < t.wbase + sp.1 + sp.2

/-- Every byte of memory reads as before: global memory, host memory, every scratchpad. -/
def SameBytes (s u : State) : Prop :=
  (∀ a, u.gbyte a = s.gbyte a) ∧ (∀ a, SMap.get u.hmem 0 a = SMap.get s.hmem 0 a) ∧ ∀ x j o, u.sbytes x j o 1 = s.sbytes x j o 1

/-- Nothing but one thread has changed, and that thread is now `t'`. -/
def OnlyThread (s u : State) (k : TKey) (g : Group) (t' : Thread) : Prop :=
  u = { s with groups := u.groups } ∧ (∀ x, x ≠ k.uid → u.group? x = s.group? x) ∧
  u.group? k.uid = some { g with threads := g.threads.set k.tidx t' }

/-- The frame of a register-only form: only the issuing thread changes, and of it only PC (to the next word), the destination
registers, the tags of their pairs, the destination predicate and, where the form sets flags, bits 4:0 of FFLAGS, which it
never clears. -/
def RegisterFrame (s u : State) (k : TKey) (g : Group) (t : Thread) (F : Form) : Prop :=
  SameBytes s u ∧ ∃ t', OnlyThread s u k g t' ∧
    t' = { t with pc := t.pc + 4, wait := .none, regs := t'.regs, tags := t'.tags, preds := t'.preds, fflags := t'.fflags } ∧
    (∀ r, ¬ F.writes t r → t'.rdAbs r = t.rdAbs r) ∧
    (∀ r, ¬ F.writes t r → ¬ F.writes t (r + 1) → r % 2 = 0 → t'.tagAbs r = t.tagAbs r) ∧
    (∀ n, F.pdst ≠ some n → t'.rdP n = t.rdP n) ∧
    (F.flags = false → t'.fflags = t.fflags) ∧
    (∀ j, t.fflags.getLsbD j = true → t'.fflags.getLsbD j = true) ∧
    (∀ j, 5 ≤ j → t'.fflags.getLsbD j = t.fflags.getLsbD j)

/-! ## Memory and runs -/

/-- Global memory, host memory and the metadata of lines have their canonical form. -/
def State.MemWf (s : State) : Prop :=
  Memory.wf s.gmem = true ∧ Memory.wf s.hmem = true ∧ SMap.wf s.lmeta LineMeta.init = true

/-- No page keeps the codes of its lines in a side table (R123, R124). -/
def State.PlainCodes (s : State) : Prop := ∀ g c, SMap.find? s.pageCmp g = some c → c.side = false

/-- No slice holds the dirty bytes of a line whose home lies elsewhere (R173). -/
def State.CleanProxies (s : State) : Prop := ∀ q p, (q, p) ∈ s.pkgs → ∀ l ∈ p.slices, l.kind = 1 → l.dirty = 0

/-- No L1 holds a line, no write-back is on its way, no proxy holds a dirty byte and no page keeps its line codes in a side table: what
the part reads at a home is what memory holds. -/
def State.Uncached (s : State) : Prop := (∀ m p d ga, s.holders m p d ga = []) ∧ s.wbs = [] ∧ s.PlainCodes ∧ s.CleanProxies

/-- A state that a run of the machine reaches. -/
inductive Reaches : State → State → Prop where
  | refl (s : State) : Reaches s s
  | step {s t u : State} : Reaches s t → step t = .next u → Reaches s u

/-- A safe run: no state on it stops with a fault or a refusal. -/
def SafeFrom (s : State) : Prop := ∀ t, Reaches s t → ∃ u, step t = .next u

end Sys2Proof.Machine
end

