-- ==== Sys2Proof/Certificates/Slice0/Obligations.lean ====
section
/-! DEFINITION. The statements for the provers, rule by rule of spec/: encodings, registers and arithmetic, control flow and
traps, memory, engines, the carry rail, launches, the package's own events, debug, boot. -/

open Sys2Proof Sys2Proof.Machine

/-! ## Encoding and the step -/

/-- R294 to R299: a word decodes to an instruction exactly when the instruction is well-formed and is encoded by that word: no
two words mean one instruction, no operand bit is dropped.
The encoder covers every well-formed instruction word (the 93 rows of steps and events have none), and decoding its word
gives the instruction back, with every operand. -/
def Obligations.DecodeAndEncodeAgree : Prop :=
  (∀ (i : Instr) (w : Word), decodeWord w = .ok i ↔ (i.wf = true ∧ encode i = some w)) ∧
  (∀ i : Instr, i.wf = true → isStep i = false → ∃ w, encode i = some w ∧ decodeWord w = .ok i)

/-- Words written out in spec/ decode to the lines they stand for (R302, R313, R347, R349, R351, R362, R365, R369, R372, R390, R404). -/
def Obligations.ListedWords : Prop :=
  decodeWord 0x1C214183 = .ok (.fsub 5 3 3) ∧ decodeWord 0x06214307 = .ok (.andn 5 6 7) ∧
  decodeWord 0x0482858C = .ok (.imulhZ32 10 11 12) ∧ decodeWord 0x14184FF0 = .ok (.iaddImm 3 4 (BitVec.ofInt 12 (-16))) ∧
  decodeWord 0x0CA08284 = .ok (.iset .w32 .leZ 2 5 4) ∧ decodeWord 0x18504FFC = .ok (.lea 10 4 (BitVec.ofInt 12 (-4))) ∧
  decodeWord 0xA8220500 = .ok (.mov64 8 10) ∧ decodeWord 0x0AC20503 = .ok (.sar64 8 10 3) ∧
  decodeWord 0x99800006 = .ok (.prio 6) ∧ decodeWord 0xB261C400 = .ok (.xscan .add 7 8)

/-- A step runs the decoded instruction. Where the plan of a state is to let a thread issue (no input, no event, and the core
whose turn it is has a bundle whose first thread may issue), no repetition is under way, no failed engine command is due and no breakpoint fires,
the step fetches the word at the thread's PC (or takes the word that a thread of its bundle has fetched, R23), performs exec of the instruction it decodes to, then finishes the issue (R36, R276, R281)
and advances the clocks; a word that decodes to no instruction takes the illegal-instruction trap, CAUSE 0x01 (R85, R300). The fetch of a
translated page that is here reads the four bytes at PC, least significant first. Where the plan is an event, the step is that event. -/
def Obligations.StepRunsInstruction : Prop :=
  (∀ (s : State) (p c : Nat) (b : Bundle) bs k ks g t, s.turn = .issue → s.issuer = some (p, c) → (s.coreOf p c).bundles = b :: bs → b.threads = k :: ks →
    ((s.coreOf p c).open_ = true ∨ s.withheld p = false) →
    let s0 := { s with nextCore := (p, c), turn := .input }
    let s1 := s0.modCore p c (fun q => { q with
      bundles := if ks.isEmpty then bs else { b with threads := ks } :: bs, open_ := !ks.isEmpty,
      issued := if (s.coreOf p c).open_ then q.issued else q.issued + 1 })
    let s2 := { s1 with turn := if ks.isEmpty then .input else .issue }
    s2.group? k.uid = some g → s2.thread? k = some t → s2.mayIssue b (s.coreOf p c).open_ k g t = true →
    s.plan = s2.issueThread k g t b.word) ∧
  (∀ (s s' : State) (k : TKey) (g : Machine.Group) (t : Thread) (shared : Option Word) s1 w, s.plan = s'.issueThread k g t shared → g.stepWait = false → t.engFail = [] → t.iterates = none →
    (s'.modThread k (fun x => { x with skipBp := false })).bundleFetch k g t shared = (s1, .word w) →
    (∀ i a u, decodeWord w = .ok i → s1.issueHits g t (some i) = ([], a) →
      exec i { s1 with cur := some k, fetched := w } = .next u →
      step s = .next ((u.finishIssue k t.pc t.skipBp t.depth none).tick s.issuing)) ∧
    (∀ e a, decodeWord w = .error e → s1.issueHits g t none = ([], a) →
      step s = .next ((((s1.trapAt k 0x01 0).countIssue k).judgeStep k).tick s.issuing))) ∧
  (∀ (s : State) (k : TKey) (g : Machine.Group) (t : Thread) w, s.bundleFetch k g t (some w) = (s, .word w)) ∧
  (∀ (s : State) (k : TKey) (g : Machine.Group) (t : Thread) s1 w, s.fetchWord k g t t.pc = (s1, .word w) →
    ∃ s2, s.bundleFetch k g t none = (s2, .word w) ∧ s2.gmem = s1.gmem ∧ s2.groups = s1.groups ∧ s2.items = s1.items) ∧
  (∀ (s : State) (k : TKey) (g : Machine.Group) (t : Thread) (pc : DWord) s1 tr, s.failedWalk k 3 pc.toNat = none →
    s.xlate g.pkg t.place.core g.leaf pc.toNat 3 .fetch = (s1, .hit tr) →
    s1.pageReady g.pkg tr.mtype tr.peer (tr.addr pc.toNat / 65536) false = true → s1.mismatched (s1.threadAgent k g t) tr pc.toNat = false →
    let ga := tr.addr pc.toNat
    let s2 := (s1.notePageRead (s1.threadAgent k g t) tr ga).slicePass (s1.lineAt g.pkg tr.mtype tr.peer (ga / 65536)) ga
      (s1.threadAgent k g t).chain (decide (tr.policy = 2))
    s.fetchWord k g t pc = ((s2.homeRead ga 4).1, .word (BitVec.ofNat 32 (leNat (s2.homeRead ga 4).2)))) ∧
  (∀ s i k pc skip depth rep t u, s.plan = .issue i k pc skip depth rep t → exec i t = .next u →
    step s = .next ((u.finishIssue k pc skip depth rep).tick s.issuing)) ∧
  (∀ s i t u, s.plan = .event i t → exec i t = .next u → step s = .next (u.tick s.issuing)) ∧
  (∀ s t, s.plan = .done t → step s = .next (t.tick s.issuing))

/-! ## Registers -/

/-- R22, R202, R318: writing a register through the window writes the allotment register WBASE + i and clears its pair's
reference tag, and changes no other register and no other tag; a pair holds bits 31:0 in its even register.
An instruction that retires changes only its thread, which goes on at the next word. -/
def Obligations.RegisterWriteAndRetirement : Prop :=
  ((∀ (t : Thread) (i : Nat) (v : Word), (t.wr i v).rd i = v ∧ (t.wr i v).tag i = false ∧
     (∀ r, r ≠ t.wbase + i → (t.wr i v).rdAbs r = t.rdAbs r) ∧
     (∀ r, r / 2 ≠ (t.wbase + i) / 2 → (t.wr i v).tagAbs r = t.tagAbs r)) ∧
   (∀ (t : Thread) (i : Nat) (v : DWord), (t.wr64 i v).rd64 i = v ∧ (t.wr64 i v).rd i = v.extractLsb' 0 32 ∧
     (t.wr64 i v).rd (i + 1) = v.extractLsb' 32 32 ∧ (t.wr64 i v).tag i = false ∧ (t.wr64 i v).tag (i + 1) = false)) ∧
  (∀ s k g t (f : Thread → Thread), s.Issuing k g t → OnlyThread s (s.retire k f) k g { f t with pc := (f t).pc + 4, wait := .none })

/-- R22, R24, R300 step 4: every register-only form judges all its register fields first: one outside the window raises the
allotment fault, with the instruction not retired; then a pending register holds the thread at the instruction. R302, R308: an
inactive thread only goes on. -/
def Obligations.FormsJudged : Prop :=
  ∀ (i : Instr) (F : Form), (formOf? i = some F ∨ ∃ w n, packedOf? i = some (F, w, n)) → ∀ s k g t, s.Issuing k g t →
    (inWindow g t F.regs = false → exec i s = .next (s.allotmentFault k t)) ∧
    (∀ r rs, inWindow g t F.regs = true → pendingOf t F.regs = r :: rs → exec i s = .next (s.stay k (.operand (r :: rs)))) ∧
    (formOf? i = some F → F.governed = true → t.active = false → OperandsReady g t F.regs → exec i s = .next (s.retire k id)) ∧
    (∀ w n, packedOf? i = some (F, w, n) → (∀ j, j < n → govBit (t.rdP 0) w j = false) → OperandsReady g t F.regs →
      exec i s = .next (s.retire k id))

/-- R22, R24, R202, R300: every register-only form completes with its operands ready, and its frame: nothing but the destination registers (and the
tags of their pairs), the destination predicate, PC and, for float forms, sticky flags changes; every byte of memory reads as
before. -/
def Obligations.FormsCompleteFrame : Prop :=
  ∀ (i : Instr) (F : Form), (formOf? i = some F ∨ ∃ w n, packedOf? i = some (F, w, n)) → ∀ s k g t, s.Issuing k g t →
    OperandsReady g t F.regs → ∃ u, exec i s = .next u ∧ RegisterFrame s u k g t F

/-! ## Integer, logic, shifts, bit fields -/

/-- R347, R349: the 32-bit integer forms, over the integers and wrapped: sums, differences, products, high halves, the
multiply-add with its addend in d, the lesser and the greater, absolute value and negation.
R347: the 64-bit integer forms, on pairs.
R351, R350, R362: ISET writes every bit of its predicate by the condition, on 32-bit values and on pairs; ISEL selects by bit
0 of p[n]; LEA adds a signed offset to a pair. -/
def Obligations.IntegerForms : Prop :=
  (∀ d a b : Nat,
     Yields (.iadd d a b) (threeRegs 1 d a b) (fun t => t.wr d (BitVec.ofInt 32 ((t.rd a).toInt + (t.rd b).toInt))) ∧
     Yields (.isub d a b) (threeRegs 1 d a b) (fun t => t.wr d (BitVec.ofInt 32 ((t.rd a).toInt - (t.rd b).toInt))) ∧
     Yields (.imul d a b) (threeRegs 1 d a b) (fun t => t.wr d (BitVec.ofInt 32 ((t.rd a).toInt * (t.rd b).toInt))) ∧
     Yields (.imulhS32 d a b) (threeRegs 1 d a b)
       (fun t => t.wr d ((BitVec.ofInt 64 ((t.rd a).toInt * (t.rd b).toInt)).extractLsb' 32 32)) ∧
     Yields (.imulhZ32 d a b) (threeRegs 1 d a b)
       (fun t => t.wr d ((BitVec.ofNat 64 ((t.rd a).toNat * (t.rd b).toNat)).extractLsb' 32 32)) ∧
     Yields (.imad d a b) (threeRegs 1 d a b)
       (fun t => t.wr d (BitVec.ofInt 32 ((t.rd a).toInt * (t.rd b).toInt + (t.rd d).toInt))) ∧
     (∀ imm, Yields (.iaddImm d a imm) (twoRegs 1 d a) (fun t => t.wr d (BitVec.ofInt 32 ((t.rd a).toInt + imm.toInt)))) ∧
     Yields (.imin .s d a b) (threeRegs 1 d a b) (fun t => t.wr d (BitVec.ofInt 32 (min (t.rd a).toInt (t.rd b).toInt))) ∧
     Yields (.imin .z d a b) (threeRegs 1 d a b) (fun t => t.wr d (BitVec.ofNat 32 (min (t.rd a).toNat (t.rd b).toNat))) ∧
     Yields (.imax .s d a b) (threeRegs 1 d a b) (fun t => t.wr d (BitVec.ofInt 32 (max (t.rd a).toInt (t.rd b).toInt))) ∧
     Yields (.imax .z d a b) (threeRegs 1 d a b) (fun t => t.wr d (BitVec.ofNat 32 (max (t.rd a).toNat (t.rd b).toNat))) ∧
     Yields (.iabs d a) (twoRegs 1 d a) (fun t => t.wr d (BitVec.ofInt 32 (t.rd a).toInt.natAbs)) ∧
     Yields (.ineg d a) (twoRegs 1 d a) (fun t => t.wr d (BitVec.ofInt 32 (-(t.rd a).toInt)))) ∧
  (∀ d a b : Nat,
     Yields (.iadd64 d a b) (threeRegs 2 d a b) (fun t => t.wr64 d (BitVec.ofInt 64 ((t.rd64 a).toInt + (t.rd64 b).toInt))) ∧
     Yields (.isub64 d a b) (threeRegs 2 d a b) (fun t => t.wr64 d (BitVec.ofInt 64 ((t.rd64 a).toInt - (t.rd64 b).toInt))) ∧
     Yields (.imul64 d a b) (threeRegs 2 d a b) (fun t => t.wr64 d (BitVec.ofInt 64 ((t.rd64 a).toInt * (t.rd64 b).toInt))) ∧
     Yields (.imad64 d a b) (threeRegs 2 d a b)
       (fun t => t.wr64 d (BitVec.ofInt 64 ((t.rd64 a).toInt * (t.rd64 b).toInt + (t.rd64 d).toInt))) ∧
     Yields (.imin64 .s d a b) (threeRegs 2 d a b) (fun t => t.wr64 d (BitVec.ofInt 64 (min (t.rd64 a).toInt (t.rd64 b).toInt))) ∧
     Yields (.imin64 .z d a b) (threeRegs 2 d a b) (fun t => t.wr64 d (BitVec.ofNat 64 (min (t.rd64 a).toNat (t.rd64 b).toNat))) ∧
     Yields (.imax64 .s d a b) (threeRegs 2 d a b) (fun t => t.wr64 d (BitVec.ofInt 64 (max (t.rd64 a).toInt (t.rd64 b).toInt))) ∧
     Yields (.imax64 .z d a b) (threeRegs 2 d a b) (fun t => t.wr64 d (BitVec.ofNat 64 (max (t.rd64 a).toNat (t.rd64 b).toNat))) ∧
     Yields (.iabs64 d a) (twoRegs 2 d a) (fun t => t.wr64 d (BitVec.ofInt 64 (t.rd64 a).toInt.natAbs)) ∧
     Yields (.ineg64 d a) (twoRegs 2 d a) (fun t => t.wr64 d (BitVec.ofInt 64 (-(t.rd64 a).toInt)))) ∧
  (∀ (p n d a b : Nat) (imm : BitVec 12),
    Yields (.iset .w32 .eq p a b) [(a, 1), (b, 1)] (fun t => t.wrP p (if t.rd a = t.rd b then 0xFF else 0)) ∧
    Yields (.iset .w32 .ne p a b) [(a, 1), (b, 1)] (fun t => t.wrP p (if t.rd a = t.rd b then 0 else 0xFF)) ∧
    Yields (.iset .w32 .ltS p a b) [(a, 1), (b, 1)] (fun t => t.wrP p (if (t.rd a).toInt < (t.rd b).toInt then 0xFF else 0)) ∧
    Yields (.iset .w32 .leS p a b) [(a, 1), (b, 1)] (fun t => t.wrP p (if (t.rd a).toInt ≤ (t.rd b).toInt then 0xFF else 0)) ∧
    Yields (.iset .w32 .ltZ p a b) [(a, 1), (b, 1)] (fun t => t.wrP p (if (t.rd a).toNat < (t.rd b).toNat then 0xFF else 0)) ∧
    Yields (.iset .w32 .leZ p a b) [(a, 1), (b, 1)] (fun t => t.wrP p (if (t.rd a).toNat ≤ (t.rd b).toNat then 0xFF else 0)) ∧
    Yields (.iset .w64 .eq p a b) [(a, 2), (b, 2)] (fun t => t.wrP p (if t.rd64 a = t.rd64 b then 0xFF else 0)) ∧
    Yields (.iset .w64 .ne p a b) [(a, 2), (b, 2)] (fun t => t.wrP p (if t.rd64 a = t.rd64 b then 0 else 0xFF)) ∧
    Yields (.iset .w64 .ltS p a b) [(a, 2), (b, 2)] (fun t => t.wrP p (if (t.rd64 a).toInt < (t.rd64 b).toInt then 0xFF else 0)) ∧
    Yields (.iset .w64 .leS p a b) [(a, 2), (b, 2)] (fun t => t.wrP p (if (t.rd64 a).toInt ≤ (t.rd64 b).toInt then 0xFF else 0)) ∧
    Yields (.iset .w64 .ltZ p a b) [(a, 2), (b, 2)] (fun t => t.wrP p (if (t.rd64 a).toNat < (t.rd64 b).toNat then 0xFF else 0)) ∧
    Yields (.iset .w64 .leZ p a b) [(a, 2), (b, 2)] (fun t => t.wrP p (if (t.rd64 a).toNat ≤ (t.rd64 b).toNat then 0xFF else 0)) ∧
    Yields (.isel n d a b) (threeRegs 1 d a b) (fun t => t.wr d (if (t.rdP n).getLsbD 0 = true then t.rd a else t.rd b)) ∧
    Yields (.lea d a imm) (twoRegs 2 d a) (fun t => t.wr64 d (BitVec.ofInt 64 ((t.rd64 a).toInt + imm.toInt))))

/-- R348, with the examples it lists: IDIV truncates toward zero and IREM takes the sign of the dividend; a zero divisor gives
the quotient of all ones and the dividend as the remainder, with no trap and no flag; the most negative dividend divided by -1
wraps. IMULH gives the upper half of the product, signed or unsigned. -/
def Obligations.Division : Prop :=
  ∀ d a b : Nat,
    YieldsWhen (fun t => t.active = true ∧ t.rd b ≠ 0) (.idiv .s d a b) (threeRegs 1 d a b)
      (fun t => t.wr d (BitVec.ofInt 32 ((t.rd a).toInt.tdiv (t.rd b).toInt))) ∧
    YieldsWhen (fun t => t.active = true ∧ t.rd b ≠ 0) (.idiv .z d a b) (threeRegs 1 d a b)
      (fun t => t.wr d (BitVec.ofNat 32 ((t.rd a).toNat / (t.rd b).toNat))) ∧
    YieldsWhen (fun t => t.active = true ∧ t.rd b ≠ 0) (.irem .s d a b) (threeRegs 1 d a b)
      (fun t => t.wr d (BitVec.ofInt 32 ((t.rd a).toInt - (t.rd a).toInt.tdiv (t.rd b).toInt * (t.rd b).toInt))) ∧
    YieldsWhen (fun t => t.active = true ∧ t.rd b ≠ 0) (.irem .z d a b) (threeRegs 1 d a b)
      (fun t => t.wr d (BitVec.ofNat 32 ((t.rd a).toNat % (t.rd b).toNat))) ∧
    (∀ sg, YieldsWhen (fun t => t.active = true ∧ t.rd b = 0) (.idiv sg d a b) (threeRegs 1 d a b) (fun t => t.wr d 0xFFFFFFFF) ∧
      YieldsWhen (fun t => t.active = true ∧ t.rd b = 0) (.irem sg d a b) (threeRegs 1 d a b) (fun t => t.wr d (t.rd a))) ∧
    YieldsWhen (fun t => t.active = true ∧ t.rd a = 0x80000000 ∧ t.rd b = 0xFFFFFFFF) (.idiv .s d a b) (threeRegs 1 d a b)
      (fun t => t.wr d 0x80000000) ∧
    YieldsWhen (fun t => t.active = true ∧ t.rd a = 0x80000000 ∧ t.rd b = 0xFFFFFFFF) (.irem .s d a b) (threeRegs 1 d a b)
      (fun t => t.wr d 0) ∧
    Yields (.imulhS32 d a b) (threeRegs 1 d a b)
       (fun t => t.wr d ((BitVec.ofInt 64 ((t.rd a).toInt * (t.rd b).toInt)).extractLsb' 32 32)) ∧
     Yields (.imulhZ32 d a b) (threeRegs 1 d a b)
       (fun t => t.wr d ((BitVec.ofNat 64 ((t.rd a).toNat * (t.rd b).toNat)).extractLsb' 32 32))

/-- R313, R369, R405: the bitwise forms, bit by bit, over 32 bits and over pairs.
R369: shifts by any count, of 32 bits and of pairs: SHL and SHR give 0 from the width up, SAR divides toward minus infinity
with the count held to the width less one.
R321, R369: a rotate moves bit i to bit (i + c) mod n; CLZ counts the zero bits above the highest set bit; POPC counts the set
bits; BREV mirrors the word. -/
def Obligations.BitForms : Prop :=
  (∀ d a b : Nat, ∃ (va vn vo vx : Thread → Word) (wa wn wo wx : Thread → DWord),
     Yields (.and d a b) (threeRegs 1 d a b) (fun t => t.wr d (va t)) ∧
     Yields (.andn d a b) (threeRegs 1 d a b) (fun t => t.wr d (vn t)) ∧
     Yields (.or d a b) (threeRegs 1 d a b) (fun t => t.wr d (vo t)) ∧
     Yields (.xor d a b) (threeRegs 1 d a b) (fun t => t.wr d (vx t)) ∧
     Yields (.and64 d a b) (threeRegs 2 d a b) (fun t => t.wr64 d (wa t)) ∧
     Yields (.andn64 d a b) (threeRegs 2 d a b) (fun t => t.wr64 d (wn t)) ∧
     Yields (.or64 d a b) (threeRegs 2 d a b) (fun t => t.wr64 d (wo t)) ∧
     Yields (.xor64 d a b) (threeRegs 2 d a b) (fun t => t.wr64 d (wx t)) ∧
     ∀ t, (∀ j, j < 32 → (va t).getLsbD j = ((t.rd a).getLsbD j && (t.rd b).getLsbD j) ∧
         (vn t).getLsbD j = ((t.rd a).getLsbD j && !(t.rd b).getLsbD j) ∧
         (vo t).getLsbD j = ((t.rd a).getLsbD j || (t.rd b).getLsbD j) ∧
         (vx t).getLsbD j = ((t.rd a).getLsbD j != (t.rd b).getLsbD j)) ∧
       ∀ j, j < 64 → (wa t).getLsbD j = ((t.rd64 a).getLsbD j && (t.rd64 b).getLsbD j) ∧
         (wn t).getLsbD j = ((t.rd64 a).getLsbD j && !(t.rd64 b).getLsbD j) ∧
         (wo t).getLsbD j = ((t.rd64 a).getLsbD j || (t.rd64 b).getLsbD j) ∧
         (wx t).getLsbD j = ((t.rd64 a).getLsbD j != (t.rd64 b).getLsbD j)) ∧
  ((∀ d a b : Nat,
      Yields (.shl d a b) (threeRegs 1 d a b) (fun t => t.wr d
        (if (t.rd b).toNat < 32 then BitVec.ofNat 32 ((t.rd a).toNat * 2 ^ (t.rd b).toNat) else 0)) ∧
      Yields (.shr d a b) (threeRegs 1 d a b) (fun t => t.wr d
        (if (t.rd b).toNat < 32 then BitVec.ofNat 32 ((t.rd a).toNat / 2 ^ (t.rd b).toNat) else 0)) ∧
      Yields (.sar d a b) (threeRegs 1 d a b) (fun t => t.wr d
        (BitVec.ofInt 32 ((t.rd a).toInt / 2 ^ min (t.rd b).toNat 31))) ∧
      Yields (.shl64 d a b) [(d, 2), (a, 2), (b, 1)] (fun t => t.wr64 d
        (if (t.rd b).toNat < 64 then BitVec.ofNat 64 ((t.rd64 a).toNat * 2 ^ (t.rd b).toNat) else 0)) ∧
      Yields (.shr64 d a b) [(d, 2), (a, 2), (b, 1)] (fun t => t.wr64 d
        (if (t.rd b).toNat < 64 then BitVec.ofNat 64 ((t.rd64 a).toNat / 2 ^ (t.rd b).toNat) else 0)) ∧
      Yields (.sar64 d a b) [(d, 2), (a, 2), (b, 1)] (fun t => t.wr64 d
        (BitVec.ofInt 64 ((t.rd64 a).toInt / 2 ^ min (t.rd b).toNat 63)))) ∧
   (∀ d a b : Nat, ∃ (r : Thread → Word) (r64 : Thread → DWord) (z p m : Thread → Word),
      Yields (.rot d a b) (threeRegs 1 d a b) (fun t => t.wr d (r t)) ∧
      Yields (.rot64 d a b) [(d, 2), (a, 2), (b, 1)] (fun t => t.wr64 d (r64 t)) ∧
      Yields (.clz d a) (twoRegs 1 d a) (fun t => t.wr d (z t)) ∧
      Yields (.popc d a) (twoRegs 1 d a) (fun t => t.wr d (p t)) ∧
      Yields (.brev d a) (twoRegs 1 d a) (fun t => t.wr d (m t)) ∧
      ∀ t, (∀ j, j < 32 → (r t).getLsbD ((j + (t.rd b).toNat) % 32) = (t.rd a).getLsbD j) ∧
        (∀ j, j < 64 → (r64 t).getLsbD ((j + (t.rd b).toNat) % 64) = (t.rd64 a).getLsbD j) ∧
        (t.rd a = 0 → (z t).toNat = 32) ∧
        (t.rd a ≠ 0 → (z t).toNat < 32 ∧ (t.rd a).getMsbD (z t).toNat = true ∧ ∀ j, j < (z t).toNat → (t.rd a).getMsbD j = false) ∧
        (p t).toNat = ((List.range 32).map (fun j => ((t.rd a).getLsbD j).toNat)).sum ∧
        ∀ j, j < 32 → (m t).getLsbD (31 - j) = (t.rd a).getLsbD j))

/-- R316: BFX and BFI bit by bit. v[b] gives the position in bits 4:0 and the length in bits 13:8, clipped at bit 31; an empty
field extracts 0 and inserts nothing. -/
def Obligations.BitFields : Prop :=
  ∀ d a b : Nat, ∃ (z x r : Thread → Word),
    Yields (.bfx .z d a b) (threeRegs 1 d a b) (fun t => t.wr d (z t)) ∧
    Yields (.bfx .s d a b) (threeRegs 1 d a b) (fun t => t.wr d (x t)) ∧
    Yields (.bfi d a b) (threeRegs 1 d a b) (fun t => t.wr d (r t)) ∧
    ∀ t, let pos := (t.rd b).toNat % 32
      let w := min ((t.rd b).toNat / 2 ^ 8 % 64) (32 - pos)
      ∀ j, j < 32 → (z t).getLsbD j = (decide (j < w) && (t.rd a).getLsbD (pos + j)) ∧
        (x t).getLsbD j = (decide (0 < w) && (t.rd a).getLsbD (pos + min j (w - 1))) ∧
        (r t).getLsbD j = if pos ≤ j ∧ j < pos + w then (t.rd a).getLsbD (j - pos) else (t.rd d).getLsbD j

/-! ## Floating point, conversions, packed forms -/

/-- R331, R332, R334: the F32 forms read their operands under FTZ, compute the exact result and round it once under FMODE.RM
(read as 0 when it is 4); the result's flags are merged by OR. -/
def Obligations.FloatForms : Prop :=
  ∀ d a b : Nat,
    Yields (.fadd d a b) (threeRegs 1 d a b) (fun t => t.wrF d (fmt32.add t.ftz t.rm (t.rdF a) (t.rdF b))) ∧
    Yields (.fsub d a b) (threeRegs 1 d a b) (fun t => t.wrF d (fmt32.add t.ftz t.rm (t.rdF a) (t.rdF b).neg)) ∧
    Yields (.fmul d a b) (threeRegs 1 d a b) (fun t => t.wrF d (fmt32.mul t.ftz t.rm (t.rdF a) (t.rdF b))) ∧
    Yields (.ffma d a b) (threeRegs 1 d a b) (fun t => t.wrF d (fmt32.fma t.ftz t.rm (t.rdF a) (t.rdF b) (t.rdF d))) ∧
    Yields (.fmin d a b) (threeRegs 1 d a b) (fun t => t.wrF d (fmt32.minMax false (t.rdF a) (t.rdF b))) ∧
    Yields (.fmax d a b) (threeRegs 1 d a b) (fun t => t.wrF d (fmt32.minMax true (t.rdF a) (t.rdF b))) ∧
    Yields (.frcp d a) (twoRegs 1 d a) (fun t => t.wrF d (frcp t.ftz t.rm (t.rdF a))) ∧
    Yields (.fsqrt d a) (twoRegs 1 d a) (fun t => t.wrF d (fsqrt t.ftz t.rm (t.rdF a))) ∧
    Yields (.frsq d a) (twoRegs 1 d a) (fun t => t.wrF d (special .frsq t.ftz (t.rd a) (t.rdF a))) ∧
    Yields (.fexp2 d a) (twoRegs 1 d a) (fun t => t.wrF d (special .fexp2 t.ftz (t.rd a) (t.rdF a))) ∧
    Yields (.flog2 d a) (twoRegs 1 d a) (fun t => t.wrF d (special .flog2 t.ftz (t.rd a) (t.rdF a))) ∧
    Yields (.fsin d a) (twoRegs 1 d a) (fun t => t.wrF d (special .fsin t.ftz (t.rd a) (t.rdF a))) ∧
    Yields (.fcos d a) (twoRegs 1 d a) (fun t => t.wrF d (special .fcos t.ftz (t.rd a) (t.rdF a))) ∧
    Yields (.ftanh d a) (twoRegs 1 d a) (fun t => t.wrF d (special .ftanh t.ftz (t.rd a) (t.rdF a)))

/-- R100: rounding to nearest even lands on a multiple of the grid that is nearest to the exact value m × 2^e, an even one at
a tie, and reports inexactness exactly; rounding toward zero never passes the value.
R95, R96, R331: sums and products of special F32 values. Infinities of unlike sign add to the canonical NaN with IV, a NaN
operand gives the canonical NaN and IV only when it signals, 0 × ∞ is invalid, an infinity with a finite value keeps its sign;
an exact zero sum of unlike zeros is +0, and -0 under RM 2.
R335: what the special functions give for infinities and zeros, whatever FTZ and RM hold, with IV for an invalid input and
DZ for a reciprocal or a logarithm of zero. -/
def Obligations.RoundingAndSpecialValues : Prop :=
  (∀ (neg : Bool) (m k : Nat) (e : Int),
     (let r := roundGrid neg m e false (e + k) 0 0
      2 * (r.1 * 2 ^ k) ≤ 2 * m + 2 ^ k ∧ 2 * m ≤ 2 * (r.1 * 2 ^ k) + 2 ^ k ∧
        (2 * (r.1 * 2 ^ k) = 2 * m + 2 ^ k ∨ 2 * m = 2 * (r.1 * 2 ^ k) + 2 ^ k → 0 < k → r.1 % 2 = 0) ∧
        (r.2 = true ↔ r.1 * 2 ^ k ≠ m)) ∧
     (let r := roundGrid neg m e false (e + k) 1 0
      r.1 * 2 ^ k ≤ m ∧ m < (r.1 + 1) * 2 ^ k ∧ (r.2 = true ↔ r.1 * 2 ^ k ≠ m))) ∧
  ((∀ (ftz x y q : Bool) (rm m n : Nat) (e f : Int) (v : FVal),
      fmt32.add ftz rm (.inf x) (.inf (!x)) = ⟨0x7FC00000, 1⟩ ∧
      fmt32.add ftz rm (.inf x) (.inf x) = ⟨if x then 0xFF800000 else 0x7F800000, 0⟩ ∧
      fmt32.add ftz rm (.inf x) (.fin y m e) = ⟨if x then 0xFF800000 else 0x7F800000, 0⟩ ∧
      fmt32.add ftz rm (.nan q) v = ⟨0x7FC00000, if q || v.snan then 1 else 0⟩ ∧
      fmt32.mul ftz rm (.inf x) (.fin y 0 e) = ⟨0x7FC00000, 1⟩ ∧
      fmt32.fma ftz rm (.fin y 0 e) (.inf x) v = ⟨0x7FC00000, 1⟩ ∧
      (n ≠ 0 → fmt32.mul ftz rm (.inf x) (.fin y n f) = ⟨if xor x y then 0xFF800000 else 0x7F800000, 0⟩) ∧
      fmt32.add ftz rm (.fin false 0 e) (.fin true 0 f) = ⟨if rm = 2 then 0x80000000 else 0, 0⟩ ∧
      fmt32.add ftz rm (.fin true 0 e) (.fin true 0 f) = ⟨0x80000000, 0⟩ ∧
      fmt32.minMax false (.fin false 0 e) (.fin true 0 f) = ⟨0x80000000, 0⟩ ∧
      fmt32.minMax true (.nan q) v = ⟨0x7FC00000, if q || v.snan then 1 else 0⟩) ∧
   (∀ (ftz : Bool) (rm : Nat),
      (∀ x, frcp ftz rm (.inf x) = ⟨if x then 0x80000000 else 0, 0⟩ ∧
        ∀ e, frcp ftz rm (.fin x 0 e) = ⟨if x then 0xFF800000 else 0x7F800000, 2⟩ ∧
          fsqrt ftz rm (.fin x 0 e) = ⟨if x then 0x80000000 else 0, 0⟩) ∧
      fsqrt ftz rm (.inf true) = ⟨0x7FC00000, 1⟩ ∧ fsqrt ftz rm (.inf false) = ⟨0x7F800000, 0⟩ ∧
      ∀ raw : Word,
        special .frsq ftz raw (.inf true) = ⟨0x7FC00000, 1⟩ ∧ special .frsq ftz raw (.inf false) = ⟨0, 0⟩ ∧
        special .fexp2 ftz raw (.inf true) = ⟨0, 0⟩ ∧ special .fexp2 ftz raw (.inf false) = ⟨0x7F800000, 0⟩ ∧
        special .flog2 ftz raw (.inf true) = ⟨0x7FC00000, 1⟩ ∧ special .flog2 ftz raw (.inf false) = ⟨0x7F800000, 0⟩ ∧
        (∀ x, special .fsin ftz raw (.inf x) = ⟨0x7FC00000, 1⟩ ∧ special .fcos ftz raw (.inf x) = ⟨0x7FC00000, 1⟩ ∧
          special .ftanh ftz raw (.inf x) = ⟨if x then 0xBF800000 else 0x3F800000, 0⟩) ∧
        ∀ (x : Bool) (e : Int),
          special .frsq ftz raw (.fin x 0 e) = ⟨if x then 0xFF800000 else 0x7F800000, 2⟩ ∧
          special .fexp2 ftz raw (.fin x 0 e) = ⟨0x3F800000, 0⟩ ∧ special .flog2 ftz raw (.fin x 0 e) = ⟨0xFF800000, 2⟩ ∧
          special .fsin ftz raw (.fin x 0 e) = ⟨if x then 0x80000000 else 0, 0⟩ ∧
          special .fcos ftz raw (.fin x 0 e) = ⟨0x3F800000, 0⟩ ∧
          special .ftanh ftz raw (.fin x 0 e) = ⟨if x then 0x80000000 else 0, 0⟩ ∧
          ∀ m, m ≠ 0 → special .frsq ftz raw (.fin true m e) = ⟨0x7FC00000, 1⟩ ∧
            special .flog2 ftz raw (.fin true m e) = ⟨0x7FC00000, 1⟩ ∧ fsqrt ftz rm (.fin true m e) = ⟨0x7FC00000, 1⟩))

/-- R333: FCMP writes every bit of its predicate and merges IV; NaN is unordered, the zeros are equal; LT and LE signal for any
NaN, EQ, NE and UN for a signalling one.
R326, R327, R102: CVT and CVTD deliver the conversion laid out in their registers; a CVTD whose position overflows under policy
TRAP takes the arithmetic trap and writes nothing, SEED included; under RM 4 every other CVTD advances SEED by one position, for
an inactive thread too.
R104, R105: an F32 value beyond every finite value of the target follows the policy: saturation, infinity or NaN where the
target has one, the trap; for S8 the bounds of its range. NaN converts to the target's NaN, to 0 with IV where it has none. -/
def Obligations.ComparesAndConversions : Prop :=
  ((∀ c p a b, Yields (.fcmp c p a b) [(a, 1), (b, 1)]
     (fun t => (t.wrP p (if (fcompare c (t.rdF a) (t.rdF b)).1 = true then 0xFF else 0)).addFlags (fcompare c (t.rdF a) (t.rdF b)).2)) ∧
   (∀ (q : Bool) (v : FVal), fcompare .eq (.nan q) v = (false, if q || v.snan then 1 else 0) ∧
     fcompare .ne (.nan q) v = (true, if q || v.snan then 1 else 0) ∧ fcompare .un v (.nan q) = (true, if v.snan || q then 1 else 0) ∧
     fcompare .lt v (.nan q) = (false, 1) ∧ fcompare .le (.nan q) v = (false, 1)) ∧
   (∀ (x y : Bool) (e f : Int), fcompare .eq (.fin x 0 e) (.fin y 0 f) = (true, 0) ∧ fcompare .lt (.fin x 0 e) (.fin y 0 f) = (false, 0) ∧
     fcompare .le (.fin x 0 e) (.fin y 0 f) = (true, 0)) ∧
   (∀ (m n : Nat) (e : Int), fcompare .lt (.fin false m e) (.fin false n e) = (decide (m < n), 0) ∧
     fcompare .le (.fin true m e) (.fin true n e) = (decide (n ≤ m), 0) ∧ fcompare .eq (.fin false m e) (.fin false n e) = (decide (m = n), 0))) ∧
  ((∀ (dst src : Kind) (d a : Nat),
      Yields (.cvt dst src d a) [(d, kindRegs dst), (a, kindRegs src)]
        (fun t => (t.wrKind dst d (cvtRes dst src t.ftz (t.rdKind src a)).bits).addFlags (cvtRes dst src t.ftz (t.rdKind src a)).flags) ∧
      ∀ pol : Policy,
        (∀ s k g t r, s.Issuing k g t → t.active = true → OperandsReady g t [(d, kindRegs dst), (a, kindRegs src)] →
          convert dst pol t.ftz (t.fmode.toNat % 8) (drawOf t.seed 0).toNat (kindRead src t.ftz (t.rdKind src a)) = .ok r →
          exec (.cvtd dst src pol d a) s = .next (s.retire k (fun t =>
            let u := (t.wrKind dst d r.bits).addFlags r.flags
            { u with seed := if t.fmode.toNat % 8 = 4 then t.seed + 0x9E3779B9 else t.seed }))) ∧
        (∀ s k g t, s.Issuing k g t → t.active = true → OperandsReady g t [(d, kindRegs dst), (a, kindRegs src)] →
          convert dst pol t.ftz (t.fmode.toNat % 8) (drawOf t.seed 0).toNat (kindRead src t.ftz (t.rdKind src a)) = .trap →
          exec (.cvtd dst src pol d a) s = .next (s.takeTrap k 0x08 t.pc 0 some)) ∧
        YieldsWhen (fun t => t.active = false) (.cvtd dst src pol d a) [(d, kindRegs dst), (a, kindRegs src)]
          (fun t => { t with seed := if t.fmode.toNat % 8 = 4 then t.seed + 0x9E3779B9 else t.seed })) ∧
   (∀ (ftz n : Bool) (mode draw : Nat),
      convert .f16 .inf ftz mode draw (.fin n 1 100) = .ok ⟨if n then 0xFC00 else 0x7C00, 20⟩ ∧
      convert .f16 .sat ftz mode draw (.fin n 1 100) = .ok ⟨if n then 0xFBFF else 0x7BFF, 20⟩ ∧
      convert .f16 .nan ftz mode draw (.fin n 1 100) = .ok ⟨0x7E00, 20⟩ ∧
      convert .e4m3 .inf ftz mode draw (.fin n 1 100) = .ok ⟨if n then 0xFE else 0x7E, 20⟩ ∧
      convert .e4m3 .nan ftz mode draw (.inf n) = .ok ⟨0x7F, 20⟩ ∧
      convert .e2m1 .nan ftz mode draw (.fin n 1 100) = .ok ⟨if n then 0xF else 0x7, 20⟩ ∧
      convert .s8 .nan ftz mode draw (.inf n) = .ok ⟨if n then 0x80 else 0x7F, 20⟩ ∧
      convert .z8 .sat ftz mode draw (.inf true) = .ok ⟨0, 20⟩ ∧
      (∀ dst ∈ [Kind.f32, .f16, .bf16, .e4m3, .e5m2, .e2m3, .e3m2, .e2m1, .s8, .s16, .s32, .z8, .z16, .z32, .b4],
        convert dst .trap ftz mode draw (.fin n 1 1000) = .trap) ∧
      (∀ q, convert .e2m1 .sat ftz mode draw (.nan q) = .ok ⟨0, 1⟩ ∧ convert .s32 .sat ftz mode draw (.nan q) = .ok ⟨0, 1⟩ ∧
        convert .bf16 .sat ftz mode draw (.nan q) = .ok ⟨0x7FC0, if q then 1 else 0⟩)))

/-- R391, R392: the packed integer forms, sub-element by sub-element: the active ones hold the wrapped result, the others keep
their bits; VDOT4 adds the products of the active bytes to d.
R391, R393: the packed float forms: each active half is the form's result at the kind, rounded once, the others keep their
bits; the flags of the active halves alone are merged.
R394: byte select, saturating packs, sign-extending unpacks. -/
def Obligations.PackedForms : Prop :=
  ((∀ (ty : VInt) (d a b : Nat), ∃ va vs vm vl vg vd : Thread → Word,
      let w := match ty with | .s8x4 => 8 | .s16x2 => 16
      let someActive (w n : Nat) (t : Thread) : Prop := ∃ j, j < n ∧ govBit (t.rdP 0) w j = true
      let is (v : Thread → Word) (f : Int → Int → Int) : Prop := ∀ t j, j < 32 / w → subElem w j (v t) =
        if govBit (t.rdP 0) w j = true then (f (subInt w j (t.rd a)) (subInt w j (t.rd b)) % 2 ^ w).toNat else subElem w j (t.rd d)
      YieldsWhen (someActive w (32 / w)) (.vaddInt ty d a b) (threeRegs 1 d a b) (fun t => t.wr d (va t)) ∧
      YieldsWhen (someActive w (32 / w)) (.vsubInt ty d a b) (threeRegs 1 d a b) (fun t => t.wr d (vs t)) ∧
      YieldsWhen (someActive w (32 / w)) (.vmulInt ty d a b) (threeRegs 1 d a b) (fun t => t.wr d (vm t)) ∧
      YieldsWhen (someActive w (32 / w)) (.vminInt ty d a b) (threeRegs 1 d a b) (fun t => t.wr d (vl t)) ∧
      YieldsWhen (someActive w (32 / w)) (.vmaxInt ty d a b) (threeRegs 1 d a b) (fun t => t.wr d (vg t)) ∧
      YieldsWhen (someActive 8 4) (.vdot4 d a b) (threeRegs 1 d a b) (fun t => t.wr d (vd t)) ∧
      is va (· + ·) ∧ is vs (· - ·) ∧ is vm (· * ·) ∧ is vl min ∧ is vg max ∧
      ∀ t, vd t = BitVec.ofInt 32 ((t.rd d).toInt + ((List.range 4).map (fun j =>
        if (t.rdP 0).getLsbD j = true then subInt 8 j (t.rd a) * subInt 8 j (t.rd b) else 0)).sum)) ∧
   (∀ (ty : VFloat) (d a b : Nat),
      let is (i : Instr) (op : Fmt → Thread → FVal → FVal → FVal → FRes) : Prop := ∃ (v : Thread → Word) (fl : Thread → Nat),
        YieldsWhen (fun t => (t.rdP 0).getLsbD 0 = true ∨ (t.rdP 0).getLsbD 2 = true) i (threeRegs 1 d a b)
          (fun t => (t.wr d (v t)).addFlags (fl t)) ∧
        ∀ t, let h (i j : Nat) : FVal := (vfmt ty).read t.ftz (subElem 16 j (t.rd i))
          let r (j : Nat) : FRes := op (vfmt ty) t (h d j) (h a j) (h b j)
          (∀ j, j < 2 → subElem 16 j (v t) = if (t.rdP 0).getLsbD (2 * j) = true then (r j).bits % 2 ^ 16 else subElem 16 j (t.rd d)) ∧
          fl t = (if (t.rdP 0).getLsbD 0 = true then (r 0).flags else 0) ||| (if (t.rdP 0).getLsbD 2 = true then (r 1).flags else 0)
      is (.vaddFloat ty d a b) (fun f t _ x y => f.add t.ftz t.rm x y) ∧ is (.vsubFloat ty d a b) (fun f t _ x y => f.add t.ftz t.rm x y.neg) ∧
      is (.vmulFloat ty d a b) (fun f t _ x y => f.mul t.ftz t.rm x y) ∧ is (.vminFloat ty d a b) (fun f _ _ x y => f.minMax false x y) ∧
      is (.vmaxFloat ty d a b) (fun f _ _ x y => f.minMax true x y) ∧ is (.vfma ty d a b) (fun f t z x y => f.fma t.ftz t.rm x y z))) ∧
  (∀ n d a b : Nat, ∃ vs p8 p16 u8 : Thread → Word,
     YieldsWhen (fun t => ∃ j, j < 4 ∧ (t.rdP 0).getLsbD j = true) (.vsel n d a b) (threeRegs 1 d a b) (fun t => t.wr d (vs t)) ∧
     YieldsWhen (fun t => ∃ j, j < 4 ∧ (t.rdP 0).getLsbD j = true) (.vpack .s8x4 d a b) (threeRegs 1 d a b) (fun t => t.wr d (p8 t)) ∧
     YieldsWhen (fun t => ∃ j, j < 2 ∧ (t.rdP 0).getLsbD (2 * j) = true) (.vpack .s16x2 d a b) (threeRegs 1 d a b) (fun t => t.wr d (p16 t)) ∧
     YieldsWhen (fun t => ∃ j, j < 2 ∧ (t.rdP 0).getLsbD (2 * j) = true) (.vunpk .s8x4 d a b) (threeRegs 1 d a b) (fun t => t.wr d (u8 t)) ∧
     Yields (.vunpk .s16x2 d a b) (threeRegs 1 d a b)
       (fun t => t.wr d (BitVec.ofInt 32 (subInt 16 (if (t.rd b).getLsbD 0 = true then 1 else 0) (t.rd a)))) ∧
     ∀ t, (∀ j, j < 4 → subElem 8 j (vs t) =
         subElem 8 j (if (t.rdP 0).getLsbD j = false then t.rd d else if (t.rdP n).getLsbD j = true then t.rd a else t.rd b)) ∧
       (∀ j, j < 4 → subInt 8 j (p8 t) = if (t.rdP 0).getLsbD j = true then
         max (-128) (min 127 (subInt 16 (j % 2) (if j < 2 then t.rd a else t.rd b))) else subInt 8 j (t.rd d)) ∧
       (∀ j, j < 2 → subInt 16 j (p16 t) = if (t.rdP 0).getLsbD (2 * j) = true then
         max (-32768) (min 32767 (if j = 0 then t.rd a else t.rd b).toInt) else subInt 16 j (t.rd d)) ∧
       ∀ j, j < 2 → subInt 16 j (u8 t) = if (t.rdP 0).getLsbD (2 * j) = true then
         subInt 8 ((if (t.rd b).getLsbD 0 = true then 2 else 0) + j) (t.rd a) else subInt 16 j (t.rd d))

/-! ## Predicates, moves, special registers -/

/-- R370: the predicate operations, in every thread that issues them.
R365, R202: moves. A 64-bit MOV copies the tag of its source pair; every other move clears the tag of the pair that holds its
destination; MOVH keeps bits 12:0.
R355, R356, R35: KMOV waits for a KLD of its own thread into the register; else it reads an untagged pair from the copy of
the thread's core, or writes the register in every copy of the group. -/
def Obligations.Moves : Prop :=
  ((∀ d a b v : Nat,
      YieldsAlways (.pand d a b) [] (fun t => t.wrP d (t.rdP a &&& t.rdP b)) ∧
      YieldsAlways (.por d a b) [] (fun t => t.wrP d (t.rdP a ||| t.rdP b)) ∧
      YieldsAlways (.pxor d a b) [] (fun t => t.wrP d (t.rdP a ^^^ t.rdP b)) ∧
      YieldsAlways (.pnot d a) [] (fun t => t.wrP d (~~~(t.rdP a))) ∧
      YieldsAlways (.pmovPred d a) [] (fun t => t.wrP d (t.rdP a)) ∧
      YieldsAlways (.pmovFromV d v) [(v, 1)] (fun t => t.wrP d ((t.rd v).extractLsb' 0 8)) ∧
      YieldsAlways (.pmovToV a v) [(v, 1)] (fun t => t.wr v ((t.rdP a).setWidth 32)) ∧
      ∀ (t : Thread) (x : BitVec 8), (t.wrP d x).rdP d = x ∧ ∀ n, n ≠ d → (t.wrP d x).rdP n = t.rdP n) ∧
   (∀ (d a : Nat) (imm : BitVec 19),
      Yields (.mov d a) (twoRegs 1 d a) (fun t => t.wr d (t.rd a)) ∧
      Yields (.movi d imm) [(d, 1)] (fun t => t.wr d (BitVec.ofInt 32 imm.toInt)) ∧
      Yields (.movh d imm) [(d, 1)] (fun t => t.wr d (imm ++ (t.rd d).extractLsb' 0 13)) ∧
      (∃ f : Thread → Thread, Yields (.mov64 d a) (twoRegs 2 d a) f ∧ ∀ t, (f t).rd64 d = t.rd64 a ∧ (f t).tag d = t.tag a ∧
        (∀ r, r ≠ t.wbase + d → r ≠ t.wbase + d + 1 → (f t).rdAbs r = t.rdAbs r)) ∧
      (∀ n, Yields .nop [] id ∧ YieldsAlways .nop [] id ∧ YieldsAlways (.prio n) [] (fun t => { t with prio := n }) ∧
        YieldsAlways .yield [] (fun t => { t with demoted := true, demLeft := 64 })))) ∧
  (∀ (d a n : Nat) s k g t, s.Issuing k g t → t.active = true →
     (OperandsReady g t [(d, 2)] → n ∉ t.kpend →
       exec (.kmovFromK d n) s = .next (s.retire k (fun t => t.wr64 d (g.rdK (g.shareIndex k.tidx) n)))) ∧
     (OperandsReady g t [(d, 2)] → n ∈ t.kpend → exec (.kmovFromK d n) s = .next (s.stay k (.kreg n))) ∧
     (OperandsReady g t [(a, 2)] → n ∈ t.kpend → exec (.kmovToK n a) s = .next (s.stay k (.kreg n))) ∧
     (OperandsReady g t [(a, 2)] → n ∉ t.kpend → ∃ u g', exec (.kmovToK n a) s = .next u ∧ u.group? k.uid = some g' ∧
       (∀ j, j < g.shares.length → g'.rdK j n = t.rd64 a ∧ ∀ m, m ≠ n → g'.rdK j m = g.rdK j m) ∧
       g'.threads = g.threads.set k.tidx { t with pc := t.pc + 4, wait := .none } ∧ SameBytes s u))

/-- R299, R384: SRD reads every special register as its rule gives it; the destination pair loses its tag; TBLO captures TBHI for
the thread's next read of it.
R385, R22, R99, R397: SWR writes the writable registers, with the bits each keeps; an RM of 5 to 7 traps with CAUSE 0x01 and
FMODE keeps its value; WBASE acts as WINB, which moves the window to a multiple of 8 that leaves it in the allotment, and
otherwise raises the allotment fault. -/
def Obligations.SpecialRegisters : Prop :=
  (∀ (d : Nat) s k g t, s.Issuing k g t →
     let gives (r : SReg) (v : Nat) : Prop := OperandsReady g t [(d, 1)] →
       exec (.srd d r) s = .next (s.retire k (fun t => t.wr d (BitVec.ofNat 32 v)))
     let gives64 (r : SReg) (v : Nat) : Prop := OperandsReady g t [(d, 2)] →
       exec (.srd d r) s = .next (s.retire k (fun t => t.wr64 d (BitVec.ofNat 64 v)))
     gives .tidx k.tidx ∧ gives .crew (k.tidx / 32 % 1024 + 1024 * g.lr.role (k.tidx / 32)) ∧ gives .gidx g.gidx ∧
     gives .gsize g.lr.threads ∧ gives .ngrp g.lr.groups ∧ gives64 .pbase (g.lr.pbase g.gidx) ∧ gives .slim g.lr.slimw ∧
     gives .scrb (2048 * g.lr.scrg) ∧ gives .wbase t.wbase ∧ gives .repc t.repc ∧ gives .prio t.prio.toNat ∧
     gives .fmode t.fmode.toNat ∧ gives .fflags t.fflags.toNat ∧ gives .mprg t.mprg.toNat ∧ gives .trapc t.trapc.toNat ∧
     gives64 .trappc t.trappc.toNat ∧ gives64 .trapva t.trapva.toNat ∧ gives .trapdepth t.depth ∧ gives .seed t.seed.toNat ∧
     gives64 .cyc (s.pkgD g.pkg).cyc ∧
     (OperandsReady g t [(d, 1)] → exec (.srd d .tblo) s = .next (s.retire k (fun t =>
       { t.wr d (BitVec.ofNat 32 (s.pkgD g.pkg).timebase) with tbhi := some (BitVec.ofNat 32 ((s.pkgD g.pkg).timebase / 2 ^ 32)) }))) ∧
     (∀ w, t.tbhi = some w → OperandsReady g t [(d, 1)] →
       exec (.srd d .tbhi) s = .next (s.retire k (fun t => { t.wr d w with tbhi := none }))) ∧
     (t.tbhi = none → OperandsReady g t [(d, 1)] → exec (.srd d .tbhi) s = .next (s.retire k (fun t =>
       { t.wr d (BitVec.ofNat 32 ((s.pkgD g.pkg).timebase / 2 ^ 32)) with tbhi := none })))) ∧
  (∀ (a b : Nat) s k g t, s.Issuing k g t →
     (OperandsReady g t [(a, 1)] →
       exec (.swr .prio a) s = .next (s.retire k (fun t => { t with prio := (t.rd a).extractLsb' 0 3 })) ∧
       ((t.rd a).toNat % 8 < 5 → exec (.swr .fmode a) s = .next (s.retire k (fun t => { t with fmode := t.rd a &&& 0xF#32 }))) ∧
       (5 ≤ (t.rd a).toNat % 8 → exec (.swr .fmode a) s = .next (s.takeTrap k 0x01 t.pc 0 some)) ∧
       exec (.swr .fflags a) s = .next (s.retire k (fun t => { t with fflags := t.rd a &&& 0x1F#32 })) ∧
       exec (.swr .trapc a) s = .next (s.retire k (fun t => { t with trapc := t.rd a &&& 0xF0FF#32 })) ∧
       exec (.swr .seed a) s = .next (s.retire k (fun t => { t with seed := t.rd a })) ∧
       exec (.swr .wbase a) s = exec (.winb (t.rd a).toNat) s) ∧
     (OperandsReady g t [(a, 2)] →
       exec (.swr .trapva a) s = .next (s.retire k (fun t => { t with trapva := t.rd64 a })) ∧
       exec (.swr .trappc a) s = .next (s.retire k (fun t => { t with trappc := t.rd64 a &&& ~~~3#64 }))) ∧
     (b % 8 = 0 → b + g.lr.window ≤ g.lr.allot → exec (.winb b) s = .next (s.retire k (fun t => { t with wbase := b }))) ∧
     (b % 8 ≠ 0 ∨ g.lr.allot < b + g.lr.window → exec (.winb b) s = .next (s.allotmentFault k t)))

/-! ## Cross-lane -/

/-- R29, R398: a thread that issues a cross-lane instruction while another thread of its crew is neither parked nor exited only
parks there.
R404, R32: XIDX reports, in an ordinary instruction, the remapping-table entry of a crew index: core, lane and slot.
R29, R399 to R403: once every other thread of the crew has exited or is parked at the same instruction, the last arrival executes
it as one operation, and every member goes on. XSHF gives each active member the value of the active member it names, or its
own; XBAL the mask of active members whose predicate bit is 1; XVOTE the vote; XRED.ADD the sum over the active members and
XSCAN.ADD the sum over the active members up to its own index, wrapped. An inactive member's registers and predicates are unchanged. -/
def Obligations.CrossLane : Prop :=
  ((∀ (i : Instr) (sp : Spans), ((∃ d a b, i = .xshf .w32 d a b ∧ sp = threeRegs 1 d a b) ∨
        (∃ d a b, i = .xshf .w64 d a b ∧ sp = [(d, 2), (a, 2), (b, 1)]) ∨ (∃ d p, i = .xbal d p ∧ sp = [(d, 1)]) ∨
        (∃ v p a, i = .xvote v p a ∧ sp = []) ∨ (∃ op d a, i = .xred op d a ∧ sp = twoRegs 1 d a) ∨
        (∃ op d a, i = .xscan op d a ∧ sp = twoRegs 1 d a)) →
      ∀ s k g t n u, s.Issuing k g t → OperandsReady g t sp →
        g.threads[n]? = some u → n / 32 = k.tidx / 32 → n ≠ k.tidx → u.exited = false → u.park = none →
        exec i s = .next (s.modThread k (fun t => { t with park := some i, wait := .none }))) ∧
   (∀ (d a : Nat) s k g t m, s.Issuing k g t → t.active = true → OperandsReady g t (twoRegs 1 d a) →
      g.threads[k.tidx / 32 * 32 + (t.rd a).toNat % 32]? = some m →
      exec (.xidx d a) s = .next (s.retire k (fun t =>
        t.wr d (BitVec.ofNat 32 (m.place.core % 512 * 2 ^ 14 + m.place.lane % 64 * 2 ^ 8 + m.place.slot % 32)))))) ∧
  (∀ (i : Instr) (sp : Spans), ((∃ d a b, i = .xshf .w32 d a b ∧ sp = threeRegs 1 d a b) ∨ (∃ d p, i = .xbal d p ∧ sp = [(d, 1)]) ∨
       (∃ v p a, i = .xvote v p a ∧ sp = []) ∨ (∃ d a, i = .xred .add d a ∧ sp = twoRegs 1 d a) ∨
       (∃ d a, i = .xscan .add d a ∧ sp = twoRegs 1 d a)) →
     ∀ s k g t, s.Issuing k g t → OperandsReady g t sp → t.exited = false →
       (∀ n u, g.threads[n]? = some u → n / 32 = k.tidx / 32 → n ≠ k.tidx → u.exited = false → u.park = some i ∧ u.pc = t.pc) →
       ∃ v, exec i s = .next v ∧ ∀ n u, g.threads[n]? = some u → n / 32 = k.tidx / 32 → u.exited = false →
         let member (j : Nat) (m : Thread) : Prop :=
           g.threads[k.tidx / 32 * 32 + j]? = some m ∧ j < 32 ∧ m.exited = false ∧ m.active = true
         ∃ u', v.thread? ⟨k.uid, n⟩ = some u' ∧ u'.pc = t.pc + 4 ∧ u'.park = none ∧
           (u.active = false → u'.regs = u.regs ∧ u'.preds = u.preds ∧ u'.tags = u.tags) ∧
           (u.active = true →
             (∀ d a b, i = .xshf .w32 d a b → (∀ m, member ((u.rd b).toNat % 32) m → u'.rd d = m.rd a) ∧
               ((∀ m, ¬ member ((u.rd b).toNat % 32) m) → u'.rd d = u.rd a)) ∧
             (∀ d p, i = .xbal d p → ∀ j, j < 32 → ((u'.rd d).getLsbD j = true ↔ ∃ m, member j m ∧ (m.rdP p).getLsbD 0 = true)) ∧
             (∀ p a, i = .xvote .all p a → (u'.rdP p = 0xFF ↔ ∀ j m, member j m → (m.rdP a).getLsbD 0 = true)) ∧
             (∀ p a, i = .xvote .any p a → (u'.rdP p = 0xFF ↔ ∃ j m, member j m ∧ (m.rdP a).getLsbD 0 = true)) ∧
             (∀ p a, i = .xvote .eq p a → (u'.rdP p = 0xFF ↔ ∃ x, ∀ j m, member j m → (m.rdP a).getLsbD 0 = x)) ∧
             let val (a j : Nat) : Word := match g.threads[k.tidx / 32 * 32 + j]? with
               | some m => if m.exited = false ∧ m.active = true then m.rd a else 0 | none => 0
             (∀ d a, i = .xred .add d a → u'.rd d = ((List.range 32).map (val a)).sum) ∧
             (∀ d a, i = .xscan .add d a → u'.rd d = ((List.range (n % 32 + 1)).map (val a)).sum)))
/-! ## Control flow -/

/-- R318, R319, R354, R26: branches and jumps, in every thread that issues them. A taken branch goes to its own address plus four
times the offset and ends a YIELD demotion; an untaken one goes on at the next word and does not; BR to an address with bits
1:0 set traps with CAUSE 0x04 and TRAPVA at the target. -/
def Obligations.Branches : Prop :=
  ∀ (a p : Nat) (o : BitVec 16) s k g t, s.Issuing k g t →
    let jumps (i : Instr) (pc : DWord) : Prop := exec i s = .next (s.modThread k (fun t =>
      { t with pc := pc, wait := .none, demoted := false, demLeft := 0 }))
    let target := t.pc + BitVec.ofInt 64 (4 * o.toInt)
    (OperandsReady g t [(a, 1)] →
      (t.rd a = 0 → jumps (.brz a o) target ∧ exec (.bnz a o) s = .next (s.retire k id)) ∧
      (t.rd a ≠ 0 → jumps (.bnz a o) target ∧ exec (.brz a o) s = .next (s.retire k id))) ∧
    ((t.rdP p).getLsbD 0 = true → jumps (.brp p o) target) ∧
    ((t.rdP p).getLsbD 0 = false → exec (.brp p o) s = .next (s.retire k id)) ∧
    jumps (.jmp o) target ∧
    (OperandsReady g t [(a, 2)] → (t.rd64 a).toNat % 4 = 0 → jumps (.br a) (t.rd64 a)) ∧
    (OperandsReady g t [(a, 2)] → (t.rd64 a).toNat % 4 ≠ 0 → exec (.br a) s = .next (s.takeTrap k 0x04 t.pc (t.rd64 a) some))

/-- R39, R320, R375: calls push the address after them on the return stack of eight and go to their target; RET pops the newest
entry. A call on a full stack first spills its oldest entry to the two private words of the next spill slot, and a RET whose
stack has emptied refills from the newest; a call whose spill slot would fall below SLIM, and a RET with no entry and no spill, trap with CAUSE
0x03. -/
def Obligations.CallsAndReturns : Prop :=
  ∀ (a : Nat) (o : BitVec 16) s k g t, s.Issuing k g t →
    let pushes (i : Instr) (pc : DWord) : Prop := exec i s = .next (s.modThread k (fun t =>
      { t with pc := pc, rs := t.rs ++ [t.pc + 4], wait := .none, demoted := false, demLeft := 0 }))
    (t.rs.length < 8 → t.pc.toNat % 4 = 0 → pushes (.call o) (t.pc + BitVec.ofInt 64 (4 * o.toInt))) ∧
    (t.rs.length < 8 → OperandsReady g t [(a, 2)] → (t.rd64 a).toNat % 4 = 0 → pushes (.callReg a) (t.rd64 a)) ∧
    (OperandsReady g t [(a, 2)] → (t.rd64 a).toNat % 4 ≠ 0 →
      exec (.callReg a) s = .next (s.takeTrap k 0x04 t.pc (t.rd64 a) some)) ∧
    (8 ≤ t.rs.length → t.pc.toNat % 4 = 0 → (g.lr.privw : Int) - 2 * t.spills - 2 < g.lr.slimw →
      exec (.call o) s = .next (s.takeTrap k 0x03 t.pc (g.privAddr k.tidx ((g.lr.privw : Int) - 2 * t.spills - 2)) some)) ∧
    (8 ≤ t.rs.length → t.pc.toNat % 4 = 0 → (g.lr.slimw : Int) ≤ (g.lr.privw : Int) - 2 * t.spills - 2 →
      let w : Int := (g.lr.privw : Int) - 2 * t.spills - 2
      exec (.call o) s = .next (s.issueAccess k g t { s.newAccess k g t .spill 4 (g.privAddr k.tidx w) with
        va2 := g.privAddr k.tidx (w + 1), data := t.rs.headD 0, data2 := t.pc + BitVec.ofInt 64 (4 * o.toInt) } false id)) ∧
    (t.rs = [] → 0 < t.spills →
      let w : Int := (g.lr.privw : Int) - 2 * (t.spills - 1) - 2
      exec .ret s = .next (s.issueAccess k g t { s.newAccess k g t .refill 4 (g.privAddr k.tidx w) with
        va2 := g.privAddr k.tidx (w + 1) } false id)) ∧
    (∀ r, t.rs.getLast? = some r → r.toNat % 4 = 0 → exec .ret s = .next (s.modThread k (fun t =>
      { t with pc := r, rs := t.rs.dropLast, wait := .none, demoted := false, demLeft := 0 }))) ∧
    (t.rs = [] → t.spills = 0 →
      exec .ret s = .next (s.takeTrap k 0x03 t.pc (g.privAddr k.tidx ((g.lr.privw : Int) - 2)) some))

/-- R36, R37, R38, R374: REP and REP_REG whose follower can be fetched complete: a count other than 0 begins the repetition, and the next
issue is its first iteration; a count of 0 goes on after the follower. A follower that R37 allows begins the repetition at iteration 0 with its
count and strides; a count of 0 skips the follower; a follower that R37 forbids traps with CAUSE 0x01 at the REP, even with a
count of 0. A REP reached again by its own repetition goes on with it.
R36 steps 2 to 5, R37: iteration i performs the follower with each register field f replaced by f + i × its stride; a register
at or beyond the allotment, then an odd field that the form requires even, makes it trap; PAND, branches, EXIT, REP, WINB,
cross-lane forms and role-bound commands may not follow. After an iteration that retired, the next one is due, or REPC is 0. -/
def Obligations.Repetition : Prop :=
  (∀ (sd sa sb n c : Nat) s k g t w, s.Issuing k g t → (∀ r, t.rep = some r → r.at_ ≠ t.pc) →
     (s.fetchWord k g t (t.pc + 4)).2 = .word w → followerOf sd sa sb w ≠ none →
     let after (v : Thread) (m : Nat) : Prop := v.regs = t.regs ∧ v.wait = .none ∧
       (m ≠ 0 → v.pc = t.pc + 4 ∧ v.rep = some { at_ := t.pc, word := w, i := 0, n := m, sd := sd, sa := sa, sb := sb } ∧ v.repc = m) ∧
       (m = 0 → v.pc = t.pc + 8 ∧ v.rep = none ∧ v.repc = 0)
     (∃ u v, exec (.rep sd sa sb n) s = .next u ∧ u.thread? k = some v ∧ after v n) ∧
     (OperandsReady g t [(c, 1)] → ∃ u v, exec (.repReg sd sa sb c) s = .next u ∧ u.thread? k = some v ∧ after v (t.rd c).toNat)) ∧
  (∀ (sd sa sb n c : Nat) s k g t, s.Issuing k g t →
     (∀ r, t.rep = some r → r.at_ = t.pc →
       exec (.rep sd sa sb n) s = .next (s.retire k id) ∧ exec (.repReg sd sa sb c) s = .next (s.retire k id)) ∧
     ∀ s' w, (∀ r, t.rep = some r → r.at_ ≠ t.pc) → s.fetchWord k g t (t.pc + 4) = (s', .word w) →
     let begins (i : Instr) (m : Nat) : Prop := exec i s = .next (s'.retire k (fun t =>
       { t with rep := some { at_ := t.pc, word := w, i := 0, n := m, sd := sd, sa := sa, sb := sb } }))
     let skips (i : Instr) : Prop := exec i s = .next (s'.modThread k (fun t => { t with pc := t.pc + 8, wait := .none, rep := none }))
     (followerOf sd sa sb w = none → exec (.rep sd sa sb n) s = .next (s'.trapAt k 0x01 0) ∧
       exec (.repReg sd sa sb c) s = .next (s'.trapAt k 0x01 0)) ∧
     (followerOf sd sa sb w ≠ none →
       (n ≠ 0 → begins (.rep sd sa sb n) n) ∧ (n = 0 → skips (.rep sd sa sb n)) ∧
       (OperandsReady g t [(c, 1)] → t.rd c ≠ 0 → begins (.repReg sd sa sb c) (t.rd c).toNat) ∧
       (OperandsReady g t [(c, 1)] → t.rd c = 0 → skips (.repReg sd sa sb c)))) ∧
  ((∀ (g : Group) (t : Thread) (r : Rep) (d a b : Nat), followerOf r.sd r.sa r.sb r.word = some (.iadd d a b) →
     let x (f st : Nat) : Nat := f + r.i * st
     ((∀ f ∈ [x d r.sd, x a r.sa, x b r.sb], t.wbase + f < g.lr.allot) →
       iteration g t r = .run (.iadd (x d r.sd) (x a r.sa) (x b r.sb))) ∧
     ((∃ f ∈ [x d r.sd, x a r.sa, x b r.sb], g.lr.allot ≤ t.wbase + f) → iteration g t r = .trap 0x02)) ∧
   (∀ (g : Group) (t : Thread) (r : Rep) (d a b : Nat), followerOf r.sd r.sa r.sb r.word = some (.iadd64 d a b) →
     (∀ f ∈ [d + r.i * r.sd, a + r.i * r.sa, b + r.i * r.sb], t.wbase + f < g.lr.allot) →
     (d + r.i * r.sd) % 2 = 1 → iteration g t r = .trap 0x01) ∧
   (∀ sd sa sb w i, decodeWord w = .ok i → (i = .exit ∨ i = .nop ∨ (∃ o, i = .jmp o) ∨ (∃ b, i = .winb b) ∨ (∃ d a b n, i = .rep d a b n) ∨
     (∃ d a b, i = .pand d a b) ∨ (∃ x d a b, i = .xshf x d a b) ∨ (∃ h n, i = .cpt h n) ∨ (∃ h n, i = .scn h n) ∨ (∃ h n z, i = .mma h n z) ∨
     (∃ a, i = .swr .wbase a)) → followerOf sd sa sb w = none) ∧
   (∀ (s : State) (k : TKey) (t : Thread) (r : Rep) (depth : Nat), s.thread? k = some t → t.rep = some r → t.pc = r.at_ + 8 →
     t.depth = depth → ∃ u, (s.afterIteration k r depth).thread? k = some u ∧
       (r.i + 1 < r.n → u.pc = r.at_ + 4 ∧ u.rep = some { r with i := r.i + 1 } ∧ u.repc = r.n - (r.i + 1)) ∧
       (r.n ≤ r.i + 1 → u.pc = r.at_ + 8 ∧ u.rep = none ∧ u.repc = 0)))

/-! ## Traps -/

/-- R86, R87: a trap taken with a handler at depth 0 or 1 saves TRAPC, TRAPPC and TRAPVA (at depth 1 after moving the old ones to
the outer slot), adds one to TRAPDEPTH, ends a YIELD demotion, withdraws the thread from a park or a wait and goes to TRAPVEC;
nothing else of the thread changes, and no byte of its registers.
R87 step 1, R90: a trap with no handler, or at depth 2, is fatal: the groups of the fault domain freeze, those of other domains
do not, and no thread changes.
R88, R390, R389: TRET goes to TRAPPC with bits 1:0 zero, takes one from TRAPDEPTH and, from depth 2, restores the outer slot; at
depth 0 it traps with CAUSE 0x01. TRAP takes a trap with CAUSE 0x0C, TRAPPC after it and TRAPVA 0.
R317, R339: with an ATTACH that covers the region and the leaf's permission, BKPT and HALT retire and ask for a halt of the
group, with STOPCAUSE 3 and 1; otherwise BKPT traps with CAUSE 0x0A, TRAPPC after it, having written its trace record, and
HALT retires with no effect. -/
def Obligations.Traps : Prop :=
  ((∀ (s : State) (k : TKey) (g : Machine.Group) (t : Thread) (c : Word) (pc va : DWord), s.Issuing k g t → s.effTrapvec g.pkg g.leaf ≠ 0 → t.depth < 2 →
      (s.effDbg g.pkg g.leaf).getLsbD 7 = false →
      ∃ u, (s.takeTrap k c pc va some).thread? k = some u ∧ u.trapc = c ∧ u.trappc = pc ∧ u.trapva = va ∧ u.depth = t.depth + 1 ∧
        u.pc = BitVec.ofNat 64 (s.effTrapvec g.pkg g.leaf) ∧ u.demoted = false ∧ u.park = none ∧ u.wait = .none ∧
        (t.depth = 1 → u.otrapc = t.trapc ∧ u.otrappc = t.trappc ∧ u.otrapva = t.trapva) ∧
        u.regs = t.regs ∧ u.tags = t.tags ∧ u.preds = t.preds ∧ u.handles = t.handles ∧ u.rs = t.rs ∧ u.fmode = t.fmode ∧
        u.fflags = t.fflags ∧ u.seed = t.seed ∧ u.rep = t.rep ∧ u.log = t.log ∧ u.prio = t.prio ∧ u.wbase = t.wbase) ∧
   (∀ (s : State) (k : TKey) (g : Machine.Group) (t : Thread) (c : Word) (pc va : DWord), s.Issuing k g t → (s.effTrapvec g.pkg g.leaf = 0 ∨ 2 ≤ t.depth) →
      ∀ x h, s.group? x = some h → ∃ h', (s.takeTrap k c pc va some).group? x = some h' ∧ h'.threads = h.threads ∧
        (s.domainRoot h.pkg h.leaf = s.domainRoot g.pkg g.leaf → h'.frozen = true) ∧
        (s.domainRoot h.pkg h.leaf ≠ s.domainRoot g.pkg g.leaf → h' = h))) ∧
  ((∀ (c : BitVec 16) s k g t, s.Issuing k g t →
      (t.depth = 0 → exec .tret s = .next (s.takeTrap k 0x01 t.pc 0 some)) ∧
      (t.depth ≠ 0 → ∃ u v, exec .tret s = .next u ∧ u.thread? k = some v ∧ v.pc = t.trappc &&& ~~~3#64 ∧ v.depth = t.depth - 1 ∧
        v.wait = .none ∧ v.regs = t.regs ∧ v.fflags = t.fflags ∧
        (t.depth = 2 → v.trapc = t.otrapc ∧ v.trappc = t.otrappc ∧ v.trapva = t.otrapva) ∧
        (t.depth = 1 → v.trapc = t.trapc ∧ v.trappc = t.trappc ∧ v.trapva = t.trapva)) ∧
      exec (.trap c) s = .next (s.takeTrap k 0x0C (t.pc + 4) 0 some)) ∧
   (∀ s k g t, s.Issuing k g t →
      (s.attachFor g.pkg g.leaf ≠ none → (s.effDbg g.pkg g.leaf).getLsbD 2 = true →
        exec .bkpt s = .next ((s.retire k id).requestStop k.uid 3 (some k.tidx) k.tidx none)) ∧
      (s.attachFor g.pkg g.leaf ≠ none → (s.effDbg g.pkg g.leaf).getLsbD 0 = true →
        exec .halt s = .next ((s.retire k id).requestStop k.uid 1 none k.tidx none)) ∧
      (s.attachFor g.pkg g.leaf = none ∨ (s.effDbg g.pkg g.leaf).getLsbD 0 = false → exec .halt s = .next (s.retire k id)) ∧
      (s.attachFor g.pkg g.leaf = none ∨ (s.effDbg g.pkg g.leaf).getLsbD 2 = false →
        let s' := s.trace g.pkg g.leaf 15 (threadName g k.tidx (dieOf t.place.core)) 0xFFFFFFFF t.pc.toNat
        exec .bkpt s = .next (s'.takeTrap k 0x0A (t.pc + 4) 0 some)) ∧
      (∀ (u : State) (c n : Nat) (h : Group), u.group? k.uid = some h → h.stop = none →
        ∃ h', (u.requestStop k.uid c (some k.tidx) n none).group? k.uid = some h' ∧
          h'.stop = some { cause := c, hits := [k.tidx], named := n, fn := none, asked := [] } ∧ h'.threads = h.threads)))

/-! ## Barriers, fences, the end of a thread -/

/-- R314: a BAR of a group on one core, its log empty and no earlier access in flight, arrives: the thread waits in the current
generation; the last arrival completes the generation, and every thread of the group that has not exited goes on after its BAR, at once
where no debugger holds it (R315); a thread whose generation completed while it was held passes when it issues its BAR again.
R338, R82: a FENCE of GROUP scope in a group on one core completes at once when its log is empty and no earlier access of its
thread is in flight; with an access that its part waits for, it holds the thread; a log that is not empty holds it before. -/
def Obligations.BarrierAndFence : Prop :=
  (∀ s k g t, s.Issuing k g t → g.shares.length ≤ 1 →
     (t.wait = .none → t.exited = false → t.log = [] → s.accOf k = [] → g.issues = true → (∀ u ∈ g.threads, u.iterates = none) →
       (∀ n u, n ≠ k.tidx → g.threads[n]? = some u → u.exited = true ∨ u.wait = .bar g.barGen) →
       ∃ u g', exec .bar s = .next u ∧ u.group? k.uid = some g' ∧ g'.barGen = g.barGen + 1 ∧ SameBytes s u ∧
         ∀ (n : Nat) (v : Thread), g.threads[n]? = some v → v.exited = false →
           g'.threads[n]? = some { v with pc := v.pc + 4, wait := .none, skipBp := false }) ∧
     (t.wait = .none → t.exited = false → t.log = [] → s.accOf k = [] → ∀ n u, n ≠ k.tidx → g.threads[n]? = some u →
       u.exited = false → u.wait ≠ .bar g.barGen → exec .bar s = .next (s.stay k (.bar g.barGen))) ∧
     (t.wait = .bar g.barGen → exec .bar s = .next s) ∧
     (∀ n, t.wait = .bar n → n ≠ g.barGen → exec .bar s = .next (s.retire k id))) ∧
  (∀ (ord : FenceOrder) s k g t, s.Issuing k g t → g.shares.length ≤ 1 → t.wait = .none →
     (t.log = [] → s.accOf k = [] → exec (.fence .grp ord) s = .next (s.retire k id)) ∧
     (s.logEmpty k t = false → ∀ sc, exec (.fence sc ord) s = .next (s.stay k .logEmpty)) ∧
     (∀ x a, t.log = [] → s.accOf k = [(x, a)] → a.stage = .ready → a.kind = .st → ord ≠ .acq →
       ∃ u v, exec (.fence .grp ord) s = .next u ∧ u.thread? k = some v ∧ v.pc = t.pc ∧ v.wait ≠ .none))

/-- R43, R329: EXIT waits for an empty log; then the thread issues nothing more, its handles and counters are released, its return stack and
trap depth are gone, and the group stays in its phase unless the exit was its last.
R395, R388, R42: WAITC passes when each of its four counters stands at most at its limit, and holds its thread otherwise; 63,
63, 63, 63 passes whatever 63 or fewer operations are under way. TMARK with tracing off retires with no effect. -/
def Obligations.ExitCountersAndMarks : Prop :=
  (∀ s k g t, s.Issuing k g t →
     (s.logEmpty k t = false → exec .exit s = .next (s.stay k .logEmpty)) ∧
     (s.logEmpty k t = true → ∃ u, exec .exit s = .next u ∧
       (∀ v, u.thread? k = some v → v.exited = true ∧ v.handles = [] ∧ v.outst = [] ∧ v.rs = [] ∧ v.depth = 0) ∧
       (∃ v, u.thread? k = some v) ∧
       (∀ n v, n ≠ k.tidx → g.threads[n]? = some v → v.exited = false → (u.group? k.uid).map (·.phase) = some g.phase))) ∧
  (∀ (l st c ti a : Nat) s k g t, s.Issuing k g t →
     (t.cnt .load ≤ l → t.cnt .store ≤ st → t.cnt .copy ≤ c → t.cnt .tile ≤ ti → exec (.waitc l st c ti) s = .next (s.retire k id)) ∧
     (l < t.cnt .load ∨ st < t.cnt .store ∨ c < t.cnt .copy ∨ ti < t.cnt .tile →
       exec (.waitc l st c ti) s = .next (s.stay k (.waitc l st c ti))) ∧
     (t.outst.length ≤ 63 → exec (.waitc 63 63 63 63) s = .next (s.retire k id)) ∧
     (OperandsReady g t [(a, 1)] → (s.effDbg g.pkg g.leaf).getLsbD 7 = false ∨ (s.effTrace g.pkg g.leaf).2 = 0 →
       exec (.tmark a) s = .next (s.retire k id)) ∧
     (OperandsReady g t [(a, 1)] → exec (.tmark a) s = .next ((s.trace g.pkg g.leaf 10
       (threadName g k.tidx (dieOf t.place.core)) (t.rd a).toNat t.pc.toNat).retire k id)))
/-! ## Memory: issue -/

/-- R309, R310, R359, R380, R82: loads, stores and atomics of memory as they issue. The address is the pair base plus the size times
the signed offset (or the pair alone); one that is not aligned to the size traps with CAUSE 0x04 and TRAPVA at it; an ordered form
first waits for an empty operand log; then the access goes out with its data, and a load's destination registers are pending. -/
def Obligations.LoadsStoresIssue : Prop :=
  ∀ s k g t, s.Issuing k g t → t.active = true → ∀ (d b : Nat) (o : BitVec 9) (sc : Scope) (ord : Order),
    let ea (n : Nat) : DWord := BitVec.ofInt 64 ((t.rd64 b).toInt + n * o.toInt)
    let traps (i : Instr) (va : DWord) : Prop := exec i s = .next (s.takeTrap k 0x04 t.pc va some)
    let goes (i : Instr) (a : Access) (f : Thread → Thread) : Prop := exec i s = .next (s.issueAccess k g t a true f)
    (∀ kd : LdKind, OperandsReady g t [(d, kd.regs), (b, 2)] →
      ((ea kd.bytes).toNat % kd.bytes = 0 → goes (.ld kd d b o)
        { s.newAccess k g t (.ld kd) kd.bytes (ea kd.bytes) with dreg := t.wbase + d, opa := t.rd64 b } (markRegs (t.wbase + d) kd.regs)) ∧
      ((ea kd.bytes).toNat % kd.bytes ≠ 0 → traps (.ld kd d b o) (ea kd.bytes))) ∧
    (OperandsReady g t [(d, 2), (b, 2)] →
      ((ea 8).toNat % 8 = 0 → goes (.ldref d b o)
        { s.newAccess k g t .ldref 8 (ea 8) with dreg := t.wbase + d, opa := t.rd64 b } (markRegs (t.wbase + d) 2)) ∧
      ((ea 8).toNat % 8 ≠ 0 → traps (.ldref d b o) (ea 8)) ∧
      (s.logEmpty k t = true → (t.rd64 b).toNat % 8 = 0 → goes (.ldrefAcq d b sc)
        { s.newAccess k g t .ldref 8 (t.rd64 b) with dreg := t.wbase + d, opa := t.rd64 b, order := .acq, scope := sc }
        (markRegs (t.wbase + d) 2)) ∧
      (s.logEmpty k t = false → exec (.ldrefAcq d b sc) s = .next (s.stay k .logEmpty)) ∧
      (s.logEmpty k t = true → (t.rd64 b).toNat % 8 = 0 → goes (.stRel64 d b sc)
        { s.newAccess k g t .st 8 (t.rd64 b) with data := t.rd64 d, opa := t.rd64 b, order := .rel, scope := sc } id)) ∧
    (∀ kd : StKind, OperandsReady g t [(d, kd.regs), (b, 2)] →
      ((ea kd.bytes).toNat % kd.bytes = 0 → goes (.st kd d b o)
        { s.newAccess k g t .st kd.bytes (ea kd.bytes) with
          data := if kd.regs = 2 then t.rd64 d else (t.rd d).setWidth 64, opa := t.rd64 b } id) ∧
      ((ea kd.bytes).toNat % kd.bytes ≠ 0 → traps (.st kd d b o) (ea kd.bytes))) ∧
    (∀ w : Width, OperandsReady g t [(d, w.regs), (b, 2)] →
      (s.logEmpty k t = true → (t.rd64 b).toNat % w.bytes = 0 → goes (.ldAcq w d b sc)
        { s.newAccess k g t (.ld w.ld) w.bytes (t.rd64 b) with dreg := t.wbase + d, opa := t.rd64 b, order := .acq, scope := sc }
        (markRegs (t.wbase + d) w.regs)) ∧
      (s.logEmpty k t = true → (t.rd64 b).toNat % w.bytes ≠ 0 → traps (.ldAcq w d b sc) (t.rd64 b)) ∧
      (s.logEmpty k t = false → exec (.ldAcq w d b sc) s = .next (s.stay k .logEmpty))) ∧
    (OperandsReady g t [(d, 1), (b, 2)] → s.logEmpty k t = true → (t.rd64 b).toNat % 4 = 0 → goes (.stRel32 d b sc)
      { s.newAccess k g t .st 4 (t.rd64 b) with data := (t.rd d).setWidth 64, opa := t.rd64 b, order := .rel, scope := sc } id) ∧
    ∀ (op : AtomOp) (noret : Bool), OperandsReady g t [(d, op.span), (b, 2)] →
      (ord ≠ .rlx → s.logEmpty k t = false → exec (.atom op d b ord sc noret) s = .next (s.stay k .logEmpty)) ∧
      (ord = .rlx ∨ s.logEmpty k t = true → (t.rd64 b).toNat % op.size ≠ 0 → traps (.atom op d b ord sc noret) (t.rd64 b)) ∧
      (ord = .rlx ∨ s.logEmpty k t = true → (t.rd64 b).toNat % op.size = 0 → goes (.atom op d b ord sc noret)
        { s.newAccess k g t (.atom op noret) op.size (t.rd64 b) with
          data := if op.size = 8 then t.rd64 d else (t.rd d).setWidth 64,
          data2 := match op with | .cas32 => (t.rd (d + 1)).setWidth 64 | .cas64 => t.rd64 (d + 2) | _ => 0,
          dreg := t.wbase + d, order := ord, scope := sc }
        (if noret then id else markRegs (t.wbase + d) (op.size / 4)))

/-- R205, R355, R357, R368, R371, R352, R396: the issue of STREF, KLD, KST, OINIT, LAUNCH, PREF, WBR and INVR, where translation hits,
the pages are here and no wait is due. STREF runs the checks of R205 first, and takes the tag or escape trap they decide; KLD and
KST wait for a pending KLD of their thread; OINIT traps with CAUSE 0x07 outside OBJ memory; a range of no bytes retires with no effect. -/
def Obligations.ObjectsRangesIssue : Prop :=
  ∀ s k g t, s.Issuing k g t → t.active = true → ∀ (d a b n : Nat) (o : BitVec 9),
    let ea : DWord := BitVec.ofInt 64 ((t.rd64 b).toInt + 8 * o.toInt)
    let goes (i : Instr) (u : State) (x : Access) (f : Thread → Thread) : Prop := exec i s = .next (u.issueAccess k g t x true f)
    (∀ s1 a1, OperandsReady g t [(d, 2), (b, 2)] → t.log = [] → t.cnt .store < 63 →
      let x := { s.newAccess k g t .stref 8 ea with data := t.rd64 d, tagd := t.tag d, vtag := t.tag b, opa := t.rd64 b }
      s.heldWalk k [ea.toNat, (t.rd64 b).toNat, (t.rd64 d).toNat] = none → s.xlateAccess x = (s1, a1, .done) →
      (∀ u pg, (u, pg, false) ∈ a1.pages → s1.pageReady a1.pkg u.mtype u.peer pg false = true) →
      (∀ s2, s1.strefCheck a1 = (s2, .store) → goes (.stref d b o) s2 { x with checked := true } id) ∧
      (∀ s2, s1.strefCheck a1 = (s2, .trap 0x07) → exec (.stref d b o) s = .next (s2.trapAt k 0x07 ea)) ∧
      (∀ s2, s1.strefCheck a1 = (s2, .trap 0x06) → exec (.stref d b o) s = .next ((s2.tally g.pkg 27).trapAt k 0x06 ea)) ∧
      (∀ s2 h, s1.strefCheck a1 = (s2, .wait h) → exec (.stref d b o) s = .next (s2.stay k (.header h))) ∧
      (∀ s2, s1.strefCheck a1 = (s2, .bad) → exec (.stref d b o) s = .next (s2.integrityFail k t.place.core))) ∧
    (∀ s1 a1 s2 sc, OperandsReady g t [(d, 2), (b, 2)] → t.log = [] → t.cnt .store < 63 → s.logEmpty k t = true →
      let x := { s.newAccess k g t .stref 8 (t.rd64 b) with
        data := t.rd64 d, tagd := t.tag d, vtag := t.tag b, opa := t.rd64 b, order := .rel, scope := sc }
      s.heldWalk k [(t.rd64 b).toNat, (t.rd64 b).toNat, (t.rd64 d).toNat] = none → s.xlateAccess x = (s1, a1, .done) →
      (∀ u pg, (u, pg, false) ∈ a1.pages → s1.pageReady a1.pkg u.mtype u.peer pg false = true) →
      s1.strefCheck a1 = (s2, .store) → goes (.strefRel d b sc) s2 { x with checked := true } id) ∧
    (∀ s1 a1, OperandsReady g t [(b, 2)] → n ∉ t.kpend → s.logEmpty k t = true → ea.toNat % 8 = 0 → s.failedWalk k 4 ea.toNat = none →
      (s.xlateAccess (s.newAccess k g t (.kld n) 8 ea) = (s1, a1, .done) →
        (∀ u pg w, (u, pg, w) ∈ a1.pages → s1.pageReady a1.pkg u.mtype u.peer pg w = true) →
        goes (.kld n b o) s1 (s.newAccess k g t (.kld n) 8 ea) (fun t => { t with kpend := insertNat t.kpend n })) ∧
      (let x := { s.newAccess k g t .kst 8 ea with data := g.rdK (g.shareIndex k.tidx) n }
       s.xlateAccess x = (s1, a1, .done) →
        (∀ u pg w, (u, pg, w) ∈ a1.pages → s1.pageReady a1.pkg u.mtype u.peer pg w = true) → goes (.kst n b o) s1 x id)) ∧
    (OperandsReady g t [(b, 2)] → n ∈ t.kpend →
      exec (.kld n b o) s = .next (s.stay k (.kreg n)) ∧ exec (.kst n b o) s = .next (s.stay k (.kreg n))) ∧
    (∀ s1 a1, OperandsReady g t [(d, 2), (a, 2), (b, 1)] → (t.rd64 a).toNat < 2 ^ 56 → (t.rd64 a).toNat % 16 = 0 →
      (t.rd b).toNat % 8 = 0 → t.log = [] → t.cnt .store < 63 →
      s.heldWalk k ((rangePages (t.rd64 a).toNat (16 + (t.rd b).toNat)).map (·.1)) = none →
      let x := { s.newAccess k g t .oinit 8 (t.rd64 a) with
        len := 16 + (t.rd b).toNat, data := BitVec.ofNat 64 (t.rd b).toNat, dreg := t.wbase + d }
      s.xlateAccess x = (s1, a1, .done) →
      ((∀ u ∈ a1.trans, u.mtype = 1) → goes (.oinit d a b) s1 x (markRegs (t.wbase + d) 2)) ∧
      ((∃ u ∈ a1.trans, u.mtype ≠ 1) → exec (.oinit d a b) s = .next (s1.trapAt k 0x07 (t.rd64 a)))) ∧
    (OperandsReady g t [(d, 2), (a, 2), (b, 1)] → (t.rd64 a).toNat < 2 ^ 56 →
      ((t.rd64 a).toNat % 16 ≠ 0 ∨ (t.rd b).toNat % 8 ≠ 0) → exec (.oinit d a b) s = .next (s.takeTrap k 0x04 t.pc (t.rd64 a) some)) ∧
    (OperandsReady g t [(d, 1), (a, 2)] → s.logEmpty k t = true →
      ((t.rd64 a).toNat % 128 = 0 → goes (.launch d a n) s
        { s.newAccess k g t (.launch n) 128 (t.rd64 a) with dreg := t.wbase + d, scope := .sys } (markRegs (t.wbase + d) 1)) ∧
      ((t.rd64 a).toNat % 128 ≠ 0 → exec (.launch d a n) s = .next (s.takeTrap k 0x04 t.pc (t.rd64 a) some))) ∧
    (OperandsReady g t [(a, 2)] → goes (.pref a) s (s.newAccess k g t .pref 1 (t.rd64 a)) id) ∧
    (OperandsReady g t [(a, 2), (b, 1)] →
      (t.rd b = 0 → exec (.wbr a b) s = .next (s.retire k id) ∧ exec (.invr a b) s = .next (s.retire k id)) ∧
      (t.rd b ≠ 0 → (t.rd64 a).toNat + (t.rd b).toNat ≤ 2 ^ 56 →
        goes (.wbr a b) s { s.newAccess k g t .wbr 8 (t.rd64 a) with len := (t.rd b).toNat } id ∧
        goes (.invr a b) s { s.newAccess k g t .invr 8 (t.rd64 a) with len := (t.rd b).toNat } id))

/-- R42, R81, R183: what the issue of an access to memory does when its class is below 63, the log is empty, its translation hits
and no watchpoint slot is set. The thread goes on after its instruction with the access counted in its class and the destination
marked; the access is in flight, translated, and its request will reach the home; no byte of memory has changed. A class at 63
holds the thread. -/
def Obligations.AccessIssued : Prop :=
  ∀ (s : State) (k : TKey) (g : Machine.Group) (t : Thread) (a : Access) (mark : Thread → Thread) (c : Cls), s.Issuing k g t → a.thr = k → a.kind.cls = some c →
    (63 ≤ t.cnt c → s.issueAccess k g t a true mark = s.stay k (.counter c.num)) ∧
    (∀ s1 a1, t.cnt c < 63 → t.log = [] → s.xlateAccess a = (s1, a1, .done) → s1.thread? k = some t → a1.mtype ≠ 5 →
      (a.kind.plainLoad = false ∨ (a.pieces ≠ [] ∧ a.kind.scratch = false ∧ ∀ q, (s1.coreOf a1.pkg q).l1 = [])) →
      (s1.pkgD g.pkg).mbox = [] →
      let u := s.issueAccess k g t a true mark
      u.thread? k = some (mark (t.addOut c s1.nextId)).next ∧ u.access? s1.nextId = some { a1 with stage := .ready } ∧
      a1.kind.event s1.nextId ∈ u.agenda ∧ SameBytes s1 u)

/-! ## Scratchpad and private words -/

/-- R135, R360, R382, R310: a scratchpad offset that is not aligned traps with CAUSE 0x04, one outside the share with CAUSE 0x0D, each
with TRAPVA the offset wrapped to 32 bits.
R360, R134: with no earlier access of the thread in flight and no watchpoint, a load from scratchpad takes the bytes at its offset of the
thread's share as it issues.
R382, R310, R182: a store or an atomic to scratchpad goes out, and the thread goes on; performed once the accesses that must come first
are, the store writes its bytes and no other byte; the atomic takes the old value and writes the new one. -/
def Obligations.ScratchpadAccess : Prop :=
  (∀ s k g t, s.Issuing k g t → t.active = true → ∀ (d b : Nat) (o : BitVec 9),
     let off (n : Nat) : Int := (t.rd b).toNat + n * o.toInt
     let va (x : Int) : DWord := (BitVec.ofInt 32 x).setWidth 64
     (∀ kd : LdKind, OperandsReady g t [(d, kd.regs), (b, 1)] →
       (off kd.bytes % kd.bytes ≠ 0 → exec (.lds kd d b o) s = .next (s.takeTrap k 0x04 t.pc (va (off kd.bytes)) some)) ∧
       (off kd.bytes % kd.bytes = 0 → (off kd.bytes < 0 ∨ (2048 * g.lr.scrg : Int) < off kd.bytes + kd.bytes) →
         exec (.lds kd d b o) s = .next (s.takeTrap k 0x0D t.pc (va (off kd.bytes)) some))) ∧
     (∀ kd : StKind, OperandsReady g t [(d, kd.regs), (b, 1)] →
       (off kd.bytes % kd.bytes ≠ 0 → exec (.sts kd d b o) s = .next (s.takeTrap k 0x04 t.pc (va (off kd.bytes)) some)) ∧
       (off kd.bytes % kd.bytes = 0 → (off kd.bytes < 0 ∨ (2048 * g.lr.scrg : Int) < off kd.bytes + kd.bytes) →
         exec (.sts kd d b o) s = .next (s.takeTrap k 0x0D t.pc (va (off kd.bytes)) some)))) ∧
  (∀ s k g t h, s.Issuing k g t → t.active = true → g.shares[g.shareIndex k.tidx]? = some h → s.accOf k = [] →
     (s.pkgD g.pkg).mbox = [] → ∀ (d b : Nat) (o : BitVec 9),
     let j := g.shareIndex k.tidx
     let off (n : Nat) : Nat := ((t.rd b).toNat + n * o.toInt : Int).toNat
     let fits (n : Nat) : Prop := ((t.rd b).toNat + n * o.toInt : Int) = off n ∧ off n % n = 0 ∧ off n + n ≤ 2048 * g.lr.scrg
     let loads (i : Instr) (n at_ : Nat) : Prop := ∃ u x a, exec i s = .next u ∧ u.access? x = some a ∧ a.stage = .performed ∧
       a.value = BitVec.ofNat 64 (s.snat k.uid j at_ n) ∧ a.dreg = t.wbase + d ∧ .accessCompletion x ∈ u.agenda ∧ SameBytes s u
     let goes (i : Instr) (kind : AccKind) (n at_ v y : Nat) : Prop := ∃ u x a w, exec i s = .next u ∧ u.thread? k = some w ∧
       w.pc = t.pc + 4 ∧ u.access? x = some a ∧ a.stage = .ready ∧ a.kind = kind ∧ a.size = n ∧ a.va.toNat = at_ ∧ a.data.toNat = v ∧
       a.data2.toNat = y ∧ a.thr = k ∧ a.share = j ∧ kind.event x ∈ u.agenda ∧ SameBytes s u
     (∀ kd : LdKind, OperandsReady g t [(d, kd.regs), (b, 1)] → t.cnt .load < 63 → fits kd.bytes → loads (.lds kd d b o) kd.bytes (off kd.bytes)) ∧
     (∀ kd : StKind, OperandsReady g t [(d, kd.regs), (b, 1)] → t.cnt .store < 63 → fits kd.bytes →
       goes (.sts kd d b o) .sts kd.bytes (off kd.bytes) (if kd.regs = 2 then (t.rd64 d).toNat else (t.rd d).toNat) 0) ∧
     (∀ w sc, OperandsReady g t [(d, w.regs), (b, 1)] → t.cnt .load < 63 → t.log = [] → (t.rd b).toNat % w.bytes = 0 →
       (t.rd b).toNat + w.bytes ≤ 2048 * g.lr.scrg → loads (.ldsAcq w d b sc) w.bytes (t.rd b).toNat) ∧
     (∀ op ord sc noret, OperandsReady g t [(d, op.span), (b, 1)] → t.cnt (if noret then .store else .load) < 63 →
       (ord = .rlx ∨ t.log = []) → (t.rd b).toNat % op.size = 0 → (t.rd b).toNat + op.size ≤ 2048 * g.lr.scrg →
       goes (.atoms op d b ord sc noret) (.atoms op noret) op.size (t.rd b).toNat
         (if op.size = 8 then (t.rd64 d).toNat else (t.rd d).toNat)
         (match op with | .cas32 => (t.rd (d + 1)).toNat | .cas64 => (t.rd64 (d + 2)).toNat | _ => 0))) ∧
  (∀ (s : State) (x : Nat) (a : Access) (g : Machine.Group), s.access? x = some a → a.stage = .ready → s.group? a.thr.uid = some g →
     s.mayPerform x a = true → a.releases = false → a.closed = none → a.va.toNat < 2 ^ 52 → s.share? a.thr.uid a.share ≠ none →
     (s.pkgD g.pkg).mbox = [] →
     let at_ := a.va.toNat
     let keeps (u : State) (n : Nat) : Prop :=
       (∀ q, q < at_ ∨ at_ + n ≤ q → u.sbytes a.thr.uid a.share q 1 = s.sbytes a.thr.uid a.share q 1) ∧
       (∀ y i q, (y, i) ≠ (a.thr.uid, a.share) → u.sbytes y i q 1 = s.sbytes y i q 1) ∧ u.gmem = s.gmem ∧ u.hmem = s.hmem
     (a.kind = .sts → ∃ u, exec (.ownershipRequest x) s = .next u ∧
       u.sbytes a.thr.uid a.share at_ a.size = leBytes a.size a.data.toNat ∧ keeps u a.size) ∧
     (∀ op n, a.kind = .atoms op n →
       let old : DWord := BitVec.ofNat 64 (s.snat a.thr.uid a.share at_ a.size)
       ∃ u b, exec (.atomicAtHome x) s = .next u ∧ u.access? x = some b ∧ b.stage = .performed ∧ b.value = old ∧ keeps u a.size ∧
         u.sbytes a.thr.uid a.share at_ a.size = match (atomNew op a.rm.toNat old a.data a.data2).1 with
           | some v => leBytes a.size v.toNat
           | none => s.sbytes a.thr.uid a.share at_ a.size))

/-- R382, R133, R361, R383: STS.REL waits for an empty log, then goes out as a release; LDPV and STPV test each word against the limit,
0 to SLIM - 1, the first that fails trapping with CAUSE 0x03 and TRAPVA its address; else they access the words of the thread at
PBASE + (word × NT + TIDX) × 4. -/
def Obligations.PrivateAndRelease : Prop :=
  ∀ s k g t, s.Issuing k g t → t.active = true → ∀ (d b : Nat) (o : BitVec 9) (w : Width) (sc : Scope),
    (OperandsReady g t [(d, w.regs), (b, 1)] →
      (s.logEmpty k t = false → exec (.stsRel w d b sc) s = .next (s.stay k .logEmpty)) ∧
      (s.logEmpty k t = true → (t.rd b).toNat % w.bytes = 0 → (t.rd b).toNat + w.bytes ≤ 2048 * g.lr.scrg →
        exec (.stsRel w d b sc) s = .next (s.issueAccess k g t { s.newAccess k g t .sts w.bytes (BitVec.ofNat 64 (t.rd b).toNat) with
          data := if w.regs = 2 then t.rd64 d else (t.rd d).setWidth 64, order := .rel, scope := sc } true id)) ∧
      let word : Int := (t.rd b).toNat + o.toInt
      let va (x : Int) : DWord := BitVec.ofInt 64 ((g.lr.pbase g.gidx : Int) + (x * g.lr.threads + k.tidx) * 4)
      (0 ≤ word → word + w.regs ≤ g.lr.slimw →
        exec (.ldpv w d b o) s = .next (s.issueAccess k g t { s.newAccess k g t (.ldpv w.regs) 4 (va word) with
          va2 := va (word + 1), dreg := t.wbase + d, opa := (t.rd b).setWidth 64 } true (markRegs (t.wbase + d) w.regs)) ∧
        exec (.stpv w d b o) s = .next (s.issueAccess k g t { s.newAccess k g t (.stpv w.regs) 4 (va word) with
          va2 := va (word + 1), data := if w.regs = 2 then t.rd64 d else (t.rd d).setWidth 64, opa := (t.rd b).setWidth 64 } true id)) ∧
      (word < 0 ∨ (g.lr.slimw : Int) ≤ word →
        exec (.ldpv w d b o) s = .next (s.takeTrap k 0x03 t.pc (va word) some) ∧
        exec (.stpv w d b o) s = .next (s.takeTrap k 0x03 t.pc (va word) some)) ∧
      (w = .w64 → 0 ≤ word → word + 1 = g.lr.slimw →
        exec (.stpv w d b o) s = .next (s.takeTrap k 0x03 t.pc (va (word + 1)) some)))

/-! ## Memory: at the home, and back -/

/-- R310: the new value of each atomic, over the integers and wrapped; a CAS whose comparison fails writes nothing.
R165, R167, R171, R183: a request at its home. An access that is translated, whose earlier accesses that must come first have been
performed, whose pages are here and whose data has no mismatch, is performed: a load takes the bytes of its pieces, a store writes
them, an atomic takes the old value; a load of words that another L1 owns is forwarded first. One that must wait tries again.
HOME_READ_REQUEST and FORWARDED_READ of a load that is due complete: the load is performed with the bytes that its pieces hold. -/
def Obligations.HomeRequests : Prop :=
  (∀ (fm : Nat) (old x y : DWord),
     let lo (v : DWord) : Word := v.extractLsb' 0 32
     let w (i : Int) : Option DWord × Nat := (some ((BitVec.ofInt 32 i).setWidth 64), 0)
     let d (i : Int) : Option DWord × Nat := (some (BitVec.ofInt 64 i), 0)
     atomNew .add32 fm old x y = w ((lo old).toInt + (lo x).toInt) ∧ atomNew .add64 fm old x y = d (old.toInt + x.toInt) ∧
     atomNew .minS32 fm old x y = w (min (lo old).toInt (lo x).toInt) ∧ atomNew .maxS32 fm old x y = w (max (lo old).toInt (lo x).toInt) ∧
     atomNew .minZ32 fm old x y = w (min (lo old).toNat (lo x).toNat) ∧ atomNew .maxZ32 fm old x y = w (max (lo old).toNat (lo x).toNat) ∧
     atomNew .minS64 fm old x y = d (min old.toInt x.toInt) ∧ atomNew .maxS64 fm old x y = d (max old.toInt x.toInt) ∧
     atomNew .minZ64 fm old x y = d (min old.toNat x.toNat) ∧ atomNew .maxZ64 fm old x y = d (max old.toNat x.toNat) ∧
     atomNew .and32 fm old x y = (some ((lo old &&& lo x).setWidth 64), 0) ∧ atomNew .or32 fm old x y = (some ((lo old ||| lo x).setWidth 64), 0) ∧
     atomNew .xor32 fm old x y = (some ((lo old ^^^ lo x).setWidth 64), 0) ∧ atomNew .xchg32 fm old x y = (some ((lo x).setWidth 64), 0) ∧
     atomNew .xchg64 fm old x y = (some x, 0) ∧
     (lo old = lo x → atomNew .cas32 fm old x y = (some ((lo y).setWidth 64), 0)) ∧ (lo old ≠ lo x → atomNew .cas32 fm old x y = (none, 0)) ∧
     (old = x → atomNew .cas64 fm old x y = (some y, 0)) ∧ (old ≠ x → atomNew .cas64 fm old x y = (none, 0))) ∧
  (∀ (s : State) (x : Nat) (a : Access) (g : Machine.Group), s.access? x = some a → s.group? a.thr.uid = some g →
     let due : Prop := s.mayPerform x a = true ∧ a.releases = false ∧ a.closed = none ∧
       (∀ u pg w, (u, pg, w) ∈ a.pages → s.pageReady a.pkg u.mtype u.peer pg w = true) ∧ s.consumesBad a = false
     (∀ kd, a.kind = .ld kd → s.mayPerform x a = true → a.releases = false → a.closed = none → s.consumesBad a = false →
       (∀ u pg w, (u, pg, w) ∈ a.pages → s.pageReady a.pkg u.mtype u.peer pg w = true) →
       (a.stage = .ready → s.mustForward a = false → exec (.homeReadRequest x) s =
         .next ((s.loadPieces x a).1.performed x (fun a => { a with value := BitVec.ofNat 64 (leNat (s.loadPieces x a).2) }))) ∧
       (a.stage = .forwarded → exec (.forwardedRead x) s =
         .next ((s.loadPieces x a).1.performed x (fun a => { a with value := BitVec.ofNat 64 (leNat (s.loadPieces x a).2) })))) ∧
     (∀ kd, a.kind = .ld kd → a.stage = .ready → s.mustForward a = true →
       exec (.homeReadRequest x) s = .next ((s.modAccess x (fun a => { a with stage := .forwarded })).later (.forwardedRead x))) ∧
     (a.kind = .st → due → a.stage = .ready → exec (.ownershipRequest x) s = .next ((s.storePieces a).performed x id)) ∧
     (∀ op n, a.kind = .atom op n → due → a.stage = .ready →
       let r := s.atomLine (s.agentOf a) (a.tr 0 a.va.toNat) a.va.toNat op a.size a.rm.toNat a.data a.data2
       exec (.atomicAtHome x) s = .next (r.1.performed x (fun a => { a with value := r.2.1, flags := BitVec.ofNat 32 r.2.2 }))) ∧
     (∀ op n, a.kind = .atom op n → a.stage = .ready → s.mayPerform x a = false →
       exec (.atomicAtHome x) s = .next (s.later (.atomicAtHome x))))

/-- R118, R123, R134, R147, R165: a read within one line of attraction memory under policy L1-bypass gives the bytes of the page's home, and every byte of
memory keeps its value where no slice holds an SWM proxy line to evict and neither the mapping nor any page keeps line codes in a side table. What is written through a scratchpad or an uncompressed
host mapping is read back through it, and every other byte keeps its value (where no thread of the share's group waits in SWAIT: a store
releases its waiters). -/
def Obligations.ReadBack : Prop :=
  ∀ (s : State) (a : Agent) (t : Trans) (va n : Nat) (bs : List Byte),
    (t.mtype = 0 → t.pol = 1 → t.side = false → s.PlainCodes → s.cmpDisagrees a t (t.addr va) = false → n ≤ 8 → t.addr va % 128 + n ≤ 128 →
      (∀ q p, (q, p) ∈ s.pkgs → ∀ l ∈ p.slices, l.kind ≠ 1) →
      (s.readLine a t va n).2 = s.gbytes (t.addr va) n ∧ SameBytes s (s.readLine a t va n).1) ∧
    (t.mtype = 4 → t.side = false → (t.addr va) % 2 ^ 64 + bs.length ≤ 2 ^ 64 →
      ((s.writeLine a t va bs).readLine a t va bs.length).2 = bs ∧ (s.writeLine a t va bs).gmem = s.gmem ∧
      ∀ p c, hostAddr p c < hostAddr a.pkg (t.addr va) ∨ hostAddr a.pkg (t.addr va) + bs.length ≤ hostAddr p c →
        (s.writeLine a t va bs).hbytes p c 1 = s.hbytes p c 1) ∧
    (t.mtype = 5 → s.share? a.uid a.share ≠ none →
      (∀ g, s.group? a.uid = some g → ∀ th ∈ g.threads, ∀ o w, th.wait ≠ .swait o w) →
      ((s.writeLine a t va bs).readLine a t va bs.length).2 = bs ∧ (s.writeLine a t va bs).gmem = s.gmem ∧
      ∀ c, c < t.addr va ∨ t.addr va + bs.length ≤ c → (s.writeLine a t va bs).sbytes a.uid a.share c 1 = s.sbytes a.uid a.share c 1)

/-- R123: the form a slice or the bridge stores a line in reads back as the line, under every CMP, and a code is chosen only where
the CMP allows it. -/
def Obligations.LineCodesRoundTrip : Prop :=
  ∀ (cmp : Nat) (d : Line), lineUnform (lineCode cmp d) (lineForm (lineCode cmp d) d) = d ∧
    (cmp = 0 → lineCode cmp d = 0) ∧ (lineCode cmp d = 1 → d = 0) ∧ (lineCode cmp d = 2 → cmp = 2) ∧ (lineCode cmp d = 3 → cmp = 3) ∧
    lineCode cmp d < 4

/-- R166, R167, R174: a write-back that arrives merges its bytes at the home, but for the words of which a later owner's bytes have
arrived, and its buffer is free; every other byte keeps its value, where no slice holds an SWM proxy line to evict. The oldest closed epoch of a core is complete once no write of the
epoch is on its way: no write-back tagged with it, and no access of the core that was issued or released in it. -/
def Obligations.WriteBacks : Prop :=
  (∀ (s : State) (x : Nat) (w : WriteBack), s.item? x = some (.wb w) → w.mtype = 0 → w.ga % 128 = 0 → s.PlainCodes →
    (∀ y v, (y, Item.wb v) ∈ s.items → y ≠ x → v.ga ≠ w.ga) → (∀ q p, (q, p) ∈ s.pkgs → ∀ l ∈ p.slices, l.kind ≠ 1) →
    let lands (i : Nat) : Prop := w.words.getLsbD (i / 4) = true ∧ w.dead.getLsbD (i / 4) = false ∧ w.mask.getLsbD i = true
    ∃ u, exec (.writeBackArrival x) s = .next u ∧ u.item? x = none ∧
      (∀ i, i < 128 → lands i → u.gbyte (w.ga + i) = lineByte w.data i) ∧
      (∀ b, (b < w.ga ∨ w.ga + 128 ≤ b ∨ ¬ lands (b - w.ga)) → u.gbyte b = s.gbyte b) ∧ u.hmem = s.hmem ∧ u.groups = s.groups) ∧
  (∀ (s : State) (p c e n : Nat) (rest : List (Nat × Nat)) (q : Pkg), s.pkg? p = some q → (s.coreOf p c).closed = (e, n) :: rest →
    ((∀ y v, (y, Item.wb v) ∈ s.items → v.pkg = p → (c, e) ∉ v.tags) →
      (∀ y a, (y, Item.access a) ∈ s.items → a.pkg = p → a.core = c → a.epoch ≠ e) →
      ∃ u, exec (.releaseCompletion p c) s = .next u ∧ (u.coreOf p c).closed = rest ∧ SameBytes s u) ∧
    (∀ y v, (y, Item.wb v) ∈ s.items → v.pkg = p → (c, e) ∈ v.tags →
      exec (.releaseCompletion p c) s = .next (s.later (.releaseCompletion p c))) ∧
    (∀ y a op r, (y, Item.access a) ∈ s.items → a.kind = .atom op r → a.pkg = p → a.core = c → a.epoch = e → a.stage = .ready →
      a.releases = false → s.mayPerform y a = true →
      exec (.releaseCompletion p c) s = .next (s.later (.releaseCompletion p c))))

/-- R42, R43, R204, R356, R358, R368: the reply of an access reaches its thread. A load writes its destination, extended as its kind
says, which is no longer pending; LDREF copies the TAG bit into the pair's tag; OINIT delivers a tagged address; KLD writes the
uniform register; an exited thread's results are discarded. PC, memory and every other thread keep their values. -/
def Obligations.AccessReply : Prop :=
  ∀ (s : State) (x : Nat) (a : Access) (t : Thread), s.access? x = some a → a.stage = .performed → s.thread? a.thr = some t →
    ∃ u v, exec (.accessCompletion x) s = .next u ∧ u.access? x = none ∧ u.thread? a.thr = some v ∧ SameBytes s u ∧
      (t.exited = true → v.regs = t.regs) ∧
      (t.exited = false → (∀ kd, a.kind = .ld kd → v.pc = t.pc ∧ a.dreg ∉ v.pend ∧
        (kd = .s8 → v.rdAbs a.dreg = (a.value.extractLsb' 0 8).signExtend 32) ∧ (kd = .z8 → v.rdAbs a.dreg = (a.value.extractLsb' 0 8).setWidth 32) ∧
        (kd = .s16 → v.rdAbs a.dreg = (a.value.extractLsb' 0 16).signExtend 32) ∧
        (kd = .z16 → v.rdAbs a.dreg = (a.value.extractLsb' 0 16).setWidth 32) ∧
        (kd = .s32 ∨ kd = .z32 → v.rdAbs a.dreg = a.value.extractLsb' 0 32) ∧
        (kd = .d64 → v.rdAbs a.dreg = a.value.extractLsb' 0 32 ∧ v.rdAbs (a.dreg + 1) = a.value.extractLsb' 32 32 ∧ a.dreg + 1 ∉ v.pend) ∧
        (∀ r, r ≠ a.dreg → r ≠ a.dreg + 1 → v.rdAbs r = t.rdAbs r) ∧ v.tagAbs a.dreg = false) ∧
      (a.kind = .ldref → v.rdAbs a.dreg = a.value.extractLsb' 0 32 ∧ v.rdAbs (a.dreg + 1) = a.value.extractLsb' 32 32 ∧
        v.tagAbs a.dreg = a.vtag) ∧
      (a.kind = .oinit → v.rdAbs a.dreg = a.va.extractLsb' 0 32 ∧ v.tagAbs a.dreg = true) ∧
      (a.kind = .st → v.regs = t.regs ∧ v.preds = t.preds ∧ v.pc = t.pc) ∧
      (∀ n, a.kind = .kld n → (∀ g h j, u.group? a.thr.uid = some g → g.shares[j]? = some h → g.rdK j n = a.value) ∧ n ∉ v.kpend))

/-! ## Engines: issue -/

/-- R34: a command bound to a role raises a role fault, CAUSE 0x05, in a thread of another role: copy commands in a crew that is
not COPY, matrix commands in one that is not MATRIX, scan and rail commands in one that is not VECTOR. -/
def Obligations.RoleFaults : Prop :=
  ∀ (h b a z p : Nat) (s : State) (k : TKey) (g : Machine.Group) (t : Thread), s.Issuing k g t →
    let faults (i : Instr) : Prop := exec i s = .next (s.takeTrap k 0x05 t.pc 0 some)
    (g.lr.role (k.tidx / 32) ≠ 0 → faults (.cpt h b) ∧ faults (.cps h b) ∧ (OperandsReady g t [(a, 1)] →
      faults (.cpg h b a) ∧ faults (.cpsc h b a) ∧ faults (.cpb h b a) ∧ faults (.cpz h b a) ∧ faults (.cpr h b a))) ∧
    (g.lr.role (k.tidx / 32) ≠ 1 → faults (.mma h b z) ∧ faults (.mz h z) ∧ faults (.mst h b z) ∧ faults (.mlda h b z) ∧
      faults (.scacc h b p z) ∧ (OperandsReady g t [(a, 1)] → faults (.mmas h b a z))) ∧
    (g.lr.role (k.tidx / 32) ≠ 2 → faults (.scn h b) ∧ faults .rsync ∧ faults .rleave ∧ (OperandsReady g t [(a, 1)] →
      faults (.scop h a z) ∧ faults (.rjoin a)))

/-- R40, R42, R99, R218, R222, R227, R231, R245, R247, R322, R363: every engine command as it issues in a crew of its role, its
operand block in range, read from the uniform registers of its core, and without an error, its counter below 63, its queue not
full. The thread goes on with the handle naming the new operation, which is counted in its class and has captured the block,
the operand, FMODE and SEED; memory is unchanged. A block that breaks a check traps with its cause; MST under RM 4 takes 8,192
draws from SEED; a counter at 63 or a full queue holds the thread. -/
def Obligations.EngineCommandsIssue : Prop :=
  ∀ (h b a z p : Nat) (s : State) (k : TKey) (g : Machine.Group) (t : Thread), s.Issuing k g t →
    let j := g.shareIndex k.tidx
    let issues (i : Instr) (c : Cls) (o : Op) (f : Thread → Thread) : Prop := ∃ u, exec i s = .next u ∧
      u.thread? k = some (f ((t.addOut c s.nextId).wrH h s.nextId).next) ∧ u.op? s.nextId = some o ∧ SameBytes s u
    let traps (i : Instr) (e : Nat × Nat) : Prop := exec i s = .next (s.takeTrap k (BitVec.ofNat 32 e.1) t.pc (BitVec.ofNat 64 e.2) some)
    let blockAt (m n : Nat) : Prop := b ≤ m ∧ ∀ q, b ≤ q → q < b + n → q ∉ t.kpend
    let due (c : Cls) (q : Nat) : Prop := t.cnt c < 63 ∧ s.queueFull g k.uid t.place.core q = false
    let copy (i : Instr) (kd : OpKind) (q e : Nat) (v : Word) : Prop :=
      (∀ x, copyCheck kd g (copyDesc (g.kblock j b 4)) v = some x → x.1 < 256 → traps i x) ∧
      (copyCheck kd g (copyDesc (g.kblock j b 4)) v = none → (copyDesc (g.kblock j b 4)).rows ≠ 0 → (copyDesc (g.kblock j b 4)).rowb ≠ 0 →
        (63 ≤ t.cnt .copy → exec i s = .next (s.stay k (.counter 2))) ∧
        (t.cnt .copy < 63 → s.queueFull g k.uid t.place.core q = true → exec i s = .next (s.stay k (.queue q))) ∧
        (due .copy q → issues i .copy { newOpOf k g t kd (g.kblock j b 4) v with engine := e } id))
    let fill := attrType (s.attr g.pkg (dieOf t.place.core) g.leaf (copyDesc (g.kblock j b 4)).ga).2 = 5
    let bulk := (s.bulkFree g.pkg (dieOf t.place.core)).getD 0
    (g.lr.role (k.tidx / 32) = 0 → blockAt 60 4 →
      copy (.cpt h b) .cpt 0 16 0 ∧ copy (.cps h b) .cps 0 16 0 ∧ (OperandsReady g t [(a, 1)] →
        copy (.cpg h b a) .cpg 0 16 (t.rd a) ∧ copy (.cpsc h b a) .cpsc 0 16 (t.rd a) ∧ copy (.cpb h b a) .cpb 3 bulk (t.rd a) ∧
        (fill → copy (.cpz h b a) .cpz 0 16 (t.rd a)) ∧ (¬ fill → copy (.cpz h b a) .cpz 3 bulk (t.rd a)) ∧
        (copyCheck .cpr g (copyDesc (g.kblock j b 4)) (t.rd a) = none → (copyDesc (g.kblock j b 4)).rows ≠ 0 →
          (copyDesc (g.kblock j b 4)).rowb ≠ 0 → t.cnt .copy < 63 → (∀ y q, (y, q) ∈ s.ops → q.kind ≠ .cpr) →
          issues (.cpr h b a) .copy (newOpOf k g t .cpr (g.kblock j b 4) (t.rd a)) id))) ∧
    (g.lr.role (k.tidx / 32) = 1 → due .tile 1 →
      issues (.mz h z) .tile { newOpOf k g t .mz [] 0 with z := z } id ∧
      (blockAt 56 8 → (∀ x, mmaCheck (mmaDesc (g.kblock j b 8)) 0 = some x → x.1 < 256 → traps (.mma h b z) x) ∧
        (mmaCheck (mmaDesc (g.kblock j b 8)) 0 = none → issues (.mma h b z) .tile { newOpOf k g t .mma (g.kblock j b 8) 0 with z := z } id) ∧
        (OperandsReady g t [(a, 1)] → mmaCheck (mmaDesc (g.kblock j b 8)) (t.rd a).toNat = none → issues (.mmas h b a z) .tile
          { newOpOf k g t .mma (g.kblock j b 8) 0 with z := z, row := (t.rd a).toNat } id)) ∧
      (blockAt 62 2 → (tileCheck true (tileDesc true (g.kblock j b 2)) = none → issues (.mst h b z) .tile
          { newOpOf k g t .mst (g.kblock j b 2) 0 with z := z }
          (fun t => if t.fmode.toNat % 8 = 4 then { t with seed := t.seed + 0x9E3779B9 * 8192 } else t)) ∧
        (tileCheck false (tileDesc false (g.kblock j b 2)) = none → issues (.mlda h b z) .tile
          { newOpOf k g t .mlda (g.kblock j b 2) 0 with z := z } id)) ∧
      (b ∉ t.kpend → z ≠ p → let w := (g.rdK j b).toNat
        w / 2 ^ 19 % 2 ^ 13 = 0 → w / 2 ^ 51 = 0 → w % 2 = 0 → w / 2 ^ 32 % 2 = 0 → w % 2 ^ 19 + 128 ≤ 2048 * g.lr.scrg →
        w / 2 ^ 32 % 2 ^ 19 + 256 ≤ 2048 * g.lr.scrg →
        issues (.scacc h b p z) .tile { newOpOf k g t .scacc [g.rdK j b] 0 with z := z, zp := p } id)) ∧
    (g.lr.role (k.tidx / 32) = 2 → due .tile 2 →
      (blockAt 60 4 → let m := (g.shares[j]?).bind (·.rail)
        (∀ x, scnCheck (scnDesc (g.kblock j b 4)) (2048 * g.lr.scrg) m.isSome = some x → x.1 < 256 → traps (.scn h b) x) ∧
        (scnCheck (scnDesc (g.kblock j b 4)) (2048 * g.lr.scrg) m.isSome = none → (scnDesc (g.kblock j b 4)).cin ≠ 2 →
          (scnDesc (g.kblock j b 4)).cout = false → issues (.scn h b) .tile (newOpOf k g t .scn (g.kblock j b 4) 0) id)) ∧
      (OperandsReady g t [(a, 1)] → let o := (t.rd a).toNat % 2 ^ 19
        (o % 8 ≠ 0 → traps (.scop h a z) (0x04, o)) ∧ (o % 8 = 0 → 2048 * g.lr.scrg < o + 40 → traps (.scop h a z) (0x0D, o)) ∧
        (o % 8 = 0 → o + 40 ≤ 2048 * g.lr.scrg →
          issues (.scop h a z) .tile { newOpOf k g t .scop [] (BitVec.ofNat 32 o) with z := z } id)))

/-! ## Handles and sync words -/

/-- R341 to R346: HWAIT goes on once the handle reads DONE or EMPTY, HTEST writes that to every bit of its predicate, HMOV copies a
handle. HCAN of an operation that has ended has no effect; one that has not started is removed, DONE at once, and leaves its
class. HST stores 0 for EMPTY, and for an operation without a registry entry takes the lowest free entry and stores its token,
which names the operation again; HLD loads the operation a token names. -/
def Obligations.Handles : Prop :=
  ∀ (h p a n : Nat) (s : State) (k : TKey) (g : Machine.Group) (t : Thread), s.Issuing k g t →
    let x := t.rdH h
    let j := g.shareIndex k.tidx
    let o := (t.rd a).toNat
    (s.opDone x = true → exec (.hwait h) s = .next (s.retire k id)) ∧
    (s.opDone x = false → exec (.hwait h) s = .next (s.stay k (.hwait x))) ∧
    exec (.htest h p) s = .next (s.retire k (fun t => t.wrP p (if s.opDone x = true then 0xFF else 0))) ∧
    exec (.hmov h n) s = .next (s.retire k (fun t => t.wrH h (t.rdH n))) ∧
    ((∀ q, s.op? x = some q → q.st = .done ∨ q.cancelled = true) → exec (.hcan h) s = .next (s.retire k id)) ∧
    (∀ q, s.op? x = some q → q.st = .queued → q.formed = false → q.cancelled = false → q.kind ≠ .cpr → q.thr = k →
      ∃ u v q', exec (.hcan h) s = .next u ∧ u.thread? k = some v ∧ v.pc = t.pc + 4 ∧ (∀ y ∈ v.outst, y.id ≠ x) ∧
        u.op? x = some q' ∧ q'.st = .done ∧ q'.flags = q.flags ∧ SameBytes s u) ∧
    (OperandsReady g t [(a, 1)] →
      (o % 4 ≠ 0 → exec (.hst h a) s = .next (s.takeTrap k 0x04 t.pc (BitVec.ofNat 64 o) some) ∧
        exec (.hld h a) s = .next (s.takeTrap k 0x04 t.pc (BitVec.ofNat 64 o) some)) ∧
      (o % 4 = 0 → 2048 * g.lr.scrg < o + 4 → exec (.hst h a) s = .next (s.takeTrap k 0x0D t.pc (BitVec.ofNat 64 o) some) ∧
        exec (.hld h a) s = .next (s.takeTrap k 0x0D t.pc (BitVec.ofNat 64 o) some)) ∧
      (o % 4 = 0 → o + 4 ≤ 2048 * g.lr.scrg → s.accOf k = [] → (s.pkgD g.pkg).mbox = [] → s.share? k.uid j ≠ none → t.exited = false →
        (∀ q w, t.wait ≠ .swait q w) →
        (x = 0 → ∃ u v, exec (.hst h a) s = .next u ∧ u.snat k.uid j o 4 = 0 ∧ u.thread? k = some v ∧ v.pc = t.pc + 4) ∧
        (∀ hs e, x ≠ 0 → g.entryOf j x = none → g.shares[j]? = some hs → freeEntry hs.registry = some e → j < 64 →
          SMap.get hs.regGens 0 e < 8192 → ∃ u g', exec (.hst h a) s = .next u ∧ u.group? k.uid = some g' ∧
            g'.tokenOp (u.snat k.uid j o 4) = x ∧ 2 ^ 31 ≤ u.snat k.uid j o 4) ∧
        exec (.hld h a) s = .next (s.retire k (fun t => t.wrH h (g.tokenOp (s.snat k.uid j o 4))))))

/-- R224 to R226, R386: an arrival of n bytes at a sync word with TARGET T > 0 advances GEN by the whole Ts in ARRIVED + n, modulo
2^16, and keeps the rest; with T = 0 it only adds. SWADD arrives with bits 23:0 of its operand, SWARM sets TARGET to them and
arrives with 0; each releases in the same step the threads that wait in SWAIT at the word and whose condition is then true. SWAIT goes on
when GEN passes its condition and waits otherwise. A word that is not aligned to 8, or outside the share, traps; no other byte of the
scratchpad changes. -/
def Obligations.SyncWords : Prop :=
  ∀ (a b : Nat) (s : State) (k : TKey) (g : Machine.Group) (t : Thread), s.Issuing k g t → OperandsReady g t [(a, 1), (b, 1)] →
    let o := (t.rd a).toNat
    let j := g.shareIndex k.tidx
    let n := (t.rd b).toNat % 2 ^ 24
    let T := s.snat k.uid j (o + 5) 3
    let A := s.snat k.uid j (o + 2) 3
    let G := s.snat k.uid j o 2
    let blocks (w G : Nat) : Prop := if w / 2 ^ 16 % 2 = 1 then G % 2 = w % 2 else G = w % 2 ^ 16
    let holds (u : State) (T' A' G' : Nat) : Prop := u.snat k.uid j (o + 5) 3 = T' % 2 ^ 24 ∧ u.snat k.uid j (o + 2) 3 = A' % 2 ^ 24 ∧
      u.snat k.uid j o 2 = G' % 2 ^ 16 ∧ (∀ q, q < o ∨ o + 8 ≤ q → u.sbytes k.uid j q 1 = s.sbytes k.uid j q 1) ∧
      ∀ m v w, g.threads[m]? = some v → m ≠ k.tidx → v.wait = .swait o w → v.iterates = none → g.lets m = true → g.shareIndex m = j →
        ¬ blocks w.toNat (G' % 2 ^ 16) → ∃ v', u.thread? ⟨k.uid, m⟩ = some v' ∧ v'.pc = v.pc + 4 ∧ v'.wait = .none
    let goes (i : Instr) (r : State → Prop) : Prop := ∃ u v, exec i s = .next u ∧ u.thread? k = some v ∧ v.pc = t.pc + 4 ∧ r u
    (∀ i ∈ [Instr.swarm a b, .swadd a b, .swait a b],
      (o % 8 ≠ 0 → exec i s = .next (s.takeTrap k 0x04 t.pc (BitVec.ofNat 64 o) some)) ∧
      (o % 8 = 0 → 2048 * g.lr.scrg < o + 8 → exec i s = .next (s.takeTrap k 0x0D t.pc (BitVec.ofNat 64 o) some))) ∧
    (o % 8 = 0 → o + 8 ≤ 2048 * g.lr.scrg → t.log = [] → s.accOf k = [] → g.shares.length ≤ 1 → s.share? k.uid j ≠ none →
      (s.pkgD g.pkg).mbox = [] → (∀ q w, t.wait ≠ .swait q w) →
      (0 < T → goes (.swadd a b) (fun u => holds u T ((A + n) % T) (G + (A + n) / T))) ∧
      (T = 0 → goes (.swadd a b) (fun u => holds u 0 (A + n) G)) ∧
      (0 < n → goes (.swarm a b) (fun u => holds u n (A % n) (G + A / n))) ∧
      (n = 0 → goes (.swarm a b) (fun u => holds u 0 A G)) ∧
      (blocks (t.rd b).toNat G → exec (.swait a b) s = .next (s.stay k (.swait o (t.rd b)))) ∧
      (¬ blocks (t.rd b).toNat G → exec (.swait a b) s = .next (s.retire k id)))

/-! ## The carry rail -/

/-- R248 to R251, R376: RJOIN checks its fields (CAUSE 0x01), makes the chain of its identifier or joins it, and records the
membership of its share; a chain is formed once every position has its member. A second RJOIN of the same position retires, another one
traps. RSYNC without a membership raises a rail fault trap, CAUSE 0x0F; with one it first closes a release phase, then waits for the
chain's members, and the last arrival completes the generation: the thread goes on. RLEAVE ends the membership, and without one
retires. A carry reaches its member's inbox where the chain is formed, the member placed and fewer than 4 carries wait there, and waits
at the hub otherwise; one behind an earlier carry to the same position comes again. -/
def Obligations.RailMembership : Prop :=
  (∀ (a : Nat) (s : State) (k : TKey) (g : Machine.Group) (t : Thread) (h : Share), s.Issuing k g t → g.lr.role (k.tidx / 32) = 2 →
    g.shares[g.shareIndex k.tidx]? = some h → s.pkg? g.pkg ≠ none →
    let j := g.shareIndex k.tidx
    let v := (t.rd a).toNat
    let m : RailMem := { chain := v % 256, pos := v / 256 % 64, count := v / 2 ^ 16 % 128 }
    let bad : Prop := v / 2 ^ 14 % 4 ≠ 0 ∨ v / 2 ^ 23 ≠ 0 ∨ m.count = 0 ∨ 64 < m.count ∨ m.count ≤ m.pos
    let joins (c : Chain → Prop) : Prop := ∃ u w h' ch, exec (.rjoin a) s = .next u ∧ u.thread? k = some w ∧ w.pc = t.pc + 4 ∧
      w.wait = .none ∧ u.share? k.uid j = some h' ∧ h'.rail = some m ∧ u.chain? g.pkg g.launch m.chain = some ch ∧ c ch ∧ SameBytes s u
    (OperandsReady g t [(a, 1)] →
      (bad → exec (.rjoin a) s = .next (s.takeTrap k 0x01 t.pc 0 some)) ∧
      (∀ r, ¬ bad → h.rail = some r → r ≠ m → exec (.rjoin a) s = .next (s.takeTrap k 0x01 t.pc 0 some)) ∧
      (¬ bad → h.rail = some m → ∃ u w, exec (.rjoin a) s = .next u ∧ u.thread? k = some w ∧ w.pc = t.pc + 4) ∧
      (¬ bad → h.rail = none → s.chain? g.pkg g.launch m.chain = none →
        joins (fun c => c.count = m.count ∧ c.members = [(m.pos, k.uid, j)] ∧ c.formed = decide (m.count = 1))) ∧
      (∀ c, ¬ bad → h.rail = none → s.chain? g.pkg g.launch m.chain = some c → c.count = m.count → SMap.find? c.members m.pos = none →
        c.hub = [] → joins (fun c' => c'.members = SMap.put c.members m.pos (k.uid, j) ∧ c'.hub = [] ∧ c'.inbox = c.inbox ∧
          c'.formed = (c.formed || decide ((SMap.put c.members m.pos (k.uid, j)).length = m.count))))) ∧
    (s.logEmpty k t = true →
      (h.rail = none → (∀ n, t.wait ≠ .bar n) → exec .rsync s = .next (s.takeTrap k 0x0F t.pc 0 some) ∧ exec .rleave s = .next (s.retire k id)) ∧
      (∀ r c, h.rail = some r → s.chain? g.pkg g.launch r.chain = some c →
        (t.wait = .rsync c.gen → exec .rsync s = .next s) ∧
        (∀ s' n, t.wait = .none → s.accOf k = [] → s.closePhase g.pkg t.place.core = (s', some n) →
          exec .rsync s = .next (s'.stay k (.fence s'.nextId false true true (some n)))) ∧
        (∀ e q w z n, t.wait = .fence e q w z (some n) → g.lets k.tidx = true → t.iterates = none → c.members.length = c.count →
          (∀ y ∈ c.members, y.2 = (k.uid, j) ∨ s.railArrived c.gen y.2.1 y.2.2 = true) →
          (∀ i x, g.threads[i]? = some x → i ≠ k.tidx → g.shareIndex i = j → g.lr.role (i / 32) = 2 → x.exited = true ∨ x.wait = .rsync c.gen) →
          (∀ y o, (y, o) ∈ s.ops → o.ofShare k.uid j = true → o.rail = false ∨ o.st = .done) → (r.pos, k.uid, j) ∈ c.members →
          ∃ u x c', exec .rsync s = .next u ∧ u.thread? k = some x ∧ x.pc = t.pc + 4 ∧ x.wait = .none ∧
            u.chain? g.pkg g.launch r.chain = some c' ∧ c'.gen = c.gen + 1 ∧ SameBytes s u) ∧
        (SMap.get c.inbox [] r.pos = [] → s.carryWaiter g.pkg h.core k.uid j = none → s.railBusy k.uid j = false →
          ∃ u w h', exec .rleave s = .next u ∧ u.thread? k = some w ∧ w.pc = t.pc + 4 ∧ w.wait = .none ∧
            u.share? k.uid j = some h' ∧ h'.rail = none ∧ SameBytes s u)))) ∧
  (∀ (s : State) (x : Nat) (c : Carry) (ch : Chain), s.item? x = some (.carry c) → s.chain? c.pkg c.launch c.chain = some ch →
    let reaches (hub inbox : List Carry) : Prop := ∃ u ch', exec (.carryArrival x) s = .next u ∧ u.item? x = none ∧ SameBytes s u ∧
      u.chain? c.pkg c.launch c.chain = some ch' ∧ ch'.hub = hub ∧ SMap.get ch'.inbox [] c.pos = inbox
    let inbox := SMap.get ch.inbox [] c.pos
    (s.carryBehind x c = true → exec (.carryArrival x) s = .next (s.later (.carryArrival x))) ∧
    (s.carryBehind x c = false →
      (ch.formed = false → reaches (ch.hub ++ [c]) inbox) ∧
      (∀ y, ch.formed = true → s.memberHere ch c.pos = some y → ch.hub = [] →
        (inbox.length < 4 → reaches [] (inbox ++ [c])) ∧ (4 ≤ inbox.length → reaches [c] inbox))))

/-! ## Engines at work -/

/-- R219, R220, R225, R323: a piece of a CPT moves from memory into the scratchpad, behind the bytes it holds, and the copy goes on
at the next piece or row: at most 128 bytes and the words that the model's grain grants (log entry 119), to the end of a line of the
source, whole words of the destination or the rest of the row.
The rest of a row that lies in one line of a host page whose translation stands in the TLB can move whole. A copy whose rows have moved
completes: DONE, its class retires.
R85, R86, R355: an engine failure traps its thread at the next boundary with ENGINE = 1, TRAPPC the next instruction to issue and TRAPVA
the failing address; a KLD or KST that fails after its issue traps there with TRAPPC at it. -/
def Obligations.CopyEngine : Prop :=
  (∀ (s : State) (x : Nat) (o : Op), s.op? x = some o → o.kind = .cpt → o.st = .running → o.cancelled = false →
    o.row < o.desc.rows → o.desc.syncen = false → s.share? o.thr.uid o.share ≠ none →
    (∀ g, s.group? o.thr.uid = some g → ∀ th ∈ g.threads, ∀ q w, th.wait ≠ .swait q w) →
    let s0 := { s with grain := s.grain.drop 1 }
    let o := o.takeRow (s.grain.headD 0 / 64)
    let from_ := o.desc.ga + o.cur * o.desc.gstr + o.off
    let at_ := o.desc.xa % 2 ^ 19 + o.cur * o.desc.sstr + o.off
    let left := o.desc.rowb - o.off
    let moves (t : State) (bs : List Byte) : Prop := ∃ u, exec (.copyArrival x) s = .next u ∧
      u.sbytes o.thr.uid o.share at_ bs.length = bs ∧ u.gmem = t.gmem ∧ u.hmem = t.hmem ∧
      (∀ q, q < at_ ∨ at_ + bs.length ≤ q → u.sbytes o.thr.uid o.share q 1 = t.sbytes o.thr.uid o.share q 1) ∧
      (Instr.copyArrival x ∈ u.agenda ∨ Instr.copyComplete x ∈ u.agenda)
    (let src := from_ + o.held.length
     let n := pieceRead (s.grain.headD 0 % 64) o.held.length src (left - o.held.length)
     let q := s0.opRuns x o (fun m => decide (m ≠ 5)) true (piecesOf 0 [(src, n)])
     let r := q.1.opRead o src n
     let bs := o.held ++ r.2
     q.2 = .ready → r.1.groups = s.groups → moves r.1 (bs.take (pieceWrite bs.length at_ left))) ∧
    (∀ t, s.grain.headD 0 % 64 = 0 → s.PlainCodes → o.held = [] → 0 < left → from_ % 128 + left ≤ 128 → from_ < 2 ^ 56 → s.pkg? o.pkg ≠ none →
      s.tlbFind o.pkg o.core (s.tenantId o.pkg o.leaf) from_ = some t → t.mtype = 4 → t.side = false →
      moves s (s.hbytes o.pkg (t.addr from_) left))) ∧
  (∀ (s : State) (x : Nat) (o : Op), s.op? x = some o →
    o.kind = .cpt ∨ o.kind = .cps ∨ o.kind = .cpg ∨ o.kind = .cpsc ∨ o.kind = .cpz ∨ (o.kind = .cpb ∧ o.desc.stepen = false) →
    o.st = .running → o.desc.rows ≤ o.row →
    ∃ u o', exec (.copyComplete x) s = .next u ∧ u.op? x = some o' ∧ o'.st = .done ∧ u.opDone x = true ∧ SameBytes s u ∧
      ∀ t, s.thread? o.thr = some t → ∃ v, u.thread? o.thr = some v ∧ v.outst = (t.doneOut x).outst ∧ v.pc = t.pc ∧ v.regs = t.regs) ∧
  (∀ (s : State) (k : TKey) (g : Machine.Group) (t : Thread) (e : EngFail) (es : List EngFail), s.group? k.uid = some g →
    g.threads[k.tidx]? = some t → t.engFail = e :: es → t.exited = false → g.issues = true →
    let trapc : Word := BitVec.ofNat 32 (e.cause % 256 + (if e.engine then 4096 else 0))
    let pc := e.pc.getD (s.nextPc k g t)
    exec (.engineFailureTrap k.uid k.tidx) s =
      .next ((s.modThread k (fun t => { t with engFail := es })).takeTrap k trapc pc e.va some) ∧
    (s.effTrapvec g.pkg g.leaf ≠ 0 → t.depth < 2 → (s.effDbg g.pkg g.leaf).getLsbD 7 = false →
      ∃ u v, exec (.engineFailureTrap k.uid k.tidx) s = .next u ∧ u.thread? k = some v ∧ v.trapc = trapc ∧ v.trappc = pc ∧
        v.trapva = e.va ∧ v.depth = t.depth + 1 ∧ v.pc = BitVec.ofNat 64 (s.effTrapvec g.pkg g.leaf) ∧ v.engFail = es ∧ v.regs = t.regs ∧
        SameBytes s u))

/-- R111, R232, R234, R236, R238, R363: an MMA at the head of its core's queue whose operands can be read, in one part where the model's
grain grants that (log entry 119), performs one K-block whole: each
element (i, j) of its tile becomes the sum, in the order of R111, of row i of A and column j of B onto the old element, the block counts
in MPRG, and the next block is due, or the completion. MZ clears its tile. An MMA whose blocks are performed completes. -/
def Obligations.MatrixEngine : Prop :=
  (∀ (s : State) (x : Nat) (o : Op) (ka kb : Kind), s.op? x = some o → o.kind = .mma →
    o.st = .running → o.cancelled = false → s.matHead x o = true → s.withheld o.pkg = false →
    s.grain.headD 0 % 64 = 0 → o.held = [] → o.off = 0 →
    let d := mmaDesc o.blk
    let ftz := ftzOf o.fmode.toNat
    o.row < d.nkb → mmaKind d.akind = some ka → mmaKind d.bkind = some kb → d.spa = false →
    let runs := mmaRuns d ka.width kb.width o.row
    let ready := { s with grain := s.grain.drop 1 }.opRuns x o mmaType true (piecesOf 0 runs)
    let read := runs.foldl (fun ((t, bs) : State × List Byte) (va, n) => ((State.opRead t o va n).1, bs ++ (State.opRead t o va n).2)) (ready.1, [])
    let rows := splitRuns runs read.2
    ready.2 = .ready → read.1.pkg? o.pkg ≠ none → read.1.op? x = some o →
    ∃ u o', exec (.kBlockDone x) s = .next u ∧ u.op? x = some o' ∧ o'.row = o.row + 1 ∧
      (∀ i j, i < 64 → j < 128 → ∃ e, (u.tile o.pkg o.core o.z)[i * 128 + j]? = some e ∧
        let a := (blockElems ka (rows.getD i [])).map some
        let b := if d.tb then blockElems kb (rows.getD (64 + j) [])
          else (List.range 128).map (fun k => (blockElems kb (rows.getD (64 + k) [])).getD j (.fin false 0 0))
        e = BitVec.ofNat 32 (dotBlock ftz (decide (d.akind = 5 ∨ d.akind = 6)) (decide (8 ≤ d.akind ∧ 8 ≤ d.bkind))
          (if d.part then 0 else (read.1.tile o.pkg o.core o.z).getD (i * 128 + j) 0) a b).bits) ∧
      (∀ t, read.1.thread? o.thr = some t → ∃ v, u.thread? o.thr = some v ∧
        v.mprg.toNat = (o.z * 2 ^ 16 + (o.row + 1) % 2 ^ 16) % 2 ^ 32 ∧ v.regs = t.regs ∧ v.pc = t.pc) ∧
      (if o.row + 1 < d.nkb then Instr.kBlockDone x else .matrixComplete x) ∈ u.agenda ∧ SameBytes read.1 u) ∧
  (∀ (s : State) (x : Nat) (o : Op), s.op? x = some o → s.matHead x o = true → s.pkg? o.pkg ≠ none →
    (o.kind = .mz → o.st = .running → ∃ u o', exec (.matrixComplete x) s = .next u ∧ u.op? x = some o' ∧ o'.st = .done ∧
      (∀ i, i < 8192 → (u.tile o.pkg o.core o.z)[i]? = some 0) ∧ SameBytes s u) ∧
    (o.kind = .mma → o.st = .running → (mmaDesc o.blk).nkb ≤ o.row → ∃ u o', exec (.matrixComplete x) s = .next u ∧
      u.op? x = some o' ∧ o'.st = .done ∧ (∀ z, u.tile o.pkg o.core z = s.tile o.pkg o.core z) ∧ SameBytes s u))

/-- R240 to R249: an SCN at the head of its queue reads its inputs first, which need no carry, in one part where the model's grain grants
that (log entry 119); then it starts with no carry, with INIT
or with the carry that stands in its inbox, which an empty inbox makes it wait for. At step 3 a full successor inbox holds it; once its
carry is sent, it writes its outputs and completes. SCOP loads its operator program into the slot. -/
def Obligations.ScanEngine : Prop :=
  (∀ (s : State) (x : Nat) (o : Op) (g : Machine.Group) (p : OpProg), s.op? x = some o → o.kind = .scn → o.st = .queued → s.scanHead x o = true →
    s.withheld o.pkg = false → s.grain.headD 0 % 64 = 0 → s.opMayStart x o = true → s.group? o.thr.uid = some g → s.scnProg o = some p →
    let starts (t : State) (q : Op) (c : Option (List Word)) : Prop := ∃ u, exec (.scanStart x) s = .next u ∧
      u.op? x = some { q with st := .running, carry := c } ∧ Instr.scanComplete x ∈ u.agenda ∧ SameBytes t u
    (o.started = true →
      (o.scn.cin = 0 → starts s o none) ∧
      (o.scn.cin = 1 → starts s o (some (s.swords o.thr.uid o.share o.scn.init (o.scn.ch * p.n)))) ∧
      (∀ h m c, o.scn.cin = 2 → g.shares[o.share]? = some h → h.rail = some m → s.chain? g.pkg g.launch m.chain = some c →
        (SMap.get c.inbox [] m.pos = [] → exec (.scanStart x) s = .next s) ∧
        (∀ cr rest, SMap.get c.inbox [] m.pos = cr :: rest → cr.n = p.n → cr.ch = o.scn.ch → starts s o (some cr.vals)))) ∧
    (o.started = false → o.scn.outm < 2 ^ p.n → scnExtent o.scn p.n (2048 * g.lr.scrg) = none → o.scn.cin = 0 → o.held = [] → o.off = 0 →
      let n := o.scn.len * o.scn.ch * p.n * o.scn.esize
      let ready := { s with grain := s.grain.drop 1 }.opRuns x o mmaType true (piecesOf 0 [(o.scn.inp, n)])
      let read := ready.1.opRead o o.scn.inp n
      ready.2 = .ready → read.1.op? x = some o → starts read.1 { o with held := read.2, started := true } none)) ∧
  (∀ (s : State) (x : Nat) (o : Op), s.op? x = some o → s.scanHead x o = true →
    (∀ p, o.kind = .scop → o.st = .queued → s.opMayStart x o = true → opProgOf (s.sbytes o.thr.uid o.share o.arg.toNat 40) = some p →
      s.share? o.thr.uid o.share ≠ none →
      ∃ u o' h, exec (.scanComplete x) s = .next u ∧ u.op? x = some o' ∧ o'.st = .done ∧ u.share? o.thr.uid o.share = some h ∧
        SMap.find? h.optab o.z = some p ∧ SameBytes s u) ∧
    (∀ g p, o.kind = .scn → o.st = .running → s.group? o.thr.uid = some g → s.scnProg o = some p →
      (s.scanRoom o = false → exec (.scanComplete x) s = .next (s.later (.scanComplete x))) ∧
      (o.sent = true → s.withheld o.pkg = false → s.grain.headD 0 % 64 = 0 → o.off = 0 →
        let ready := { s with grain := s.grain.drop 1 }.opRuns x o mmaType true (piecesOf 1 [(o.scn.out, o.held.length)])
        let wrote := ready.1.opWrite o o.scn.out o.held
        ready.2 = .ready → wrote.op? x = some o →
        ∃ u o', exec (.scanComplete x) s = .next u ∧ u.op? x = some o' ∧ o'.st = .done ∧ SameBytes wrote u)))

/-- R246: the combine order of a scan, blocks of 16 first, then the sweeps over the blocks, gives for an operator that is associative on
the values the running product: its prefixes and, as the outgoing carry, the whole product. -/
def Obligations.ScanOrder : Prop :=
  ∀ (f : Word → Word → Word) (x : Word) (xs : List Word), xs.length < 4096 → (∀ a b c, f (f a b) c = f a (f b c)) →
  let op (l r : Tup) : Tup × Nat := ([f (l.getD 0 0) (r.getD 0 0)], 0)
  ∃ ps, scanChannel op none ((x :: xs).map (fun v => [v])) = ([xs.foldl f x], ps, 0) ∧ ps.length = xs.length + 1 ∧
    ∀ i, i ≤ xs.length → ps[i]? = some [(xs.take i).foldl f x]

/-- R208, R209, R211, R214, R373, R421: PUB of an untagged pair takes a tag trap, CAUSE 0x07, with TRAPVA the pair; otherwise, with
its log empty and its release phase closed and complete, it starts a walk at the lowest idle scribe of its die, or queues it. WALK_START
gives a scribe the head of the queue. An object whose body has been read is marked PUBLISHED at the walk's scope, and its lines take their VIS next; after the last of
them the object leaves the stack. A walk with nothing left completes, and its scribe is idle. -/
def Obligations.Publication : Prop :=
  (∀ (h a : Nat) (sc : Scope) (s : State) (k : TKey) (g : Machine.Group) (t : Thread), s.Issuing k g t → OperandsReady g t [(a, 2)] →
    let d := dieOf t.place.core
    (t.tag a = false → exec (.pub h sc a) s = .next (s.takeTrap k 0x07 t.pc (t.rd64 a) some)) ∧
    (t.tag a = true → s.logEmpty k t = false → exec (.pub h sc a) s = .next (s.stay k .logEmpty)) ∧
    (∀ s' n, t.tag a = true → t.log = [] → s.accOf k = [] → sc ≠ .grp → t.cnt .store < 63 → ((s.pkgD g.pkg).die d).pubQ = [] →
      t.wait = .none → s.closePhase g.pkg t.place.core = (s', some n) →
      exec (.pub h sc a) s = .next (s'.stay k (.fence s'.nextId false true (decide (sc ≠ .clu)) (some n)))) ∧
    (t.tag a = true → t.log = [] → s.accOf k = [] → (∃ e w n, t.wait = .fence e false true w (some n)) → t.cnt .store < 63 →
      ((s.pkgD g.pkg).die d).pubQ = [] →
      (∀ w, s.pkg? g.pkg ≠ none → s.idleScribe g.pkg d = some w → ∃ u o g', exec (.pub h sc a) s = .next u ∧
        u.thread? k = some (((t.addOut .store s.nextId).wrH h s.nextId).next) ∧ u.op? s.nextId = some o ∧ o.kind = .pub ∧
        o.st = .running ∧ o.ga = t.rd64 a ∧ o.scribe = w ∧ Instr.objectMark s.nextId ∈ u.agenda ∧ SameBytes s u ∧
        u.group? k.uid = some g' ∧ g'.gstored = true) ∧
      (s.pkg? g.pkg ≠ none → s.idleScribe g.pkg d = none → ∃ u o, exec (.pub h sc a) s = .next u ∧ u.op? s.nextId = some o ∧
        o.kind = .pub ∧ o.st = .queued ∧ ((u.pkgD g.pkg).die d).pubQ = [s.nextId] ∧ SameBytes s u))) ∧
  (∀ (s : State) (p d w x : Nat) (rest : List Nat) (o : Op), s.pkg? p ≠ none → s.idleScribe p d = some w →
    ((s.pkgD p).die d).pubQ = x :: rest → x ∉ rest → s.op? x = some o → o.kind = .pub → o.st = .queued → o.pkg = p → dieOf o.core = d →
    ∃ u o', exec (.walkStart p d) s = .next u ∧ u.op? x = some o' ∧ o'.st = .running ∧ o'.scribe = w ∧
      1 ≤ o'.stamp ∧ o'.stamp ≤ 65535 ∧ ((u.pkgD p).die d).pubQ = rest ∧ Instr.objectMark x ∈ u.agenda ∧ SameBytes s u) ∧
  (∀ (s s1 s2 : State) (x va next m h h8 : Nat) (r : Trans) (o : Op), s.op? x = some o → o.kind = .pub → o.st = .running →
    s.alive o.pkg = true → o.formed = true → o.marking = none → o.stack = [(va, next)] → o.off = 0 →
    s.walkAddr x o va 2 = (s1, .ready r m) → s1.walkHeader o r va = (s2, h, h8) → s2.Uncached → s2.op? x = some o →
    hdrValid h h8 = true → hdrLen h / 8 ≤ next →
    ∃ u o', exec (.objectMark x) s = .next (State.walkOnFor 64 x u) ∧ hdrState (u.gnat (r.addr va) 8) = 2 ∧
      hdrScope (u.gnat (r.addr va) 8) = o.scope.code ∧ hdrLen (u.gnat (r.addr va) 8) = hdrLen h ∧ u.op? x = some o' ∧
      o'.stack = o.stack ∧ o'.entered = o.entered.drop 1 ∧ o'.marking = some (0, 16 + hdrLen h)) ∧
  (∀ (s : State) (x va next i len : Nat) (o : Op), s.op? x = some o → o.kind = .pub → o.st = .running → s.alive o.pkg = true →
    o.formed = true → o.marking = some (i, len) → o.stack = [(va, next)] → o.row = 0 →
    (∀ (s' : State) (t : Trans) (m : Nat), 0 < len → va / 128 * 128 + 128 * i < va + len →
      s.walkPlace x o (max va (va / 128 * 128 + 128 * i)) 0 = (s', .ready t m) → s'.op? x = some o →
      let ga := t.addr (max va (va / 128 * 128 + 128 * i))
      ∃ u, s.visLine x o va i len = (u, .on) ∧ u.op? x = some { o with marking := some (i + 1, len) } ∧
        (u.lineMeta ga).vis = if (va ≤ va / 128 * 128 + 128 * i ∧ va / 128 * 128 + 128 * i + 128 ≤ va + len) ∨ (s'.lineMeta ga).vis = 2
          then 2 else 3) ∧
    (va + len ≤ va / 128 * 128 + 128 * i → ∃ u o', exec (.objectMark x) s = .next u ∧ u.op? x = some o' ∧ o'.stack = [] ∧
      o'.marking = none ∧ Instr.walkComplete x ∈ u.agenda ∧ SameBytes s u)) ∧
  (∀ (s : State) (x : Nat) (o : Op), s.op? x = some o → o.kind = .pub → o.st = .running → s.alive o.pkg = true → o.formed = true →
    o.stack = [] → o.waitList = [] → s.pkg? o.pkg ≠ none →
    ∃ u o', exec (.walkComplete x) s = .next u ∧ u.op? x = some o' ∧ o'.st = .done ∧
      SMap.find? ((u.pkgD o.pkg).die (dieOf o.core)).scribes o.scribe = none ∧ SameBytes s u)

/-! ## Bundles -/

/-- R23, R25 to R28: a bundling round forms at most four bundles of ready threads of the next group, each of threads at one PC, on
lanes that differ; the first bundle's PC has a ready thread of the highest effective priority; with no ready thread the core has
no bundle. A thread that has not issued for 64 rounds of its group takes priority 7; a YIELD demotion ends after its 64 rounds. -/
def Obligations.BundlingRounds : Prop :=
  (∀ (s : State) (p c : Nat), s.roundGroup p c = none → exec (.bundlingRound p c) s =
    .next (s.modCore p c (fun k => { k with bundles := [], open_ := false }))) ∧
  (∀ (s : State) (p c slot u : Nat) (g : Machine.Group), s.pkg? p ≠ none → s.roundGroup p c = some (slot, u) → s.group? u = some g →
    ∃ v, exec (.bundlingRound p c) s = .next v ∧ SameBytes s v ∧
      let ready (m : Nat) (t : Thread) : Prop := g.threads[m]? = some t ∧ t.place.core = c ∧ s.ready ⟨u, m⟩ = true
      let rank (t : Thread) : Nat := t.promote.demotionEnd.effPrio
      let k := v.coreOf p c
      k.rrNext = (slot + 1) % 32 ∧ k.round = (s.coreOf p c).round + 1 ∧ k.open_ = false ∧ k.bundles.length ≤ 4 ∧
      (∀ b ∈ k.bundles, b.threads ≠ [] ∧ ∀ x ∈ b.threads, x.uid = u ∧ (∃ t, ready x.tidx t ∧ t.pc = b.pc) ∧
        ∀ y ∈ b.threads, ∀ t t', g.threads[x.tidx]? = some t → g.threads[y.tidx]? = some t' → x ≠ y →
          t.place.lane ≠ t'.place.lane) ∧
      (∀ b bs, k.bundles = b :: bs → ∃ m t, ready m t ∧ t.pc = b.pc ∧ ∀ m' t', ready m' t' → rank t' ≤ rank t)) ∧
  (∀ (s : State) (g t : Nat) (th : Thread), s.thread? ⟨g, t⟩ = some th →
    (s.ready ⟨g, t⟩ = true → ∃ u v, exec (.priorityPromotion g t) s = .next u ∧ SameBytes s u ∧ u.thread? ⟨g, t⟩ = some v ∧
      (64 ≤ th.idle → v = { th with promoted := true } ∧ v.effPrio = 7) ∧ (th.idle < 64 → v = th)) ∧
    (∃ u v, exec (.yieldDemotionEnd g t) s = .next u ∧ SameBytes s u ∧ u.thread? ⟨g, t⟩ = some v ∧
      (th.demLeft = 0 → v = { th with demoted := false }) ∧ (th.demLeft ≠ 0 → v = th)))

/-! ## Launches -/

/-- R50 to R57, R66 to R69, R357: the head record of a served queue is taken while every LFMAX of its path has room: HEAD advances
and the launch stands in the sequencer; a stopped queue, an empty one or one whose record stalls is left as it is, and an error,
of a queue with EN 0 too, sets QERR. A record that is not valid, or one whose groups no budget admits, completes with STATUS 3 or 5. A waiting launch
becomes eligible, waits on, or fails, by what its dependences read. LAUNCH_ENQUEUE writes the record at TAIL, which advances,
and answers 0, or answers 1 or 2. A launch fully handed out whose 48 clusters have reported completes with STATUS 1. -/
def Obligations.LaunchRecords : Prop :=
  (∀ (s : State) (p blk q : Nat) (b : Block), s.Uncached → s.block? p blk = some b → b.leaf = true → b.state = 1 →
    s.served p blk = true → blk * 16 + q ∈ (s.pkgD p).served → s.stopped (blk * 16 + q) = false →
    q < 16 → (∀ x ∈ s.path p blk, x.1 % 512 = 0) →
    let d := (s.readQueue p blk q).2
    let left : Prop := ∃ u, exec (.recordTake p blk q) s = .next u ∧ SameBytes s u ∧ (u.pkgD p).launches = (s.pkgD p).launches ∧
      (u.pkgD p).erred = (s.pkgD p).erred
    let room : Prop := ∀ x ∈ budgetPath 4 (s.path p blk), s.inFlight p x.1 < x.2.lfmax
    let r := decodeRecord (s.recRead p (d.slot (d.head % d.size)) 128).2
    let l := Launch.take blk (s.tenantId p blk) r
    let st := (s.depStatus p r.deps).2
    let takes (R : State → Prop) : Prop := ∃ u, exec (.recordTake p blk q) s = .next u ∧
      (u.readQueue p blk q).2.head = (d.head + 1) % d.size ∧ R u
    let ends (n : Nat) : Prop := ∃ u, exec (.recordTake p blk q) s = .next u ∧ u.launch? p s.nextId = none ∧ (2 ^ 63 ≤ r.compl.toNat →
      u.hbytes p (recordAddr r.compl.toNat % 2 ^ 56) 32 = l.record n (s.now p))
    (d.en = false → d.broken = false → left) ∧
    (d.broken = true → ∃ u, exec (.recordTake p blk q) s = .next u ∧ (u.readQueue p blk q).2.qerr = true ∧
      (blk * 16 + q, false) ∈ (u.pkgD p).erred) ∧
    (d.en = true → d.broken = false → d.qerr = false →
      (d.tail = d.head % d.size ∨ ¬ room → left) ∧
      (d.tail ≠ d.head % d.size → room →
        (r.depblk = true → (∃ v ∈ st, v = 0) → (∀ v ∈ st, v < 2) → left) ∧
        (r.depblk = false ∨ (∀ v ∈ st, v = 1) →
          (recordOk r (s.tenantField p blk (·.chcount) 0) = false → ends 3) ∧
          (recordOk r (s.tenantField p blk (·.chcount) 0) = true → r.groups ≠ 0 →
            (s.overBudget p blk r = true → ends 5) ∧
            (s.overBudget p blk r = false → (∀ w ∈ r.deps, w % 2 = 0) →
              takes (fun u => u.launch? p s.nextId = some { l with waiting := false } ∧ Instr.groupHandOut p ∈ u.agenda))))))) ∧
  (∀ (s : State) (p : Nat), ∃ u, exec (.dependenceRecheck p) s = .next u ∧
    (∀ x ∈ (s.pkgD p).served, Instr.recordTake p (x / 16) (x % 16) ∈ u.agenda) ∧
    (∀ l x, s.Uncached → (s.pkgD p).launches = [(l, x)] → x.waiting = true → x.total ≠ 0 →
      let st := (s.depStatus p x.lr.deps).2
      ((∃ v ∈ st, 2 ≤ v) → u.launch? p l = none) ∧ ((∃ v ∈ st, v = 0) → (∀ v ∈ st, v < 2) → u.launch? p l = some x) ∧
      ((∀ v ∈ st, v = 1) → u.launch? p l = some { x with waiting := false }))) ∧
  (∀ (s : State) (x q : Nat) (a : Access), s.Uncached → s.access? x = some a → a.kind = .launch q → a.stage = .performed →
    x < s.nextId →
    let d := (s.readQueue a.pkg a.leaf q).2
    let stopped : Prop := d.qerr = true ∨ s.stopped (a.leaf * 16 + q) = true
    let answers (v : Nat) (R : State → Prop) : Prop := ∃ u, exec (.launchEnqueue x) s = .next u ∧
      u.access? x = some { a with value := BitVec.ofNat 64 v } ∧ Instr.accessCompletion x ∈ u.agenda ∧ R u
    (stopped → answers 2 (SameBytes s)) ∧
    (¬ stopped → d.broken = true → answers 2 (fun u => (u.readQueue a.pkg a.leaf q).2.qerr = true)) ∧
    (¬ stopped → d.broken = false → d.en = false ∨ d.devfed = false → answers 2 (SameBytes s)) ∧
    (¬ stopped → d.broken = false → d.en = true → d.devfed = true →
      ((d.tail + 1) % d.size = d.head % d.size → answers 1 (SameBytes s)) ∧
      ((d.tail + 1) % d.size ≠ d.head % d.size → answers 0 (fun u =>
        (u.readQueue a.pkg a.leaf q).2.tail = (d.tail + 1) % d.size ∧
        (d.host = true → u.hbytes a.pkg (d.slot d.tail % 2 ^ 56) 128 = leBytes 128 a.line.toNat))))) ∧
  (∀ (s : State) (p c l : Nat) (x : Launch), s.launch? p l = some x →
    (x.handedOut = false ∨ SMap.get x.placed 0 c ≠ SMap.get x.finished 0 c → exec (.clusterReport p c l) s = .next s) ∧
    (x.handedOut = true → SMap.get x.placed 0 c = SMap.get x.finished 0 c →
      ((insertNat x.reported c).length < 48 → ∃ u, exec (.clusterReport p c l) s = .next u ∧ SameBytes s u ∧
        u.launch? p l = some { x with reported := insertNat x.reported c }) ∧
      (48 ≤ (insertNat x.reported c).length → ∃ u, exec (.clusterReport p c l) s = .next u ∧ u.launch? p l = none ∧
        (2 ^ 63 ≤ x.lr.compl.toNat → u.hbytes p (recordAddr x.lr.compl.toNat % 2 ^ 56) 32 = x.record 1 (s.now p)))))

/-- R43, R54, R56, R61 to R65, R75, R170: the sequencer's one eligible launch hands its next group to the first die that takes it,
and its leaf's service count grows by k × ceil(65,536 / W). The distributor places the group: every thread starts at ENTRY with the
start state of R54, each share on a core that has room; a group with no room goes back. An empty cluster changes its L1 mode. A
group whose drain has ended is gone and its launch counts it done; one whose save has settled sends home what it wrote, and is
then saved and in line to be placed again. -/
def Obligations.GroupsPlaced : Prop :=
  (∀ (s : State) (p : Nat), (∃ e ∈ (s.pkgD p).dies, e.2.handed ≠ []) → exec (.groupHandOut p) s = .next s) ∧
  (∀ (s : State) (p l d g : Nat) (x y : Launch) (w : Option Nat), (s.pkgD p).launches = [(l, x)] → s.eligible p x = true → x.eligible = true →
    (∀ e ∈ (s.pkgD p).dies, e.2.handed = [] ∧ e.2.refill = []) → s.offer p l x = some d → x.nextGroup s = some (g, w, y) →
    ∃ u z, exec (.groupHandOut p) s = .next u ∧ ((u.pkgD p).die d).handed = [⟨l, g, w, none⟩] ∧ Instr.groupPlace p d ∈ u.agenda ∧
      u.launch? p l = some z ∧ z.next = y.next ∧ z.savedQ = y.savedQ ∧ z.flushedQ = y.flushedQ ∧ z.tstart.isSome = true ∧
      let W := (budgetPath 0 (s.path p x.leaf)).foldl (fun m (e : Nat × Block) => min m e.2.cormax) 512
      u.serv p x.leaf = s.serv p x.leaf + shareCount x.lr * ((65536 + W - 1) / W)) ∧
  (∀ (s : State) (p die : Nat) (h : Handed) (rest : List Handed) (l : Launch) (b : Block), ((s.pkgD p).die die).handed = h :: rest →
    s.launch? p h.launch = some l → s.block? p l.leaf = some b → b.state = 1 →
    (∀ cores, s.findCores p die h.launch h.core = some cores → h.saved = none →
      (∀ c ∈ cores, ((s.pkgD p).cluster (clusterOf c)).fused = l.lr.fusel1) →
      ∃ u g, exec (.groupPlace p die) s = .next u ∧ ((u.pkgD p).die die).handed = rest ∧ u.group? s.nextId = some g ∧
        g.lr = l.lr ∧ g.gidx = h.gidx ∧ g.phase = .running ∧ g.shares.map (·.core) = cores ∧ g.shares.map (·.crews) = shareCrews l.lr ∧
        (∀ e ∈ g.shares, e.kregs = startK l.lr ∧ e.scratch = []) ∧
        (∀ t ∈ g.threads, t = Thread.start l.lr.entry t.place t.since ∧ t.place.core ∈ cores)) ∧
    (s.findCores p die h.launch h.core = none → h.saved = none → h.gidx + 1 = l.next → ∃ u, exec (.groupPlace p die) s = .next u ∧
      ((u.pkgD p).die die).handed = rest ∧ u.launch? p h.launch = some { l with next := h.gidx } ∧ u.groups = s.groups ∧ SameBytes s u)) ∧
  (∀ (s : State) (p c : Nat) (fused : Bool), s.pkg? p ≠ none → ((s.pkgD p).cluster c).fused ≠ fused →
    ((∃ g ∈ s.resident p, ∃ h ∈ g.2.shares, clusterOf h.core = c) → exec (.clusterModeChange p c fused) s = .next s) ∧
    ((∀ g ∈ s.resident p, ∀ h ∈ g.2.shares, clusterOf h.core ≠ c) → s.wbs = [] → (∀ d, (s.coreOf p d).l1 = []) →
      ∃ u, exec (.clusterModeChange p c fused) s = .next u ∧ ((u.pkgD p).cluster c).fused = fused ∧ SameBytes s u)) ∧
  (∀ (s : State) (n : Nat) (g : Machine.Group), s.group? n = some g → g.phase = .draining → g.frozen = false →
    let r := s.drainRails n g
    (r.drainBusy n = true → exec (.drainEnd n) s = .next (r.later (.drainEnd n))) ∧ ((∀ h ∈ g.shares, h.rail = none) → r = s) ∧
    (∀ l, r.drainBusy n = false → r.launch? g.pkg g.launch = some l → ∃ u l', exec (.drainEnd n) s = .next u ∧ u.group? n = none ∧
      u.launch? g.pkg g.launch = some l' ∧ l'.done = l.done + 1 ∧ l'.resident = l.resident - 1 ∧
      l'.meanSum = l.meanSum + s.elapsedOf g ∧ l'.meanCount = l.meanCount + 1 ∧ Instr.groupHandOut g.pkg ∈ u.agenda)) ∧
  (∀ (s : State) (n : Nat) (g : Machine.Group), s.group? n = some g → g.phase = .saving → g.frozen = false →
    (s.settled n = false → exec (.saveDone n) s = .next (s.later (.saveDone n))) ∧
    (s.settled n = true → s.writtenLines g ≠ [] → ∃ u, exec (.saveDone n) s = .next u ∧ u.group? n = some g ∧
      Instr.saveDone n ∈ u.agenda) ∧
    (s.settled n = true → s.writtenLines g = [] → s.writesUnderWay g = true → exec (.saveDone n) s = .next (s.later (.saveDone n))) ∧
    (∀ l, s.settled n = true → s.writtenLines g = [] → s.writesUnderWay g = false → s.launch? g.pkg g.launch = some l → ∃ u g' l', exec (.saveDone n) s = .next u ∧ u.group? n = some g' ∧
      g'.phase = .saved ∧ g'.elapsed = s.elapsedOf g ∧ u.launch? g.pkg g.launch = some l' ∧ l'.savedQ = l.savedQ ++ [n] ∧
      l'.handedOut = false ∧ l'.preempts = l.preempts + 1 ∧ Instr.groupHandOut g.pkg ∈ u.agenda))

/-! ## Faults and translations -/

/-- R83, R258: a fault that waits is written at index W mod FQENT of its tenant's ring with PHASE the lap parity, which flips at entry
FQENT − 1; W counts it, and the message of FAULTVEC is sent. A full ring takes nothing, and the wait is counted once. A write of h to
FQHEAD takes effect only when (h − FQHEAD) mod 2^32 ≤ (W − FQHEAD) mod 2^32; any other sets ERR. -/
def Obligations.FaultQueue : Prop :=
  (∀ (s : State) (p ta : Nat) (f : PFault) (b : Block), (s.pkgD p).faults = [f] → f.posted = false → s.tenantBlock p f.tenant = some (ta, b) →
    let base := (s.fqOf p ta).1
    let ent := (s.fqOf p ta).2
    let q := SMap.get (s.pkgD p).fqs FQ.init f.tenant
    let i := q.w.toNat % ent
    ent ≠ 0 →
    ((q.w - q.head).toNat < ent → ∃ u, exec (.faultPost p f.tenant) s = .next u ∧ u.hbytes p (base + 64 * i) 64 = f.bytes q.lap ∧
      SMap.get (u.pkgD p).fqs FQ.init f.tenant = { q with w := q.w + 1, lap := if i + 1 = ent then !q.lap else q.lap, base := base, ent := ent } ∧
      (∀ fn ∈ (s.pkgD p).fnsOf f.tenant, .msix fn (bitsOf ((s.pkgD p).ctlOf fn).vecs.toNat 10 0) ∈ (u.pkgD p).signals) ∧
      (f.open_ = true → (u.pkgD p).faults = [{ f with posted := true }]) ∧ (f.open_ = false → (u.pkgD p).faults = [])) ∧
    (ent ≤ (q.w - q.head).toNat → ∃ u, exec (.faultPost p f.tenant) s = .next u ∧ u.hmem = s.hmem ∧ u.gmem = s.gmem ∧
      (u.pkgD p).faults = [{ f with waited := true }] ∧ (u.pkgD p).fqs = (s.pkgD p).fqs ∧
      SMap.get (u.pkgD p).counters 0 (ctrKey (5, 32) 0) = SMap.get (s.pkgD p).counters 0 (ctrKey (5, 32) 0) + (if f.waited then 0 else 1))) ∧
  (∀ (s : State) (p fn t : Nat) (v : DWord), s.barOpen p = true → (s.pkgD p).actsOn fn = some t →
    let q := SMap.get (s.pkgD p).fqs FQ.init t
    let h : BitVec 32 := v.setWidth 32
    ((h - q.head).toNat ≤ (q.w - q.head).toNat → ∃ u, exec (.fqheadWrite p fn v) s = .next u ∧
      SMap.get (u.pkgD p).fqs FQ.init t = { q with head := h } ∧ Instr.faultPost p t ∈ u.agenda ∧ SameBytes s u) ∧
    (¬ (h - q.head).toNat ≤ (q.w - q.head).toNat → ∃ u, exec (.fqheadWrite p fn v) s = .next u ∧
      (u.pkgD p).fqs = (s.pkgD p).fqs ∧ ((u.pkgD p).ctlOf fn).err = true ∧ SameBytes s u))

/-- R82 to R86: a RESOLVE of an unresolved entry of the tenant removes it and changes every log entry that names it: action 0 to
replay, 1 and 2 to a failure with CAUSE 0x0D or 0x0E, in a saved group too; one that names no unresolved entry, or action 3, is counted, and action 3 sets
ERR. The oldest entry of a log then replays: the access translates afresh, for a saved group at its restore, or it traps once its group may issue (or settles for a save); an unresolved one
stays. R121, R127, R129: a walk's translation is cached; a miss that another walk has served ends with it; a faulting walk posts its
fault; a walk marked by an invalidate is walked again. -/
def Obligations.ResolutionAndReplay : Prop :=
  (∀ (s : State) (p fn : Nat) (v : DWord), s.barOpen p = true →
    let id := v.toNat % 2 ^ 16
    let act := v.toNat / 2 ^ 16 % 4
    (∀ t f, act ≠ 3 → (s.pkgD p).actsOn fn = some t → (s.pkgD p).faults.find? (fun f => decide (f.id = id) && f.open_) = some f → f.tenant = t →
      ∃ u, exec (.resolve p fn v) s = .next u ∧ (∀ f ∈ (u.pkgD p).faults, f.id = id → f.open_ = false) ∧
        ∀ k g t, s.group? k.uid = some g → g.pkg = p → g.threads[k.tidx]? = some t → ∃ w, u.thread? k = some w ∧
          w.log = t.log.map (fun e => if e.faultId = id ∧ e.lstate = 1 then { e with
            faultId := if act = 0 then id else 0, lstate := if act = 0 then 2 else 3, cause := if act = 0 then 0 else if act = 1 then 0x0D else 0x0E } else e) ∧
          ((∃ e ∈ t.log, e.faultId = id ∧ e.lstate = 1) → Instr.accessReplay k.uid k.tidx ∈ u.agenda)) ∧
    (act = 3 ∨ (s.pkgD p).faults.find? (fun f => decide (f.id = id) && f.open_) = none → ∃ u, exec (.resolve p fn v) s = .next u ∧
      (u.pkgD p).faults = (s.pkgD p).faults ∧ u.groups = s.groups ∧ SameBytes s u ∧
      SMap.get (u.pkgD p).counters 0 (ctrKey (5, 33) 0) = SMap.get (s.pkgD p).counters 0 (ctrKey (5, 33) 0) + 1 ∧
      (act = 3 → ((u.pkgD p).ctlOf fn).err = true))) ∧
  (∀ (s : State) (k : TKey) (g : Machine.Group) (t : Thread) (e : LogEntry) (es : List LogEntry) (a : Access), s.group? k.uid = some g →
    g.threads[k.tidx]? = some t → t.log = e :: es → s.access? e.acc = some a → a.stage = .logged →
    (e.lstate = 1 → exec (.accessReplay k.uid k.tidx) s = .next s) ∧
    (e.lstate = 3 ∨ (e.lstate = 2 ∧ e.cause ≠ 0) → g.issues = true → exec (.accessReplay k.uid k.tidx) s = .next (s.deferredTrap e.acc a e.cause)) ∧
    (e.lstate = 3 ∨ (e.lstate = 2 ∧ e.cause ≠ 0) → g.issues = false → g.stepT = none → g.phase ≠ .saving → exec (.accessReplay k.uid k.tidx) s = .next s) ∧
    (e.lstate = 2 → e.cause = 0 → g.phase = .saved → exec (.accessReplay k.uid k.tidx) s = .next s) ∧
    (e.lstate = 2 → e.cause = 0 → g.phase ≠ .saved →
      let b := { a with stage := .translate, replay := true, trans := [], checked := false }
      ∀ s' b', (s.setItem e.acc (.access b)).xlateAccess b = (s', b', .done) → ∃ u, exec (.accessReplay k.uid k.tidx) s = .next u ∧
        b'.kind.event e.acc ∈ u.agenda ∧
        (s'.access? e.acc ≠ none → u.access? e.acc = some { b' with stage := .ready }))) ∧
  (∀ (s : State) (x : Nat) (w : Walk), s.item? x = some (.walk w) →
    (w.redo = true → ∃ u, exec (.translationWalkDone x) s = .next u ∧ u.item? x = some (.walk { w with redo := false }) ∧
      Instr.translationWalkDone x ∈ u.agenda ∧ SameBytes s u) ∧
    (∀ s' t, w.redo = false → w.fault = 0 → w.failed = 0 → w.kind = 3 → s.walkWaits x w = false → s.walkHit w = none →
      s.walk w.pkg (dieOf w.core) w.leaf w.va w.dir = (s', .ok t) →
      t.covers w.va = true → s'.pkg? w.pkg ≠ none → s'.pageReady w.pkg t.mtype t.peer (t.addr w.va / 65536) (decide (w.dir = 1)) = true →
      ∃ u, exec (.translationWalkDone x) s = .next u ∧ u.item? x = none ∧ u.tlbFind w.pkg w.core w.tenant w.va = some t) ∧
    (∀ t, w.redo = false → w.fault = 0 → w.failed = 0 → w.kind = 3 → s.walkWaits x w = false → s.tlbFind w.pkg w.core w.tenant w.va = some t →
      t.serves w.dir = true → s.pageReady w.pkg t.mtype t.peer (t.addr w.va / 65536) (decide (w.dir = 1)) = true →
      ∃ u, exec (.translationWalkDone x) s = .next u ∧ u.item? x = none ∧ u.pkgs = s.pkgs ∧ SameBytes s u) ∧
    (∀ s' s2 id, w.redo = false → w.fault = 0 → w.failed = 0 → w.kind = 3 → s.walkWaits x w = false → s.walkHit w = none →
      s.walk w.pkg (dieOf w.core) w.leaf w.va w.dir = (s', .fault) →
      s'.item? x = some (.walk w) → s'.postFault w.pkg w.leaf 3 w.dir 0 w.va (s'.walkName w) (dieOf w.core) = (s2, some id) →
      ∃ u, exec (.translationWalkDone x) s = .next u ∧ u.item? x = some (.walk { w with fault := id }) ∧
        ∃ f ∈ (u.pkgD w.pkg).faults, f.id = id))

/-- R129, R256: an INVALIDATE with no reserved bit set, accepted while fewer than 16 are in flight, advances INVSEQ; no TLB of the
package keeps a translation it names, and no walk cache or cached attribute entry of the tenant stays; otherwise ERR. It completes once no access still uses a
dropped translation and no walk is to be walked again: INVDONE advances. -/
def Obligations.Invalidation : Prop :=
  (∀ (s : State) (p fn : Nat), s.Uncached → s.barOpen p = true → ((s.pkgD p).ctlOf fn).busy = false →
    let a0 := ((s.pkgD p).ctlOf fn).arg0.toNat
    let a1 := ((s.pkgD p).ctlOf fn).arg1.toNat
    let regid := a0 / 2 ^ 48
    let bytes := match s.tenantBlock p regid with | some (a, _) => pageBytes ((s.rafEntry p a a1).2 / 2 ^ 62 % 4) | none => 65536
    let bad : Prop := a0 / 2 ^ 33 % 2 ^ 15 ≠ 0 ∨ a1 / 2 ^ 56 ≠ 0 ∨ 16 ≤ (s.pkgD p).invals.length
    (bad → ∃ u, exec (.invalidate p fn) s = .next u ∧ ((u.pkgD p).ctlOf fn).err = true ∧
      ((u.pkgD p).ctlOf fn).invseq = ((s.pkgD p).ctlOf fn).invseq ∧ (u.pkgD p).invals = (s.pkgD p).invals ∧ SameBytes s u) ∧
    (¬ bad → (s.pkgD p).owns fn regid = true → ∃ u, exec (.invalidate p fn) s = .next u ∧ SameBytes s u ∧
      ((u.pkgD p).ctlOf fn).invseq = ((s.pkgD p).ctlOf fn).invseq + 1 ∧ Instr.invalidateDone p ∈ u.agenda ∧
      (∀ n t, a0 / 2 ^ 32 % 2 = 1 ∨ (t.base < a1 + a0 % 2 ^ 32 * bytes ∧ a1 < t.base + t.bytes) → n = regid →
        ∀ c, (n, t) ∉ (u.coreOf p c).tlb ∧ (n, t) ∉ ((u.pkgD p).cluster c).tlb) ∧
      (∀ d e, e ∈ ((u.pkgD p).die d).walkCache → e.1 ≠ regid) ∧ ∀ d e, e ∈ ((u.pkgD p).die d).attrs → e.1 ≠ regid)) ∧
  (∀ (s : State) (p : Nat) (i : Inval), (s.pkgD p).invals = [i] →
    (s.invalOver p i = true → ∃ u, exec (.invalidateDone p) s = .next u ∧ (u.pkgD p).invals = [] ∧
      ((u.pkgD p).ctlOf i.fn).invdone = ((s.pkgD p).ctlOf i.fn).invdone + 1 ∧ SameBytes s u) ∧
    (s.invalOver p i = false → ∃ u, exec (.invalidateDone p) s = .next u ∧ (u.pkgD p).invals = [i] ∧
      ((u.pkgD p).ctlOf i.fn).invdone = ((s.pkgD p).ctlOf i.fn).invdone ∧ Instr.invalidateDone p ∈ u.agenda ∧ SameBytes s u))

/-! ## Attraction memory -/

/-- R144 to R146, R410, R411: a request for a page that is there already ends; one that finds the page's frame in transition waits. A
page that no package holds is demand-zeroed where FIRSTTOUCH is set: MASTER-SOLE, every byte 0; otherwise its asker takes a fault. A
read miss that turns fetches the page into a FILLING frame, which becomes a REPLICA once the page has moved. A master that upgrades
invalidates the replicas and is MASTER-SOLE; another requester's frame is UPGRADING and the master YIELDING, until the mark arrives; a
frame that an injection fills waits where the master is in memory-side mode. -/
def Obligations.PageMovement : Prop :=
  ∀ (s : State) (x : Nat) (r : PageReq), s.item? x = some (.page r) →
    let here := if r.mtype = 3 then r.peer else r.pkg
    let st := (s.pkgD here).pageState r.page
    let due : Prop := s.pageReady r.pkg r.mtype r.peer r.page r.write = false ∧ (∃ i, s.item? r.who = some i) ∧ s.alive here = true
    let once : Prop := ∀ q f f', f ∈ pageFrames r.page → f' ∈ pageFrames r.page → ((s.pkgD q).frame f).state ≠ 0 →
      ((s.pkgD q).frame f').state ≠ 0 → ((s.pkgD q).frame f).gpn = r.page → ((s.pkgD q).frame f').gpn = r.page → f = f'
    (r.stage = 0 →
      (s.pageReady r.pkg r.mtype r.peer r.page r.write = true → exec (.climbingMiss x) s = .next (s.dropItem x)) ∧
      (due → st = 4 ∨ st = 5 ∨ st = 6 → exec (.climbingMiss x) s = .next (s.later (.climbingMiss x))) ∧
      (due → st ≠ 0 → st ≠ 4 → st ≠ 5 → st ≠ 6 → ∃ u, exec (.climbingMiss x) s = .next u ∧ SameBytes s u ∧
        u.item? x = some (.page { r with stage := 2 }) ∧ Instr.upgrade x ∈ u.agenda) ∧
      (∀ s1 l, due → st = 0 → s.climb x here r.page 3 0 = (s1, .nothing, l) →
        let s2 := s1.countClimb x here r l
        let touch := s2.effTouch r.pkg r.leaf
        (touch.1 = false → r.force = false → exec (.climbingMiss x) s = .next ((s2.dropItem x).pageFault r.who r.va r.dir)) ∧
        (∀ s3, touch.1 = true ∨ r.force = true → s2.firstTouch x here r.page r.tenant r.leaf r.cmp r.side touch.2 (decide (r.mtype = 3)) = (s3, true) →
          ∃ u, exec (.climbingMiss x) s = .next u ∧ u.item? x = none ∧ (u.pkgD here).pageState r.page = 2 ∧
            ∀ a, a / 65536 = r.page → u.gbyte a = 0)) ∧
      (∀ s1 level child l h s3 f, due → st = 0 → s.climb x here r.page 3 0 = (s1, .turn level child, l) → r.write = false → r.mtype ≠ 3 →
        let s2 := s1.countClimb x here r l
        s2.holderBelow r.pkg r.page level child = some h → s2.busyNode x r.page (pathNodes level [h]) = none →
        s2.takeFrame r.pkg r.page (s2.tagOf ((s2.firstMaster r.page).getD h) r.page).owner r.leaf x 1 = (s3, some f) →
        ∃ u q, exec (.climbingMiss x) s = .next u ∧ ((u.pkgD r.pkg).frame f).state = 4 ∧ ((u.pkgD r.pkg).frame f).gpn = r.page ∧
          u.item? x = some (.page q) ∧ q.stage = 1 ∧ q.frame = f ∧ q.from_ = h ∧ Instr.pageMoveDone x ∈ u.agenda)) ∧
    (r.stage = 1 → ∀ f s2, (s.pkgD r.pkg).frameOf r.page = some f →
      let m := (s.firstMaster r.page).getD r.from_
      let t := s.tagOf m r.page
      let s1 := ((s.copyPoison r.page r.from_ r.pkg).modTag r.pkg r.page (fun t => { t with state := fsReplica })).modTag m r.page
        (fun t => { t with state := if t.state = fsSole then fsShared else t.state })
      s1.relist r.page t.mode t.mirror t.owner = some s2 → ∃ u, exec (.pageMoveDone x) s = .next u ∧ u.item? x = none ∧
        ((u.pkgD r.pkg).frame f).state = 1 ∧ SameBytes s u) ∧
    (r.stage = 2 → once → due → ∀ m, s.firstMaster r.page = some m →
      let hs := s.holdersOf r.page
      (∀ n, s.busyNode x r.page (s.upgradeWay here r.page) = some n → exec (.upgrade x) s = .next (s.waitNode x r.page n (.upgrade x))) ∧
      (s.busyNode x r.page (s.upgradeWay here r.page) = none → (s.tagOf m r.page).state ≠ 6 → (∀ e ∈ s.injs, e.1 ≠ x) →
      (m = here → ∃ u, exec (.upgrade x) s = .next u ∧ u.item? x = none ∧ (u.pkgD here).pageState r.page = 2 ∧
        ∀ q, q ∈ hs → q ≠ here → (u.pkgD q).pageState r.page = 0) ∧
      (m ≠ here → (s.tagOf m r.page).rwr < 32 → (s.tagOf m r.page).mode = 1 → r.mtype ≠ 3 → st = 4 → ∃ u,
        exec (.upgrade x) s = .next u ∧ Instr.upgrade x ∈ u.agenda ∧ (u.pkgD m).pageState r.page = (s.pkgD m).pageState r.page ∧ SameBytes s u) ∧
      (m ≠ here → (s.tagOf m r.page).rwr < 32 → (s.tagOf m r.page).mode ≠ 1 ∨ r.mtype = 3 → (s.pkgD here).frameOf r.page ≠ none → ∃ u q, exec (.upgrade x) s = .next u ∧
        u.item? x = some (.page q) ∧ q.stage = 3 ∧ q.from_ = m ∧ Instr.markArrival x ∈ u.agenda ∧
        (u.pkgD m).pageState r.page = 6 ∧ (u.pkgD here).pageState r.page = 5))) ∧
    (r.stage = 3 → once → r.from_ ≠ here → ∀ s2, (s.pkgD here).frameOf r.page ≠ none →
      let t := s.tagOf r.from_ r.page
      let peer := decide (r.mtype = 3)
      let s1 := ((if r.frame = 1 then s else s.copyPoison r.page r.from_ here).freeCopy r.from_ r.page).modTag here r.page (fun u => { u with
        state := fsSole, owner := t.owner, mirror := t.mirror, mode := bitOf peer, peer := peer })
      s1.relist r.page (bitOf peer) t.mirror t.owner = some s2 →
      ∃ u, exec (.markArrival x) s = .next u ∧ u.item? x = none ∧ (u.pkgD here).pageState r.page = 2 ∧
        (u.tagOf here r.page).owner = t.owner ∧ (u.tagOf here r.page).mirror = t.mirror ∧ (u.pkgD r.from_).pageState r.page = 0)

/-- R140, R152 to R156: an offer of an INJECTING frame takes the next candidate that has a frame for it, which fills; one that may not
accept is passed over; with no candidate
left in the bay the row node offers it, and with no slot in the backing area the tenant's capacity condition is raised. The
confirmation moves the mark and the old frame becomes INVALID. A holder's report lowers EVC, but not from 65,535. At a window end
every count of every frame is 0. -/
def Obligations.InjectionAndWindows : Prop :=
  (∀ (s : State) (x : Nat) (j : Injection), s.item? x = some (.inj j) →
    let owner := ((s.pkgD j.pkg).frame j.frame).owner
    (j.exhausted = false → j.target = none → ((s.pkgD j.pkg).frame j.frame).state = 7 → ((s.pkgD j.pkg).frame j.frame).gpn = j.page →
      j.locked = true → j.readers.find? (s.takesMark j) = none →
      (∀ q rest s2 f, j.level = 0 → j.cands = q :: rest → s.takesMark j q = false → s.mayAccept j q = true → (s.pkgD q).pageState j.page = 0 →
        s.offerFrame q j.page = (s2, some f) → ∃ u v, exec (.injectionOffer x) s = .next u ∧ u.item? x = some (.inj v) ∧
          v.target = some (q, f) ∧ ((u.pkgD q).frame f).state = 4 ∧ ((u.pkgD q).frame f).gpn = j.page ∧ Instr.injectionConfirm x ∈ u.agenda) ∧
      (∀ q rest, j.level = 0 → j.cands = q :: rest → s.mayAccept j q = false → ∃ u, exec (.injectionOffer x) s = .next u ∧ SameBytes s u ∧
        u.item? x = some (.inj { j with cands := rest, refused := j.refused + 1, waitAt := none }) ∧ Instr.injectionOffer x ∈ u.agenda) ∧
      (j.level = 0 → j.cands = [] → ∃ u, exec (.injectionOffer x) s = .next u ∧ SameBytes s u ∧
        u.item? x = some (.inj { j with level := 1, cands := [], locked := false, waitAt := none }) ∧ Instr.injectionOffer x ∈ u.agenda) ∧
      (3 ≤ j.level → (∀ b base n, s.backing j.page owner = some (b, base, n) → s.freeSlot b base n = none) →
        ∃ u, exec (.injectionOffer x) s = .next u ∧ SameBytes s u ∧ owner ∈ (u.pkgD j.pkg).capexh ∧
          u.item? x = some (.inj { j with level := 0, cands := [], locked := false, refused := 0, exhausted := true, waitAt := none }))) ∧
    (∀ q f s2, j.target = some (q, f) → q ≠ j.pkg → (s.pkgD q).frameOf j.page = some f → (s.pkgD j.pkg).frameOf j.page = some j.frame →
      (∀ h, h ∈ pageFrames j.page → ((s.pkgD j.pkg).frame h).state ≠ 0 → ((s.pkgD j.pkg).frame h).gpn = j.page → h = j.frame) →
      (s.copyPoison j.page j.pkg q).moveMark x j.pkg q j.page = some s2 → ∃ u, exec (.injectionConfirm x) s = .next u ∧ u.item? x = none ∧
        ((u.pkgD q).frame f).state = s2.masterState j.page ∧ ((u.pkgD q).frame f).owner = (s.tagOf j.pkg j.page).owner ∧
        (u.pkgD j.pkg).pageState j.page = 0)) ∧
  (∀ (s : State) (p g level : Nat),
    (s.nodeHost g level (prefixAt level p) = none → exec (.holderReport p g level) s = .next s) ∧
    (∀ q, s.nodeHost g level (prefixAt level p) = some q → ∃ u, exec (.holderReport p g level) s = .next u ∧ SameBytes s u ∧
      (u.dirOf q g).entries = (s.dirOf q g).entries ∧
      (u.dirOf q g).evc = if (s.dirOf q g).evc = 65535 then 65535 else (s.dirOf q g).evc - 1)) ∧
  (∀ (s : State) (p : Nat), ∃ u, exec (.windowEnd p) s = .next u ∧ (u.pkgD p).injected = 0 ∧
    ∀ f, f % 16 ≠ 15 → ((s.pkgD p).frame f).state ≠ 0 → let t := (u.pkgD p).frame f
      t.rrd = 0 ∧ t.rwr = 0 ∧ t.ord = 0 ∧ t.owr = 0 ∧ t.lastwr = 0 ∧ t.multiwr = false ∧ t.gpn = ((s.pkgD p).frame f).gpn ∧
      t.state = ((s.pkgD p).frame f).state ∧ t.owner = ((s.pkgD p).frame f).owner)

/-! ## Links and routers -/

/-- R260 to R262, R157, R177: an expected flit with a good CRC is taken and acknowledged, and what a control flit says happens; any other
is discarded and its replay asked for; a
replay resends from the buffer in order, or forces retraining; acknowledgements clear the buffer and credits come back; an audit
repairs missing credits, each counted, and one during a replay is discarded. Training sets the credits; the failure of a port
loses no package. A wake that waits wins over the power-down of its router. -/
def Obligations.LinksAndRouters : Prop :=
  (∀ (s : State) (p n : Nat), s.portUp p n = true → s.pkg? p ≠ none →
    let k := (s.pkgD p).port n
    let sends (u : State) (kind : MsgKind) (body : List Nat) : Prop :=
      k.queue = [] → seqAhead k.txAck k.txNext < 512 → ((u.pkgD p).port n).queue = [] ∧ ((u.pkgD p).port n).txNext = (k.txNext + 1) % 65536 ∧
        ((u.pkgD p).port n).outFlits = k.outFlits ++ [s.msgFlit (controlMsg p kind body) k.txNext]
    (∀ f : Flit, crcPasses f = true → f.seq = k.rxNext → f.reserved = 0 ∧ ∃ u, exec (.flitReceive p n f) s = .next u ∧ SameBytes s u ∧
      ((u.pkgD p).port n).rxNext = (k.rxNext + 1) % 65536 ∧ ((u.pkgD p).port n).inFlits = k.inFlits ++ [f] ∧
      (flitSays f p n = none → sends u .ack ((k.rxNext + 1) % 65536 :: oneCredit f.vc)) ∧
      (∀ i, flitSays f p n = some i → i ∈ u.agenda)) ∧
    (∀ f : Flit, crcPasses f = false ∨ f.seq ≠ k.rxNext → ∃ u, exec (.flitReceive p n f) s = .next u ∧ SameBytes s u ∧
      ((u.pkgD p).port n).rxNext = k.rxNext ∧ ((u.pkgD p).port n).inFlits = k.inFlits ∧ sends u .replay [k.rxNext]) ∧
    (∀ m i, m ≠ k.txNext → k.replay.findIdx? (fun f => decide (f.seq = m)) = some i → ∃ u v, exec (.linkReplayRequest p n m) s = .next u ∧
      (u.pkgD p).port n = v ∧ v.outFlits = k.outFlits ++ k.replay.drop i ∧ v.replaying = true ∧ v.replay = k.replay) ∧
    (∀ m, m ≠ k.txNext → k.replay.findIdx? (fun f => decide (f.seq = m)) = none → ∃ u, exec (.linkReplayRequest p n m) s = .next u ∧
      ((u.pkgD p).port n).trained = false ∧
      SMap.get (u.pkgD p).counters 0 (ctrKey (4, 1) n) = SMap.get (s.pkgD p).counters 0 (ctrKey (4, 1) n) + 1) ∧
    (∀ ack cr, k.queue = [] → ∃ u v, exec (.ackCreditReturn p n ack cr) s = .next u ∧ (u.pkgD p).port n = v ∧
      (∀ i, i < 4 → v.credits.getD i 0 = k.credits.getD i 0 + cr.getD i 0) ∧
      (seqAhead k.txAck ack ≤ seqAhead k.txAck k.txNext → v.txAck = ack % 65536 ∧
        ∀ f ∈ v.replay, seqAhead k.txAck ack ≤ seqAhead k.txAck f.seq)) ∧
    (∀ cr m, k.queue = [m] → m.control = false → m.vc < 4 → m.data ≤ m.sent → k.txAck < 65536 →
      let c := k.credits.getD m.vc 0 + cr.getD m.vc 0
      ∃ u v, exec (.ackCreditReturn p n k.txAck cr) s = .next u ∧ (u.pkgD p).port n = v ∧
        (0 < c → seqAhead k.txAck k.txNext < 512 → v.queue = [] ∧ v.outFlits = k.outFlits ++ [s.msgFlit m k.txNext] ∧
          v.txNext = (k.txNext + 1) % 65536 ∧ s.msgFlit m k.txNext ∈ v.replay ∧ v.credits.getD m.vc 0 = c - 1) ∧
        (c = 0 ∨ 512 ≤ seqAhead k.txAck k.txNext → v.queue = [m] ∧ v.outFlits = k.outFlits ∧ v.txNext = k.txNext)) ∧
    (k.sinceAudit < 4096 → exec (.windowAuditSend p n) s = .next s) ∧
    (4096 ≤ k.sinceAudit → ∃ u, exec (.windowAuditSend p n) s = .next u ∧ SameBytes s u ∧ sends u .audit (k.txAck :: k.rxCredits) ∧
      (k.queue = [] → seqAhead k.txAck k.txNext < 512 → ((u.pkgD p).port n).sinceAudit = k.sinceAudit - 4096 + 1)) ∧
    (∀ a : Audit, k.replaying = true → exec (.windowAuditReceive p n a) s = .next s) ∧
    (∀ a : Audit, k.replaying = false → k.lost = [] → k.queue = [] → ∃ u, exec (.windowAuditReceive p n a) s = .next u ∧
      (∀ i, i < 4 → ((u.pkgD p).port n).credits.getD i 0 = max (k.credits.getD i 0) (a.credits.getD i 0 - k.inFlight i)) ∧
      SMap.get (u.pkgD p).counters 0 (ctrKey (4, 0) n) = SMap.get (s.pkgD p).counters 0 (ctrKey (4, 0) n) +
        BitVec.ofNat 64 ((List.range 4).filter (fun i => decide (k.credits.getD i 0 < a.credits.getD i 0 - k.inFlight i))).length)) ∧
  (∀ (s : State) (p n : Nat), s.pkg? p ≠ none → n < 24 →
    (∀ cr, ∃ u v, exec (.linkTrainingDone p n cr) s = .next u ∧ (u.pkgD p).port n = v ∧ u.portUp p n = true ∧
      (((s.pkgD p).port n).queue = [] → ∀ i, i < 4 → v.credits.getD i 0 = cr.getD i 0)) ∧
    (∃ u, exec (.linkFailure p n) s = .next u ∧ u.portUp p n = false ∧ ∀ q, (u.pkgD q).lost = (s.pkgD q).lost ∧ u.alive q = s.alive q)) ∧
  (∀ (s : State) (p r : Nat), s.pkg? p ≠ none →
    (Instr.routerWake p r ∈ s.agenda → ∃ u, exec (.routerPowerDown p r) s = .next u ∧ (u.pkgD p).routersDown = (s.pkgD p).routersDown ∧
      SMap.get (u.pkgD p).counters 0 (ctrKey (3, 0) (r / 64 % 8)) = SMap.get (s.pkgD p).counters 0 (ctrKey (3, 0) (r / 64 % 8)) + 1) ∧
    (Instr.routerWake p r ∉ s.agenda → Instr.routerWake p r ∉ s.inbox → ∃ u, exec (.routerPowerDown p r) s = .next u ∧
      r ∈ (u.pkgD p).routersDown ∧ SameBytes s u) ∧
    (∃ u, exec (.routerWake p r) s = .next u ∧ r ∉ (u.pkgD p).routersDown ∧ SameBytes s u))

/-! ## The host -/

/-- R44, R48, R49, R70, R91, R157, R158, R254 to R258: a REFRESH caches a tenant block as memory holds it and makes it ACTIVE when it
is valid, DETACHED otherwise, and its fault ring starts again. A DOMAIN RESET leaves no group and no launch of the domain, and its root ACTIVE. A
LOSS takes the package's work away; RELEASE LOST leaves no LOST entry of the page. While BUSY, or with a reserved argument bit, a
command is discarded and sets ERR. The argument registers hold what is written; OP starts the command it names. -/
def Obligations.ControlCommands : Prop :=
  (∀ (s : State) (p fn : Nat), s.barOpen p = true → ((s.pkgD p).ctlOf fn).busy = true →
    ∀ i ∈ [Instr.refresh p fn, .invalidate p fn, .domainReset p fn, .loss p fn, .releaseLost p fn], exec i s = .next (s.ctlErr p fn)) ∧
  (∀ (s : State) (p fn : Nat), s.barOpen p = false →
    ∀ i ∈ [Instr.refresh p fn, .invalidate p fn, .domainReset p fn, .loss p fn, .releaseLost p fn], exec i s = .next s) ∧
  (∀ (s : State) (p fn : Nat), s.Uncached → s.barOpen p = true → p ∈ s.upPkgs → ((s.pkgD p).ctlOf fn).busy = false →
    let a := ((s.pkgD p).ctlOf fn).arg0.toNat
    let err (i : Instr) : Prop := ∃ u, exec i s = .next u ∧ ((u.pkgD p).ctlOf fn).err = true ∧ SameBytes s u ∧ u.groups = s.groups
    (a % 512 ≠ 0 ∨ 2 ^ 56 ≤ a → err (.refresh p fn) ∧ err (.domainReset p fn)) ∧
    (a % 512 = 0 → a < 2 ^ 56 → s.cached? p a = none →
      let b := readBlock s a none
      (s.pkgD p).owns fn b.regid = true → b.level = 0 → b.parent = 0 → b.leaf = true → b.child = 0 → b.sibling = 0 →
      ∃ u c, exec (.refresh p fn) s = .next u ∧ u.block? p a = some c ∧ c = { b with state := if b.valid = true then 1 else 0 } ∧
        SMap.get (u.pkgD p).fqs FQ.init b.regid = { FQ.init with base := b.fqbase, ent := b.fqent } ∧
        Instr.groupHandOut p ∈ u.agenda ∧ Instr.dependenceRecheck p ∈ u.agenda) ∧
    (∀ b, a % 512 = 0 → a < 2 ^ 56 → s.block? p a = some b → (s.pkgD p).owns fn (s.tenantId p a) = true →
      (s.domainRoot p a ≠ a ∨ b.state = 0 → err (.domainReset p fn)) ∧
      (s.domainRoot p a = a → b.state ≠ 0 → ∃ u c, exec (.domainReset p fn) s = .next u ∧ u.block? p a = some c ∧ c.state = 1 ∧
        (∀ n g, u.group? n = some g → s.domainRoot g.pkg g.leaf ≠ a) ∧
        (∀ n l, u.launch? p n = some l → s.domainRoot p l.leaf ≠ a))) ∧
    (fn ≠ 0 ∨ 4096 ≤ a ∨ a = p → err (.loss p fn)) ∧
    (fn = 0 → a < 4096 → a ≠ p → s.alive a = true → ∃ u, exec (.loss p fn) s = .next u ∧ (u.pkgD a).lost = true ∧
      (u.pkgD a).frames = [] ∧ ∀ n g, u.group? n = some g → g.pkg ≠ a) ∧
    (fn ≠ 0 ∨ 2 ^ 40 ≤ a → err (.releaseLost p fn)) ∧
    (fn = 0 → a < 2 ^ 40 → ∃ u, exec (.releaseLost p fn) s = .next u ∧ SameBytes s u ∧
      ∀ q e, some e ∈ (u.dirOf q a).entries → e.gpn = a → e.dstate ≠ 5)) ∧
  (∀ (s : State) (p fn : Nat) (v : DWord), fn ≤ 64 → (s.pkgD p).hostQ = [] →
    (s.barOpen p = false → ∀ off size, off < 0x20000 → exec (.registerWrite p fn 0 off size v) s = .next s) ∧
    (s.barOpen p = true →
      let holds (off : Nat) (R : Ctl → Prop) : Prop := ∃ u, exec (.registerWrite p fn 0 off 8 v) s = .next u ∧ R ((u.pkgD p).ctlOf fn) ∧ SameBytes s u
      holds 0x08 (fun c => c.arg0 = v) ∧ holds 0x10 (fun c => c.arg1 = v) ∧ holds 0x30 (fun c => c.winbase = v &&& 0x00FFFFFF00000000) ∧
      holds 0x40 (fun c => c.vecs = v &&& 0x07FF07FF) ∧ (fn = 0 → holds 0x48 (fun c => c.fqregid = v.toNat % 65536)) ∧
      (v.getLsbD 62 = true → holds 0x18 (fun c => c.err = false)) ∧
      (v.toNat % 256 = 1 → exec (.registerWrite p fn 0 0 8 v) s = exec (.refresh p fn) s) ∧
      (v.toNat % 256 = 2 → exec (.registerWrite p fn 0 0 8 v) s = exec (.invalidate p fn) s) ∧
      (v.toNat % 256 = 3 → exec (.registerWrite p fn 0 0 8 v) s = exec (.domainReset p fn) s) ∧
      (v.toNat % 256 = 4 → exec (.registerWrite p fn 0 0 8 v) s = exec (.loss p fn) s) ∧
      (v.toNat % 256 = 5 → exec (.registerWrite p fn 0 0 8 v) s = exec (.releaseLost p fn) s)))

/-- R51, R254, R257, R259, R268, R273: a doorbell writes TAIL of the queue it names, and the queue is looked at; a malformed one is
counted and a device-fed queue discards it; behind an access that waits for its page, of whatever function, it waits too. A window read of a page of the function's answers its bytes, a window write stores them, but for reserved fields of the part's records (R4);
where no package holds the page, the physical function reads all ones. Outside READY every read is all ones. A latched snapshot that fits is appended at TSWR, which advances by its
length; one that does not is skipped and counted. A write to TRRD is taken only within the written part of the ring. -/
def Obligations.HostAccess : Prop :=
  (∀ (s : State) (p fn off : Nat) (v : DWord), (s.pkgD p).hostQ ≠ [] → exec (.queueTailDoorbell p fn off 8 v) s =
    .next (s.modPkg p (fun q => { q with hostQ := q.hostQ ++ [(fn, .doorbell off 8 v)] }))) ∧
  (∀ (s : State) (p fn off : Nat) (v : DWord), s.Uncached → s.barOpen p = true → (s.pkgD p).hostQ = [] →
    let q := v.toNat / 2 ^ 16 % 16
    (off % 8 ≠ 0 ∨ v.toNat / 2 ^ 20 % 2 ^ 28 ≠ 0 ∨ s.leafOf p (v.toNat / 2 ^ 48) = none → exec (.queueTailDoorbell p fn off 8 v) s = .next (s.tally p 34)) ∧
    (∀ a, off % 8 = 0 → v.toNat / 2 ^ 20 % 2 ^ 28 = 0 → s.leafOf p (v.toNat / 2 ^ 48) = some a →
      let tenant := if (s.block? p a).isSome = true then s.tenantId p a else s.tenantInMem 8 a
      ((s.pkgD p).owns fn tenant = false → exec (.queueTailDoorbell p fn off 8 v) s = .next (s.refuseHost p fn)) ∧
      ((s.pkgD p).owns fn tenant = true →
        ((s.readQueue p a q).2.devfed = true → SameBytes s (s.readQueue p a q).1 ∧
          exec (.queueTailDoorbell p fn off 8 v) s = .next ((s.readQueue p a q).1.tally p 35)) ∧
        ((s.readQueue p a q).2.devfed = false → ∃ u, exec (.queueTailDoorbell p fn off 8 v) s = .next u ∧
          (u.readQueue p a q).2.tail = v.toNat % 2 ^ 16 ∧ a * 16 + q ∈ (u.pkgD p).served ∧ Instr.recordTake p a q ∈ u.agenda)))) ∧
  (∀ (s : State) (p fn off size : Nat) (v : DWord), s.Uncached → fn ≤ 64 → 1 ≤ size → size ≤ 8 → off + size ≤ 2 ^ 32 →
    (s.pkgD p).hostQ = [] → (s.pkgD p).hostSeen = [] →
    let ga := s.windowAddr p fn off
    let ones : Signal := .read fn (BitVec.ofNat 64 (2 ^ (8 * size) - 1))
    (s.barOpen p = false → exec (.windowRead p fn off size) s = .next (s.signal p ones) ∧ exec (.windowWrite p fn off size v) s = .next s) ∧
    (s.barOpen p = true → (ga + size - 1) / 65536 = ga / 65536 →
      (∀ m, s.masterOf (ga / 65536) = some m → fn = 0 ∨ (s.pkgD p).boundTenant fn = some (s.tagOf m (ga / 65536)).owner →
        (∃ u, exec (.windowRead p fn off size) s = .next u ∧ SameBytes s u ∧
          (u.pkgD p).signals = (s.pkgD p).signals ++ [.read fn (BitVec.ofNat 64 (s.gnat ga size))]) ∧
        (s.trrdBuffer ga size = none → ∃ u, exec (.windowWrite p fn off size v) s = .next u ∧ u.gbytes ga size = s.storable ga (leBytes size v.toNat) ∧
          (∀ i, i < size → u.tagAt (ga + i) = false) ∧ ∀ a, a < ga ∨ ga + size ≤ a → u.gbyte a = s.gbyte a)) ∧
      (s.masterOf (ga / 65536) = none → fn = 0 → exec (.windowRead p fn off size) s = .next ((s.tally p 31).signal p ones) ∧
        exec (.windowWrite p fn off size v) s = .next (s.tally p 31)))) ∧
  (∀ (s : State) (p : Nat), s.barOpen p = true →
    let r := (s.pkgD p).series
    let space := if r.wr = r.rd then r.size else (r.rd + r.size - r.wr) % r.size
    (r.latches = [] → exec (.timeseriesTick p) s = .next s) ∧
    (∀ l rest, r.latches = l :: rest → let n := l.bytes.length
      ∃ u, exec (.timeseriesTick p) s = .next u ∧ (u.pkgD p).series.latches = rest ∧
      (space ≤ n ∨ r.size ≤ r.wr → (u.pkgD p).series.wr = r.wr ∧ SameBytes s u ∧
        SMap.get (u.pkgD p).counters 0 (ctrKey (5, 36) 0) = SMap.get (s.pkgD p).counters 0 (ctrKey (5, 36) 0) + 1) ∧
      (n < space → r.wr < r.size → (u.pkgD p).series.wr = (r.wr + n) % r.size ∧
        (s.Uncached → r.wr + n ≤ r.size → u.gbytes (r.base + r.wr) n = l.bytes))) ∧
    (∀ v : DWord, let k := v.toNat % 32
      (k = 0 ∨ (10 ≤ k ∧ k ≤ 24) → ∃ u, exec (.tskWrite p 0 v) s = .next u ∧
        (u.pkgD p).series = { r with k := k, banks := v.toNat / 256 % 64, seq := 0 } ∧ SameBytes s u) ∧
      ((1 ≤ k ∧ k ≤ 9) ∨ 25 ≤ k → ∃ u, exec (.tskWrite p 0 v) s = .next u ∧ (u.pkgD p).series = r ∧ ((u.pkgD p).mboxOf 0).dstat = 2))) ∧
  (∀ (s : State) (p blk base n : Nat) (v : Word), s.Uncached → s.effTrace p blk = (base, n) → 3 ≤ n →
    let wb : Int := s.gnat (base + 12) 4
    let rd : Int := s.gnat (base + 16) 4
    let m : Int := n - 1
    let good : Prop := 1 ≤ v.toNat ∧ v.toNat < n ∧ ((v.toNat : Int) - rd) % m ≤ (wb - rd) % m
    (good → ∃ u, exec (.trrdWrite p blk v) s = .next u ∧ u.gnat (base + 16) 4 = v.toNat ∧
      ∀ a, a < base + 16 ∨ base + 20 ≤ a → u.gbyte a = s.gbyte a) ∧
    (¬ good → ∃ u, exec (.trrdWrite p blk v) s = .next u ∧ SameBytes s u))

/-! ## Debug -/

/-- R274 to R285, R288, R413: outside READY a command ends with DSTAT 2, while BUSY with DSTAT 4; one whose target is missing ends with DSTAT 2,
one without its permission with DSTAT 1. HALT asks for a stop; GROUP_STOP reports it once every thread stands at a boundary: STOPPED,
STOPCAUSE, no longer BUSY. HALT REGION holds the region until RESUME, where the leaf of every group of it grants it. RESUME and DETACH let a halted group issue again; STEP lets one
thread of it issue. The management controller's mailbox takes HALT, READ CONTEXT, DUMP and DUMP PAGE only. READ CONTEXT and DUMP write its contexts at DMBASE, WRITE CONTEXT takes them back. -/
def Obligations.DebugCommands : Prop :=
  ∀ (s : State) (p fn : Nat), s.pkg? p ≠ none → (s.pkgD p).lost = false →
    let m := (s.pkgD p).mboxOf fn
    let ends (i : Instr) (v : Nat) : Prop := ∃ u, exec i s = .next u ∧ ((u.pkgD p).mboxOf fn).dstat = v ∧ u.groups = s.groups ∧ SameBytes s u
    let all := [Instr.debugHalt p fn, .haltRegion p fn, .resume p fn, .step p fn, .readContext p fn, .writeContext p fn, .dumpPage p fn,
      .attach p fn, .detach p fn]
    let able (i : Instr) : Prop := fn ≠ mctpFn ∨ i ∈ [Instr.debugHalt p fn, .readContext p fn, .dumpPage p fn]
    ((s.pkgD p).boot.phase ≠ 3 → ∀ i ∈ all, ends i 2) ∧
    (∀ i ∈ all, ¬ able i → ends i 2) ∧
    ((s.pkgD p).boot.phase = 3 → m.busy = true → ∀ i ∈ all, able i → ends i 4) ∧
    ((s.pkgD p).boot.phase = 3 → m.busy = false →
      let own := [(Instr.debugHalt p fn, 0), (.step p fn, 1), (.readContext p fn, 4), (.writeContext p fn, 5)]
      (s.target p m = none → ∀ i ∈ own, able i.1 → ends i.1 2) ∧
      (fn ≠ mctpFn → s.regBlock p m.regid = none → ends (.haltRegion p fn) 2 ∧ (m.att = false → ends (.attach p fn) 2) ∧
        (s.target p m = none → ends (.resume p fn) 2)) ∧
      (fn ≠ mctpFn → m.att = true → ends (.attach p fn) 4) ∧
      (∀ a b, fn ≠ mctpFn → s.regBlock p m.regid = some (a, b) → (s.pkgD p).owns fn (s.tenantId p a) = true →
        ((s.effDbg p a).getLsbD 0 = false → ends (.haltRegion p fn) 1 ∧ (m.att = false → ends (.attach p fn) 1)) ∧
        (∀ e ∈ s.resident p, (s.effDbg p a).getLsbD 0 = true → s.inSubtree p e.2.leaf a = true → e.2.phase ≠ .draining →
          (s.effDbg p e.2.leaf).getLsbD 0 = false → ends (.haltRegion p fn) 1) ∧
        (let granted : Prop := ∀ e ∈ s.groups, e.2.pkg = p → s.inSubtree p e.2.leaf a = true → (s.effDbg p e.2.leaf).getLsbD 0 = true
         (s.effDbg p a).getLsbD 0 = true →
          (m.att = false → ∃ u v, exec (.attach p fn) s = .next u ∧ (u.pkgD p).mboxOf fn = v ∧ v.att = true ∧ v.attReg = m.regid ∧ v.dstat = 0 ∧
            u.groups = s.groups ∧ SameBytes s u) ∧
          (granted → s.block? p a = some b → ∃ u c, exec (.haltRegion p fn) s = .next u ∧ u.block? p a = some c ∧ c.held = true ∧
            a ∈ ((u.pkgD p).mboxOf fn).holds) ∧
          (granted → s.block? p a = some b → b.held = true → ∃ u c, exec (.resume p fn) s = .next u ∧ u.block? p a = some c ∧ c.held = false ∧
            ((u.pkgD p).mboxOf fn).dstat = 0 ∧ Instr.groupHandOut p ∈ u.agenda))) ∧
      (∀ n g, s.target p m = some (n, g) → s.group? n = some g → (s.pkgD p).owns fn g.tenant = true →
        (∀ i ∈ own, able i.1 → (s.effDbg p g.leaf).getLsbD i.2 = false → ends i.1 1) ∧
        (∀ i ∈ own, able i.1 → i.2 ≠ 1 → (s.effDbg p g.leaf).getLsbD i.2 = true → g.phase = .draining → ends i.1 3) ∧
        (fn ≠ mctpFn → (s.effDbg p g.leaf).getLsbD 1 = true → g.stepT = none → g.stopped = false → ends (.step p fn) 5) ∧
        ((s.effDbg p g.leaf).getLsbD 0 = true → g.phase = .running → g.frozen = false → g.stopped = false → g.stepT = none → g.stop = none →
          ∃ u g', exec (.debugHalt p fn) s = .next u ∧ u.group? n = some g' ∧ Instr.groupStop n ∈ u.agenda ∧
            ((u.pkgD p).mboxOf fn).busy = true ∧
            g'.stop = some { cause := 1, hits := [], named := m.tidx, fn := some fn, asked := [fn] } ∧ g'.threads = g.threads) ∧
        (fn ≠ mctpFn → (s.effDbg p g.leaf).getLsbD 0 = true → g.phase = .running → g.frozen = false → g.stopped = true →
          (∀ a b, s.regBlock p m.regid = some (a, b) → b.held = false) → ∃ u g', exec (.resume p fn) s = .next u ∧ u.group? n = some g' ∧
            g'.stop = none ∧ g'.stopped = false ∧ g'.issues = true ∧ ((u.pkgD p).mboxOf fn).dstat = 0) ∧
        (∀ t, fn ≠ mctpFn → (s.effDbg p g.leaf).getLsbD 1 = true → g.phase = .running → g.frozen = false → g.stopped = true → g.stepT = none →
          g.threads[m.tidx]? = some t → t.exited = false → t.park = none → t.wait = .none → t.log = [] → t.pend = [] →
          ∃ u g', exec (.step p fn) s = .next u ∧ u.group? n = some g' ∧ g'.stepT = some m.tidx ∧ g'.lets m.tidx = true ∧
            (∀ j, j ≠ m.tidx → g'.lets j = false) ∧ g'.threads[m.tidx]? = some { t with skipBp := true } ∧
            ((u.pkgD p).mboxOf fn).busy = true) ∧
        (let s1 := s.modMbox p fn (fun m => { m with dop := 5, dstat := 0 })
         let bs := s1.groupItems n g
         (s.effDbg p g.leaf).getLsbD 4 = true → g.phase = .running → g.stopped = true → s.Uncached → s.dumpAllowed p fn bs.length m = true →
          (bs.length ≤ m.dmblocks * 4096 → ∃ u, exec (.readContext p fn) s = .next u ∧ u.gbytes m.dmbase bs.length = bs ∧
            ((u.pkgD p).mboxOf fn).dstat = 0 ∧ u.groups = s.groups) ∧
          (m.dmblocks * 4096 < bs.length → ends (.readContext p fn) 6)) ∧
        (∀ h, fn ≠ mctpFn → (s.effDbg p g.leaf).getLsbD 5 = true → g.phase = .running → g.stopped = true → g.frozen = false → s.Uncached → g.shares = [h] →
          g.itemBytes ≤ m.dmblocks * 4096 → s.dumpAllowed p fn g.itemBytes m = true →
          let bs := ((s.gbytes m.dmbase g.itemBytes).drop 64).take (g.lr.contextBytes h.crews)
          let new := g.takeContext 0 bs
          new.modesOk = true → s.contextAgrees n 0 g new bs = true →
          ∃ u, exec (.writeContext p fn) s = .next u ∧ u.group? n = some new ∧ ((u.pkgD p).mboxOf fn).dstat = 0 ∧ u.gmem = s.gmem) ∧
        (let s1 := s.modMbox p fn (fun m => { m with dop := 7, dstat := 0 })
         let s2 := s1.modMbox p fn (fun m => { m with busy := true, dumping := [n] })
         let bs := s2.groupItems n g
         m.whole = false → fn < 1000 → (s.effDbg p g.leaf).getLsbD 6 = true → g.phase = .running → g.stopped = true → g.stop ≠ none →
          g.stop.bind (·.fn) ≠ some (fn + contFn) → s.Uncached → bs.length = g.itemBytes → bs.length ≤ m.dmblocks * 4096 → s.dumpAllowed p fn bs.length m = true →
          ∃ u, exec (.dump p fn) s = .next u ∧ u.gbytes m.dmbase bs.length = bs ∧ ((u.pkgD p).mboxOf fn).dstat = 0)) ∧
      (fn ≠ mctpFn → ∃ u v, exec (.detach p fn) s = .next u ∧ (u.pkgD p).mboxOf fn = v ∧ v.att = false ∧ v.dstat = 0 ∧
        (∀ i, (SMap.get v.bp 0 (2 * i)).getLsbD 63 = false) ∧ (∀ i, (SMap.get v.wp 0 (4 * i)).getLsbD 63 = false)) ∧
      (fn = 0 ∨ fn = mctpFn → s.pageOwner m.gpn = none → s.Uncached → 4176 ≤ m.dmblocks * 4096 → s.dumpAllowed p fn 4176 m = true →
        ∃ u, exec (.dumpPage p fn) s = .next u ∧ ((u.pkgD p).mboxOf fn).dstat = 0 ∧
          u.gbytes m.dmbase 64 = dumpHeader 2 4112 (s.now p) (m.gpn % 2 ^ 40) ∧
          u.gbytes (m.dmbase + 64) 16 = match (s.pkgD p).frameOf m.gpn with | some _ => (s.tagOf p m.gpn).bytes | none => leBytes 16 0))

/-- R278, R279, R281, R413, R414: a group whose threads all stand at an instruction boundary stops: the mailbox that halted it, which shows
no other stop, reports it with its cause, named thread and NPC, and the command that asked is no longer BUSY. A STEP whose wait has ended is reported. -/
def Obligations.StopsReported : Prop :=
  (∀ (s : State) (n fn : Nat) (g : Machine.Group) (st : Stop) (t : Thread), s.group? n = some g → g.stop = some st → st.fn = some fn → fn < 1000 →
    g.phase = .running → g.stopped = false → g.stepT = none → (∀ h ∈ g.shares, (s.coreOf g.pkg h.core).open_ = false) → s.pkg? g.pkg ≠ none →
    ((s.pkgD g.pkg).mboxOf fn).shown = none → st.hits = [] → (s.effDbg g.pkg g.leaf).getLsbD 7 = false →
    g.threads[st.named]? = some t → t.exited = false →
    ∃ u g' v, exec (.groupStop n) s = .next u ∧ u.group? n = some g' ∧ g'.stopped = true ∧ g'.threads = g.threads ∧ SameBytes s u ∧
      (u.pkgD g.pkg).mboxOf fn = v ∧ v.stopped = true ∧ v.stopcause = st.cause ∧ v.ntidx = st.named ∧ v.npc = t.shownPc ∧
      v.trapc = t.trapc ∧ v.trapdepth = t.depth ∧
      (st.asked = [] → v.busy = ((s.pkgD g.pkg).mboxOf fn).busy) ∧
      (st.asked = [fn] → ((s.pkgD g.pkg).mboxOf fn).dop ≠ 2 → v.busy = false) ∧ v.shown = some n ∧ v.launchid = g.lr.launchid ∧ v.gidx = g.gidx) ∧
  (∀ (s : State) (p fn n : Nat) (g : Machine.Group) (st : Stop), s.groups = [(n, g)] → g.pkg = p → g.stepWait = true → g.stepT = none →
    g.stop = some st → fn ∈ st.asked → s.pkg? p ≠ none → ∃ u g', exec (.stepWaitEnd p fn) s = .next u ∧ u.group? n = some g' ∧
      g'.stepWait = false ∧ ((u.pkgD p).mboxOf fn).waiting = false ∧ Instr.groupStop n ∈ u.agenda ∧ SameBytes s u) ∧
  (∀ (s : State) (p fn i w : Nat) (v : DWord), (s.pkgD p).ready = true → s.pkg? p ≠ none →
    let m := (s.pkgD p).mboxOf fn
    (i < 64 → w < 2 →
      let mask : DWord := if w = 0 then 0xE0FFFFFFFFFFFFFC else 0xFFFF0000FFFFFFFF
      let fits := s.slotFits p true ((SMap.get m.bp 0 (2 * i + 1)).toNat / 2 ^ 48)
      let en := w = 0 ∧ v.getLsbD 63 = true ∧ (SMap.get m.bp 0 (2 * i)).getLsbD 63 = false
      (¬ en ∨ fits = true → ∃ u k, exec (.breakpointSlotWrite p fn i w v) s = .next u ∧ (u.pkgD p).mboxOf fn = k ∧
        k.bp = SMap.set m.bp 0 (2 * i + w) (v &&& mask) ∧ k.wp = m.wp ∧ SameBytes s u) ∧
      (en → fits = false → ∃ u k, exec (.breakpointSlotWrite p fn i w v) s = .next u ∧ (u.pkgD p).mboxOf fn = k ∧ k.bp = m.bp ∧ k.dstat = 2)) ∧
    (i < 32 → w < 4 →
      let mask : DWord := if w = 0 then 0xF8FFFFFFFFFFFFFF else if w = 1 then 0xFFFFFFFF else if w = 2 then 0xFFFF000000000000 else 0
      let fits := s.slotFits p false ((SMap.get m.wp 0 (4 * i + 2)).toNat / 2 ^ 48)
      let en := w = 0 ∧ v.getLsbD 63 = true ∧ (SMap.get m.wp 0 (4 * i)).getLsbD 63 = false
      (¬ en ∨ fits = true → ∃ u k, exec (.watchpointSlotWrite p fn i w v) s = .next u ∧ (u.pkgD p).mboxOf fn = k ∧
        k.wp = SMap.set m.wp 0 (4 * i + w) (v &&& mask) ∧ k.bp = m.bp ∧ SameBytes s u) ∧
      (en → fits = false → ∃ u k, exec (.watchpointSlotWrite p fn i w v) s = .next u ∧ (u.pkgD p).mboxOf fn = k ∧ k.wp = m.wp ∧ k.dstat = 2)))

/-! ## Boot, integrity, power -/

/-- R286 to R290: power good begins phase IMAGE; IMAGE, REPAIR and SELFTEST lead to the next phase, or to SAFE with the failure, and a
passed self-test to READY. IMAGE takes the verifying slot with the higher IMGVER, slot 0 on a tie, and its digest; REPAIR the image's
repair and trim values. Power loss takes the package's whole state, but for its loss, which the
others know (log entry 46). An attestation request is signed and answered with its nonce, 2,788 bytes, over MCTP or in ATTRESP. -/
def Obligations.BootPhases : Prop :=
  ∀ (s : State) (p : Nat),
    let b := (s.pkgD p).boot
    let boots (i : Instr) (R : Boot → Prop) : Prop := ∃ u, exec i s = .next u ∧ R (u.pkgD p).boot ∧ SameBytes s u
    (p < 4096 → b.powered = false → boots (.powerGood p) (fun c => c.powered = true ∧ c.phase = 0 ∧ c.failcode = 0 ∧ c.thrlvl = 0)) ∧
    (s.inPhase p 0 = true → ∀ v0 v1 d0 d1,
      boots (.imagePhaseEnd p false false v0 v1 d0 d1) (fun c => c.phase = 4 ∧ c.failcode = 1 ∧ c.imgok = false ∧ c.imgver = 0 ∧ c.digest = sha3 d0) ∧
      boots (.imagePhaseEnd p true false v0 v1 d0 d1) (fun c => c.phase = 1 ∧ c.imgok = true ∧ c.imgver = v0 ∧ c.digest = sha3 d0) ∧
      boots (.imagePhaseEnd p false true v0 v1 d0 d1) (fun c => c.phase = 1 ∧ c.imgok = true ∧ c.imgver = v1 ∧ c.digest = sha3 d1) ∧
      boots (.imagePhaseEnd p true true v0 v1 d0 d1) (fun c => c.phase = 1 ∧ c.imgver = (if v0.toNat < v1.toNat then v1 else v0) ∧
        c.digest = sha3 (if v0.toNat < v1.toNat then d1 else d0))) ∧
    (s.inPhase p 1 = true → ∀ ids rep trim (f : UnitFail),
      boots (.repairPhaseEnd p none ⟨ids, rep, trim⟩) (fun c => c.phase = 2 ∧ c.ids = ids.take 8 ∧ c.repair = rep ∧ c.trim = trim) ∧
      (f.inPart = true → boots (.repairPhaseEnd p (some f) ⟨ids, rep, trim⟩) (fun c => c.phase = 4 ∧ c.failcode = 2 ∧ c.failkind = f.kind ∧ c.failunit = f.unit))) ∧
    (s.inPhase p 2 = true → ∀ (f : UnitFail) fs,
      boots (.selftestEnd p []) (fun c => c.phase = 3 ∧ c.failcode = b.failcode) ∧
      ((f :: fs).all UnitFail.ofSelftest = true →
        boots (.selftestEnd p (f :: fs)) (fun c => c.phase = 4 ∧ c.failcode = f.code ∧ c.failkind = f.kind ∧ c.failunit = f.unit))) ∧
    (b.powered = true → ∃ u, exec (.powerLoss p) s = .next u ∧ u.pkgD p = { Pkg.init with lost := (s.pkgD p).lost } ∧
      (∀ n g, u.group? n = some g → g.pkg ≠ p) ∧ u.hmem = s.hmem ∧
      ((∀ q k, (q, k) ∈ s.pkgs → q = p ∨ k.boot.powered = false) → s.pkgs.length = 1 → u.gmem = [])) ∧
    (b.powered = true → ∀ mctp nonce, ∃ u, exec (.attestationRequest p mctp nonce) s = .next u ∧ SameBytes s u ∧
      (u.pkgD p).boot.attQ = b.attQ ++ [(mctp, 0, nonce)] ∧ (b.phase ≠ 0 → Instr.attestationSigned p ∈ u.agenda) ∧
      (mctp = false → ((u.pkgD p).mboxOf 0).nonce = nonce ∧ ((u.pkgD p).mboxOf 0).attstat = 1)) ∧
    (∀ mctp fn nonce rest, b.phase ≠ 0 → b.attQ = (mctp, fn, nonce) :: rest → ∃ u, exec (.attestationSigned p) s = .next u ∧ SameBytes s u ∧
      (u.pkgD p).boot.attQ = rest ∧ (b.response nonce).length = 2788 ∧ leNat ((b.response nonce).take 32) = nonce.toNat ∧
      (mctp = true → (u.pkgD p).signals = (s.pkgD p).signals ++ [.mctp (b.response nonce)] ∧
        ((u.pkgD p).mboxOf fn).attresp = ((s.pkgD p).mboxOf fn).attresp) ∧
      (mctp = false → ((u.pkgD p).mboxOf fn).attresp = b.response nonce ∧
        (rest = [] → ((s.pkgD p).mboxOf fn).nonce = nonce → ((u.pkgD p).mboxOf fn).attstat = 2)))

/-- R264, R292, R293: a throttle check, once in a period of 10 µs, raises the level by 1, to at most 15, when the power exceeds 3,600 W or a sensor reads above 105 °C, and
100 µs at or below the lower limits take 1 off. In holdover no PTP correction is taken, and the timebase never steps
backward. An uncorrectable soft error, of more than one symbol, poisons the package's copy of its line, a correctable one changes nothing, and one in data that a thread consumes
freezes its group; a scrub poisons a line with a code of 4 to 7. -/
def Obligations.PowerTimeAndErrors : Prop :=
  (∀ (s : State) (p power temp : Nat), s.pkg? p ≠ none →
    let b := (s.pkgD p).boot
    let due : Prop := b.raisedAt / 10000 < (s.pkgD p).cyc / 10000
    (due → 3600 < power ∨ 105 < temp → ∃ u, exec (.throttleRaise p power temp) s = .next u ∧ (u.pkgD p).boot.thrlvl = min 15 (b.thrlvl + 1) ∧ SameBytes s u) ∧
    (¬ due ∨ (power ≤ 3600 ∧ temp ≤ 105) → ∃ u, exec (.throttleRaise p power temp) s = .next u ∧ (u.pkgD p).boot.thrlvl = b.thrlvl ∧ SameBytes s u) ∧
    (power ≤ 3400 → temp ≤ 100 → ∀ t, b.lowSince = some t →
      (t + 100000 ≤ (s.pkgD p).cyc → ∃ u, exec (.throttleLower p power temp) s = .next u ∧ (u.pkgD p).boot.thrlvl = b.thrlvl - 1 ∧ SameBytes s u) ∧
      ((s.pkgD p).cyc < t + 100000 → ∃ u, exec (.throttleLower p power temp) s = .next u ∧ (u.pkgD p).boot.thrlvl = b.thrlvl ∧ SameBytes s u)) ∧
    (3400 < power ∨ 100 < temp → ∃ u, exec (.throttleLower p power temp) s = .next u ∧ (u.pkgD p).boot.thrlvl = b.thrlvl ∧
      (u.pkgD p).boot.lowSince = none)) ∧
  (∀ (s : State) (p : Nat) (x : Int), s.pkg? p ≠ none → (s.pkgD p).boot.powered = true →
    ((s.pkgD p).holdover = false → (∃ u, exec (.holdoverEnter p) s = .next u ∧ (u.pkgD p).holdover = true ∧ (u.pkgD p).slew = 0) ∧
      (∃ u, exec (.ptpMessage p x) s = .next u ∧ (u.pkgD p).slew = x ∧ (u.pkgD p).timebase = (s.pkgD p).timebase ∧ SameBytes s u)) ∧
    ((s.pkgD p).holdover = true → (∃ u, exec (.holdoverLeave p) s = .next u ∧ (u.pkgD p).holdover = false) ∧ exec (.ptpMessage p x) s = .next s)) ∧
  (∀ (q : Pkg) (n : Nat), q.boot.powered = true → q.lost = false → q.frac < 256 → q.timebase + 2 * n + 2 < 2 ^ 64 →
    q.timebase ≤ (q.advance n).timebase ∧ (q.slew = 0 → (q.advance n).timebase = q.timebase + n ∧ (q.advance n).frac = q.frac)) ∧
  (∀ (s : State) (p n : Nat),
    (∀ j, j ≤ 1 → exec (.softError p (.line n j)) s = .next s) ∧
    (∀ j, 2 ≤ j → (s.pkgD p).pageState (n / 512) ≠ 0 → ∃ u, exec (.softError p (.line n j)) s = .next u ∧
      p ∈ (u.lineMeta (128 * n)).poison ∧ (u.lineMeta (128 * n)).tag = (s.lineMeta (128 * n)).tag ∧
      SameBytes s u) ∧
    (∀ (k : TKey) (g : Machine.Group) (t : Thread), s.group? k.uid = some g → g.threads[k.tidx]? = some t → t.exited = false →
      ∃ u g', exec (.softError p (.held k.uid k.tidx)) s = .next u ∧ u.group? k.uid = some g' ∧ g'.frozen = true) ∧
    ((s.pkgD p).pageState (n / 512) ≠ 0 → 4 ≤ (s.lineMeta (128 * n)).cmp → ∃ u, exec (.scrub p n) s = .next u ∧
      p ∈ (u.lineMeta (128 * n)).poison ∧ SameBytes s u) ∧
    ((s.pkgD p).pageState (n / 512) = 0 ∨ (s.lineMeta (128 * n)).cmp < 4 → exec (.scrub p n) s = .next s))

/-! ## Reset and the canonical form -/

/-- R11, R54, R126, R141, R286: after reset one package stands in the pod, its power not good; no group, no work, nothing in flight; every
byte reads 0, as in a page that is demand-zeroed. A thread starts at ENTRY with PRIO 4, p0 = 0xFF, every register 0 and every handle EMPTY; a share with k0 = ARGS,
k1 = LAUNCHID and every other uniform register 0. (One package at reset, and the zero start values that no rule gives, are
the model's choice: log entries 3 and 40.) -/
def Obligations.ResetAndStart : Prop :=
  (State.reset.MemWf ∧ State.reset.groups = [] ∧ State.reset.items = [] ∧ State.reset.agenda = [] ∧ State.reset.cur = none ∧
    State.reset.pkgs = [(0, Pkg.init)] ∧ (State.reset.pkgD 0).boot.powered = false ∧ State.reset.barOpen 0 = false ∧
    (∀ a, State.reset.gbyte a = 0) ∧ (∀ a, State.reset.lineMeta a = LineMeta.init)) ∧
  (∀ (e : Nat) (q : Place) (r : Nat), let t := Thread.start e q r
    t.pc = BitVec.ofNat 64 e ∧ t.prio = 4 ∧ t.rdP 0 = 0xFF ∧ t.active = true ∧ (∀ n, n ≠ 0 → t.rdP n = 0) ∧ (∀ i, t.rd i = 0 ∧ t.tag i = false) ∧
    (∀ n, t.rdH n = 0) ∧ t.depth = 0 ∧ t.wbase = 0 ∧ t.log = [] ∧ t.outst = [] ∧ t.rs = [] ∧ t.rep = none ∧ t.wait = .none ∧ t.exited = false) ∧
  (∀ r : LaunchRec, SMap.get (startK r) 0 0 = r.args ∧ SMap.get (startK r) 0 1 = BitVec.ofNat 64 r.launchid ∧
    ∀ n, 2 ≤ n → SMap.get (startK r) 0 n = 0)

/-- R116, R125, R126: global memory, host memory and line metadata keep the canonical form in which the model holds them (addresses
strictly rising, no entry equal to what an unlisted one reads as): every step of every state that has it leaves it. -/
def Obligations.EveryStepKeepsMemory : Prop := ∀ s u : State, s.MemWf → step s = .next u → u.MemWf
end

