-- ==== Sys2Proof/Laws/Maps.lean ====
section
/-! SUPPORT. Laws of the sparse maps: read after write, the canonical form and every operation that keeps it, equal reads make equal
maps. -/

namespace Sys2Proof.Machine

variable {V : Type}

/-! ## Reads after writes -/

@[simp] theorem SMap.find?_nil (j : Nat) : SMap.find? ([] : SMap V) j = none := rfl

theorem SMap.find?_put (m : SMap V) (i j : Nat) (v : V) :
    SMap.find? (SMap.put m j v) i = if i = j then some v else SMap.find? m i := by
  induction m with
  | nil => simp only [SMap.put, SMap.find?]
  | cons x m ih =>
    obtain ⟨k, w⟩ := x
    simp only [SMap.put]
    split
    · subst_vars; simp only [SMap.find?]; split <;> simp_all
    · split
      · simp only [SMap.find?]; repeat' split
        all_goals first | rfl | omega
      · simp only [SMap.find?]; repeat' split
        all_goals first | rfl | omega | simp_all

/-- In a sorted map no key lies at or below the bound. -/
theorem SMap.find?_below {m : SMap V} {lo i : Nat} (h : SMap.sortedFrom (some lo) m = true) (hi : i ≤ lo) :
    SMap.find? m i = none := by
  induction m generalizing lo with
  | nil => rfl
  | cons x m ih =>
    obtain ⟨k, w⟩ := x
    simp only [SMap.sortedFrom, Bool.and_eq_true, decide_eq_true_eq] at h
    simp only [SMap.find?]
    rw [if_neg (by omega)]
    exact ih h.2 (by omega)

theorem SMap.sortedFrom_weaken {m : SMap V} {lo lo' : Nat} (h : SMap.sortedFrom (some lo) m = true) (hl : lo' ≤ lo) :
    SMap.sortedFrom (some lo') m = true := by
  cases m with
  | nil => rfl
  | cons x m =>
    obtain ⟨k, w⟩ := x
    simp only [SMap.sortedFrom, Bool.and_eq_true, decide_eq_true_eq] at h ⊢
    exact ⟨by omega, h.2⟩

theorem SMap.sortedFrom_none {m : SMap V} {lo : Nat} (h : SMap.sortedFrom (some lo) m = true) : SMap.sortedFrom none m = true := by
  cases m with
  | nil => rfl
  | cons x m => simp only [SMap.sortedFrom, Bool.and_eq_true] at h ⊢; exact ⟨trivial, h.2⟩

theorem SMap.find?_del (m : SMap V) (i j : Nat) :
    SMap.find? (SMap.del m j) i = if i = j then none else SMap.find? m i := by
  induction m with
  | nil => simp [SMap.del]
  | cons x m ih =>
    obtain ⟨k, w⟩ := x
    simp only [SMap.del]
    split
    · subst_vars
      simp only [SMap.find?, ih]
      split <;> simp_all
    · simp only [SMap.find?, ih]
      repeat' split
      all_goals first | rfl | omega

theorem SMap.find?_modify (m : SMap V) (i j : Nat) (f : V → V) :
    SMap.find? (SMap.modify m j f) i = if i = j then (SMap.find? m j).map f else SMap.find? m i := by
  induction m with
  | nil => simp [SMap.modify]
  | cons x m ih =>
    obtain ⟨k, w⟩ := x
    simp only [SMap.modify]
    split
    · subst_vars
      simp only [SMap.find?]
      split <;> simp_all
    · simp only [SMap.find?, ih]
      repeat' split
      all_goals first | rfl | omega

/-- A change of an entry looks only at what the entry holds. -/
theorem SMap.modify_congr {m : SMap V} {j : Nat} {f g : V → V} (h : ∀ v, SMap.find? m j = some v → f v = g v) :
    SMap.modify m j f = SMap.modify m j g := by
  induction m with
  | nil => rfl
  | cons x m ih =>
    obtain ⟨k, w⟩ := x
    simp only [SMap.modify]
    split
    · rw [h w (by simp [SMap.find?, *])]
    · rw [ih (fun v hv => h v (by simp [SMap.find?, *]))]

theorem SMap.modify_modify (m : SMap V) (j : Nat) (f g : V → V) :
    SMap.modify (SMap.modify m j f) j g = SMap.modify m j (fun v => g (f v)) := by
  induction m with
  | nil => rfl
  | cons x m ih =>
    obtain ⟨k, w⟩ := x
    simp only [SMap.modify]
    split <;> simp_all [SMap.modify]

theorem SMap.get_put (m : SMap V) (d : V) (i j : Nat) (v : V) :
    SMap.get (SMap.put m j v) d i = if i = j then v else SMap.get m d i := by
  simp only [SMap.get, SMap.find?_put]
  by_cases h : i = j <;> simp [h]

section
variable [DecidableEq V]

theorem SMap.get_set (m : SMap V) (d : V) (i j : Nat) (v : V) :
    SMap.get (SMap.set m d j v) d i = if i = j then v else SMap.get m d i := by
  unfold SMap.set
  split
  · simp only [SMap.get, SMap.find?_del]
    by_cases hij : i = j <;> simp_all
  · exact SMap.get_put m d i j v

/-! ## The canonical form is kept -/

omit [DecidableEq V] in
theorem SMap.sortedFrom_put {m : SMap V} {lo : Option Nat} (h : SMap.sortedFrom lo m = true) (j : Nat) (v : V)
    (hj : ∀ l, lo = some l → l < j) : SMap.sortedFrom lo (SMap.put m j v) = true := by
  induction m generalizing lo with
  | nil => cases lo <;> simp_all [SMap.put, SMap.sortedFrom]
  | cons x m ih =>
    obtain ⟨k, w⟩ := x
    simp only [SMap.put]
    simp only [SMap.sortedFrom, Bool.and_eq_true] at h
    split
    · subst_vars; simp only [SMap.sortedFrom, Bool.and_eq_true]; exact h
    · split
      · simp only [SMap.sortedFrom, Bool.and_eq_true]
        refine ⟨?_, by simpa using ‹j < k›, h.2⟩
        cases lo <;> simp_all
      · simp only [SMap.sortedFrom, Bool.and_eq_true]
        exact ⟨h.1, ih h.2 (fun l e => by cases e; omega)⟩

omit [DecidableEq V] in
theorem SMap.sortedFrom_del {m : SMap V} {lo : Option Nat} (h : SMap.sortedFrom lo m = true) (j : Nat) :
    SMap.sortedFrom lo (SMap.del m j) = true := by
  induction m generalizing lo with
  | nil => rfl
  | cons x m ih =>
    obtain ⟨k, w⟩ := x
    simp only [SMap.del]
    simp only [SMap.sortedFrom, Bool.and_eq_true] at h
    split
    · apply ih
      cases lo with
      | none => exact SMap.sortedFrom_none h.2
      | some l => exact SMap.sortedFrom_weaken h.2 (by simp at h; omega)
    · simp only [SMap.sortedFrom, Bool.and_eq_true]
      exact ⟨h.1, ih h.2⟩

theorem SMap.noDefault_put {m : SMap V} {d : V} (h : SMap.noDefault d m = true) (j : Nat) {v : V} (hv : v ≠ d) :
    SMap.noDefault d (SMap.put m j v) = true := by
  induction m with
  | nil => simp [SMap.put, SMap.noDefault, hv]
  | cons x m ih =>
    obtain ⟨k, w⟩ := x
    simp only [SMap.put]
    simp only [SMap.noDefault, Bool.and_eq_true, decide_eq_true_eq] at h
    repeat' split
    all_goals simp_all [SMap.noDefault]

theorem SMap.noDefault_del {m : SMap V} {d : V} (h : SMap.noDefault d m = true) (j : Nat) :
    SMap.noDefault d (SMap.del m j) = true := by
  induction m with
  | nil => rfl
  | cons x m ih =>
    obtain ⟨k, w⟩ := x
    simp only [SMap.del]
    simp only [SMap.noDefault, Bool.and_eq_true, decide_eq_true_eq] at h
    repeat' split
    all_goals simp_all [SMap.noDefault]

/-- A write keeps the canonical form. -/
@[simp] theorem SMap.wf_set {m : SMap V} {d : V} (h : SMap.wf m d = true) (j : Nat) (v : V) : SMap.wf (SMap.set m d j v) d = true := by
  simp only [SMap.wf, Bool.and_eq_true] at h ⊢
  unfold SMap.set
  split
  · exact ⟨SMap.sortedFrom_del h.1 j, SMap.noDefault_del h.2 j⟩
  · exact ⟨SMap.sortedFrom_put h.1 j v (by simp), SMap.noDefault_put h.2 j ‹_›⟩

@[simp] theorem SMap.wf_nil (d : V) : SMap.wf ([] : SMap V) d = true := rfl

/-! ## Runs of entries -/

omit [DecidableEq V] in
theorem SMap.sortedFrom_filter {m : SMap V} {lo : Option Nat} (h : SMap.sortedFrom lo m = true) (p : Nat × V → Bool) :
    SMap.sortedFrom lo (m.filter p) = true := by
  induction m generalizing lo with
  | nil => rfl
  | cons x m ih =>
    obtain ⟨k, w⟩ := x
    simp only [SMap.sortedFrom, Bool.and_eq_true] at h
    simp only [List.filter]
    split
    · simp only [SMap.sortedFrom, Bool.and_eq_true]; exact ⟨h.1, ih h.2⟩
    · cases lo with
      | none => exact SMap.sortedFrom_none (ih h.2)
      | some l => exact SMap.sortedFrom_weaken (ih h.2) (by simp at h; omega)

theorem SMap.noDefault_filter {m : SMap V} {d : V} (h : SMap.noDefault d m = true) (p : Nat × V → Bool) :
    SMap.noDefault d (m.filter p) = true := by
  induction m with
  | nil => rfl
  | cons x m ih =>
    simp only [SMap.noDefault, Bool.and_eq_true] at h
    simp only [List.filter]
    split <;> simp_all [SMap.noDefault]

/-- Dropping entries keeps the canonical form. -/
@[simp] theorem SMap.wf_filter {m : SMap V} {d : V} (h : SMap.wf m d = true) (p : Nat × V → Bool) : SMap.wf (m.filter p) d = true := by
  simp only [SMap.wf, Bool.and_eq_true] at h ⊢
  exact ⟨SMap.sortedFrom_filter h.1 p, SMap.noDefault_filter h.2 p⟩

theorem SMap.noDefault_append {a b : SMap V} {d : V} (ha : SMap.noDefault d a = true) (hb : SMap.noDefault d b = true) :
    SMap.noDefault d (a ++ b) = true := by
  induction a with
  | nil => exact hb
  | cons x a ih => simp only [SMap.noDefault, Bool.and_eq_true, List.cons_append] at ha ⊢; exact ⟨ha.1, ih ha.2⟩

omit [DecidableEq V] in
theorem SMap.sortedFrom_append {a b : SMap V} {lo : Option Nat} {n : Nat} (ha : SMap.sortedFrom lo a = true)
    (hn : ∀ x ∈ a, x.1 < n) (hl : ∀ l, lo = some l → l < n) (hb : SMap.sortedFrom none b = true) (hbn : ∀ x ∈ b, n ≤ x.1) :
    SMap.sortedFrom lo (a ++ b) = true := by
  induction a generalizing lo with
  | nil =>
    cases b with
    | nil => rfl
    | cons y b =>
      obtain ⟨k, w⟩ := y
      simp only [List.nil_append, SMap.sortedFrom, Bool.and_eq_true] at hb ⊢
      refine ⟨?_, hb.2⟩
      have := hbn (k, w) (by simp)
      cases lo with
      | none => rfl
      | some l => have := hl l rfl; simp only [decide_eq_true_eq] at *; omega
  | cons x a ih =>
    obtain ⟨k, w⟩ := x
    simp only [SMap.sortedFrom, Bool.and_eq_true, List.cons_append] at ha ⊢
    exact ⟨ha.1, ih ha.2 (fun y hy => hn y (by simp [hy])) (fun l e => by cases e; exact hn (k, w) (by simp))⟩

/-- The page's run of entries is replaced by another run within its bounds. -/
theorem SMap.wf_splice {m seg : SMap V} {d : V} (h : SMap.wf m d = true) (base n : Nat) (hs : SMap.wf seg d = true)
    (hb : ∀ x ∈ seg, base ≤ x.1 ∧ x.1 < base + n) : SMap.wf (splice m base n seg) d = true := by
  simp only [SMap.wf, Bool.and_eq_true] at h hs ⊢
  unfold splice
  rw [List.append_assoc]
  refine ⟨?_, SMap.noDefault_append (SMap.noDefault_filter h.2 _) (SMap.noDefault_append hs.2 (SMap.noDefault_filter h.2 _))⟩
  refine SMap.sortedFrom_append (n := base) (SMap.sortedFrom_filter h.1 _) (by simp) (by simp) ?_ ?_
  · refine SMap.sortedFrom_append (n := base + n) hs.1 (fun x hx => (hb x hx).2) (by simp) (SMap.sortedFrom_filter h.1 _) (by simp)
  · intro x hx
    rcases List.mem_append.1 hx with hx | hx
    · exact (hb x hx).1
    · simp at hx; omega

omit [DecidableEq V] in
theorem SMap.sortedFrom_shift {m : SMap V} {lo : Nat} (h : SMap.sortedFrom (some lo) m = true) (base dest : Nat)
    (hb : base ≤ lo) : SMap.sortedFrom (some (lo - base + dest)) (m.map (fun x => (x.1 - base + dest, x.2))) = true := by
  induction m generalizing lo with
  | nil => rfl
  | cons x m ih =>
    obtain ⟨k, w⟩ := x
    simp only [SMap.sortedFrom, Bool.and_eq_true, List.map_cons, decide_eq_true_eq] at h ⊢
    exact ⟨by omega, ih h.2 (by omega)⟩

theorem SMap.noDefault_map {m : SMap V} {d : V} (h : SMap.noDefault d m = true) (f : Nat → Nat) :
    SMap.noDefault d (m.map (fun x => (f x.1, x.2))) = true := by
  induction m with
  | nil => rfl
  | cons x m ih => simp only [SMap.noDefault, Bool.and_eq_true, List.map_cons] at h ⊢; exact ⟨h.1, ih h.2⟩

/-- A run of entries moved to another base. -/
theorem SMap.wf_cut {m : SMap V} {d : V} (h : SMap.wf m d = true) (base n dest : Nat) :
    SMap.wf (cut m base n dest) d = true ∧ ∀ x ∈ cut m base n dest, dest ≤ x.1 ∧ x.1 < dest + n := by
  have hf := SMap.wf_filter h (fun x => decide (base ≤ x.1) && decide (x.1 < base + n))
  unfold cut
  constructor
  · simp only [SMap.wf, Bool.and_eq_true] at hf ⊢
    refine ⟨?_, SMap.noDefault_map hf.2 (fun a => a - base + dest)⟩
    have hm : ∀ x ∈ m.filter (fun x => decide (base ≤ x.1) && decide (x.1 < base + n)), base ≤ x.1 := by simp; omega
    revert hf hm
    generalize m.filter (fun x => decide (base ≤ x.1) && decide (x.1 < base + n)) = l
    intro hf hm
    cases l with
    | nil => rfl
    | cons x l =>
      obtain ⟨k, w⟩ := x
      have hk := hm (k, w) (by simp)
      have hs : SMap.sortedFrom (some k) l = true := by simpa [SMap.sortedFrom] using hf.1
      simp only [List.map_cons, SMap.sortedFrom, Bool.true_and]
      exact SMap.sortedFrom_shift hs base dest hk
  · intro x hx
    simp only [List.mem_map, List.mem_filter, Bool.and_eq_true, decide_eq_true_eq] at hx
    obtain ⟨y, ⟨_, h1, h2⟩, rfl⟩ := hx
    exact ⟨by simp, by simp; omega⟩

/-! ## Equal reads make equal maps -/

omit [DecidableEq V] in
theorem SMap.find?_head {m : SMap V} {k : Nat} {w : V} : SMap.find? ((k, w) :: m) k = some w := by simp [SMap.find?]

omit [DecidableEq V] in
theorem SMap.find?_tail {m : SMap V} {k : Nat} {w : V} (h : SMap.sortedFrom none ((k, w) :: m) = true) (i : Nat) :
    SMap.find? m i = if i = k then none else SMap.find? ((k, w) :: m) i := by
  have hs : SMap.sortedFrom (some k) m = true := by simpa [SMap.sortedFrom] using h
  simp only [SMap.find?]
  repeat' split
  · exact SMap.find?_below hs (by omega)
  · rfl

omit [DecidableEq V] in
theorem SMap.ext_find {a b : SMap V} (ha : SMap.sortedFrom none a = true) (hb : SMap.sortedFrom none b = true)
    (h : ∀ i, SMap.find? a i = SMap.find? b i) : a = b := by
  induction a generalizing b with
  | nil =>
    cases b with
    | nil => rfl
    | cons y b => have := h y.1; simp [SMap.find?] at this
  | cons x a ih =>
    obtain ⟨k, w⟩ := x
    cases b with
    | nil => have := h k; simp [SMap.find?] at this
    | cons y b =>
      obtain ⟨k', w'⟩ := y
      have h1 := h k
      have h2 := h k'
      have hk : k = k' := by
        simp only [SMap.find?] at h1 h2
        have hsa : SMap.sortedFrom (some k) a = true := by simpa [SMap.sortedFrom] using ha
        have hsb : SMap.sortedFrom (some k') b = true := by simpa [SMap.sortedFrom] using hb
        by_cases hlt : k < k'
        · simp [show k ≠ k' by omega, SMap.find?_below hsb (Nat.le_of_lt hlt)] at h1
        · by_cases hgt : k' < k
          · simp [show k' ≠ k by omega, SMap.find?_below hsa (Nat.le_of_lt hgt)] at h2
          · omega
      subst hk
      have hw : w = w' := by simpa [SMap.find?] using h1
      subst hw
      have hsa : SMap.sortedFrom none a = true := SMap.sortedFrom_none (lo := k) (by simpa [SMap.sortedFrom] using ha)
      have hsb : SMap.sortedFrom none b = true := SMap.sortedFrom_none (lo := k) (by simpa [SMap.sortedFrom] using hb)
      rw [ih hsa hsb (fun i => by rw [SMap.find?_tail ha, SMap.find?_tail hb, h i])]

theorem SMap.find?_ne_default {m : SMap V} {d : V} (h : SMap.noDefault d m = true) (i : Nat) : SMap.find? m i ≠ some d := by
  induction m with
  | nil => simp
  | cons x m ih =>
    obtain ⟨k, w⟩ := x
    simp only [SMap.noDefault, Bool.and_eq_true, decide_eq_true_eq] at h
    simp only [SMap.find?]
    repeat' split
    · simpa using h.1
    · exact ih h.2

/-- Maps in canonical form that read alike are the same data. -/
theorem SMap.ext_get {a b : SMap V} {d : V} (ha : SMap.wf a d = true) (hb : SMap.wf b d = true)
    (h : ∀ i, SMap.get a d i = SMap.get b d i) : a = b := by
  simp only [SMap.wf, Bool.and_eq_true] at ha hb
  refine SMap.ext_find ha.1 hb.1 (fun i => ?_)
  have hi := h i
  have na := SMap.find?_ne_default ha.2 i
  have nb := SMap.find?_ne_default hb.2 i
  simp only [SMap.get] at hi
  cases hx : SMap.find? a i <;> cases hy : SMap.find? b i <;> simp_all

end

end Sys2Proof.Machine
end

