-- ==== Sys2Proof/Laws/State.lean ====
section
/-! SUPPORT. What each update of a record leaves alone: one lemma per field per update, true by computation. -/

namespace Sys2Proof.Machine

/-! ## The machine -/

@[simp] theorem State.modGroup_cur (s : State) (u : Nat) (f : Group → Group) : (s.modGroup u f).cur = s.cur := rfl
@[simp] theorem State.modGroup_fetched (s : State) (u : Nat) (f : Group → Group) : (s.modGroup u f).fetched = s.fetched := rfl
@[simp] theorem State.modGroup_turn (s : State) (u : Nat) (f : Group → Group) : (s.modGroup u f).turn = s.turn := rfl
@[simp] theorem State.modGroup_agenda (s : State) (u : Nat) (f : Group → Group) : (s.modGroup u f).agenda = s.agenda := rfl
@[simp] theorem State.modGroup_inbox (s : State) (u : Nat) (f : Group → Group) : (s.modGroup u f).inbox = s.inbox := rfl
@[simp] theorem State.modGroup_sched (s : State) (u : Nat) (f : Group → Group) : (s.modGroup u f).sched = s.sched := rfl
@[simp] theorem State.modGroup_elapse (s : State) (u : Nat) (f : Group → Group) : (s.modGroup u f).elapse = s.elapse := rfl
@[simp] theorem State.modGroup_grain (s : State) (u : Nat) (f : Group → Group) : (s.modGroup u f).grain = s.grain := rfl
@[simp] theorem State.modGroup_nextCore (s : State) (u : Nat) (f : Group → Group) : (s.modGroup u f).nextCore = s.nextCore := rfl
@[simp] theorem State.modGroup_issuedIn (s : State) (u : Nat) (f : Group → Group) : (s.modGroup u f).issuedIn = s.issuedIn := rfl
@[simp] theorem State.modGroup_nextId (s : State) (u : Nat) (f : Group → Group) : (s.modGroup u f).nextId = s.nextId := rfl
@[simp] theorem State.modGroup_freeTick (s : State) (u : Nat) (f : Group → Group) : (s.modGroup u f).freeTick = s.freeTick := rfl
@[simp] theorem State.modGroup_items (s : State) (u : Nat) (f : Group → Group) : (s.modGroup u f).items = s.items := rfl
@[simp] theorem State.modGroup_pkgs (s : State) (u : Nat) (f : Group → Group) : (s.modGroup u f).pkgs = s.pkgs := rfl
@[simp] theorem State.modGroup_gmem (s : State) (u : Nat) (f : Group → Group) : (s.modGroup u f).gmem = s.gmem := rfl
@[simp] theorem State.modGroup_lmeta (s : State) (u : Nat) (f : Group → Group) : (s.modGroup u f).lmeta = s.lmeta := rfl
@[simp] theorem State.modGroup_pageCmp (s : State) (u : Nat) (f : Group → Group) : (s.modGroup u f).pageCmp = s.pageCmp := rfl
@[simp] theorem State.modGroup_hmem (s : State) (u : Nat) (f : Group → Group) : (s.modGroup u f).hmem = s.hmem := rfl

@[simp] theorem State.modThread_cur (s : State) (k : TKey) (f : Thread → Thread) : (s.modThread k f).cur = s.cur := rfl
@[simp] theorem State.modThread_fetched (s : State) (k : TKey) (f : Thread → Thread) : (s.modThread k f).fetched = s.fetched := rfl
@[simp] theorem State.modThread_turn (s : State) (k : TKey) (f : Thread → Thread) : (s.modThread k f).turn = s.turn := rfl
@[simp] theorem State.modThread_agenda (s : State) (k : TKey) (f : Thread → Thread) : (s.modThread k f).agenda = s.agenda := rfl
@[simp] theorem State.modThread_inbox (s : State) (k : TKey) (f : Thread → Thread) : (s.modThread k f).inbox = s.inbox := rfl
@[simp] theorem State.modThread_sched (s : State) (k : TKey) (f : Thread → Thread) : (s.modThread k f).sched = s.sched := rfl
@[simp] theorem State.modThread_elapse (s : State) (k : TKey) (f : Thread → Thread) : (s.modThread k f).elapse = s.elapse := rfl
@[simp] theorem State.modThread_grain (s : State) (k : TKey) (f : Thread → Thread) : (s.modThread k f).grain = s.grain := rfl
@[simp] theorem State.modThread_nextCore (s : State) (k : TKey) (f : Thread → Thread) : (s.modThread k f).nextCore = s.nextCore := rfl
@[simp] theorem State.modThread_issuedIn (s : State) (k : TKey) (f : Thread → Thread) : (s.modThread k f).issuedIn = s.issuedIn := rfl
@[simp] theorem State.modThread_nextId (s : State) (k : TKey) (f : Thread → Thread) : (s.modThread k f).nextId = s.nextId := rfl
@[simp] theorem State.modThread_freeTick (s : State) (k : TKey) (f : Thread → Thread) : (s.modThread k f).freeTick = s.freeTick := rfl
@[simp] theorem State.modThread_items (s : State) (k : TKey) (f : Thread → Thread) : (s.modThread k f).items = s.items := rfl
@[simp] theorem State.modThread_pkgs (s : State) (k : TKey) (f : Thread → Thread) : (s.modThread k f).pkgs = s.pkgs := rfl
@[simp] theorem State.modThread_gmem (s : State) (k : TKey) (f : Thread → Thread) : (s.modThread k f).gmem = s.gmem := rfl
@[simp] theorem State.modThread_lmeta (s : State) (k : TKey) (f : Thread → Thread) : (s.modThread k f).lmeta = s.lmeta := rfl
@[simp] theorem State.modThread_pageCmp (s : State) (k : TKey) (f : Thread → Thread) : (s.modThread k f).pageCmp = s.pageCmp := rfl
@[simp] theorem State.modThread_hmem (s : State) (k : TKey) (f : Thread → Thread) : (s.modThread k f).hmem = s.hmem := rfl

@[simp] theorem State.modShare_cur (s : State) (u j : Nat) (f : Share → Share) : (s.modShare u j f).cur = s.cur := rfl
@[simp] theorem State.modShare_fetched (s : State) (u j : Nat) (f : Share → Share) : (s.modShare u j f).fetched = s.fetched := rfl
@[simp] theorem State.modShare_turn (s : State) (u j : Nat) (f : Share → Share) : (s.modShare u j f).turn = s.turn := rfl
@[simp] theorem State.modShare_agenda (s : State) (u j : Nat) (f : Share → Share) : (s.modShare u j f).agenda = s.agenda := rfl
@[simp] theorem State.modShare_inbox (s : State) (u j : Nat) (f : Share → Share) : (s.modShare u j f).inbox = s.inbox := rfl
@[simp] theorem State.modShare_sched (s : State) (u j : Nat) (f : Share → Share) : (s.modShare u j f).sched = s.sched := rfl
@[simp] theorem State.modShare_elapse (s : State) (u j : Nat) (f : Share → Share) : (s.modShare u j f).elapse = s.elapse := rfl
@[simp] theorem State.modShare_grain (s : State) (u j : Nat) (f : Share → Share) : (s.modShare u j f).grain = s.grain := rfl
@[simp] theorem State.modShare_nextCore (s : State) (u j : Nat) (f : Share → Share) : (s.modShare u j f).nextCore = s.nextCore := rfl
@[simp] theorem State.modShare_issuedIn (s : State) (u j : Nat) (f : Share → Share) : (s.modShare u j f).issuedIn = s.issuedIn := rfl
@[simp] theorem State.modShare_nextId (s : State) (u j : Nat) (f : Share → Share) : (s.modShare u j f).nextId = s.nextId := rfl
@[simp] theorem State.modShare_freeTick (s : State) (u j : Nat) (f : Share → Share) : (s.modShare u j f).freeTick = s.freeTick := rfl
@[simp] theorem State.modShare_items (s : State) (u j : Nat) (f : Share → Share) : (s.modShare u j f).items = s.items := rfl
@[simp] theorem State.modShare_pkgs (s : State) (u j : Nat) (f : Share → Share) : (s.modShare u j f).pkgs = s.pkgs := rfl
@[simp] theorem State.modShare_gmem (s : State) (u j : Nat) (f : Share → Share) : (s.modShare u j f).gmem = s.gmem := rfl
@[simp] theorem State.modShare_lmeta (s : State) (u j : Nat) (f : Share → Share) : (s.modShare u j f).lmeta = s.lmeta := rfl
@[simp] theorem State.modShare_pageCmp (s : State) (u j : Nat) (f : Share → Share) : (s.modShare u j f).pageCmp = s.pageCmp := rfl
@[simp] theorem State.modShare_hmem (s : State) (u j : Nat) (f : Share → Share) : (s.modShare u j f).hmem = s.hmem := rfl

@[simp] theorem State.stay_cur (s : State) (k : TKey) (w : Wait) : (s.stay k w).cur = s.cur := rfl
@[simp] theorem State.stay_fetched (s : State) (k : TKey) (w : Wait) : (s.stay k w).fetched = s.fetched := rfl
@[simp] theorem State.stay_turn (s : State) (k : TKey) (w : Wait) : (s.stay k w).turn = s.turn := rfl
@[simp] theorem State.stay_agenda (s : State) (k : TKey) (w : Wait) : (s.stay k w).agenda = s.agenda := rfl
@[simp] theorem State.stay_inbox (s : State) (k : TKey) (w : Wait) : (s.stay k w).inbox = s.inbox := rfl
@[simp] theorem State.stay_sched (s : State) (k : TKey) (w : Wait) : (s.stay k w).sched = s.sched := rfl
@[simp] theorem State.stay_elapse (s : State) (k : TKey) (w : Wait) : (s.stay k w).elapse = s.elapse := rfl
@[simp] theorem State.stay_grain (s : State) (k : TKey) (w : Wait) : (s.stay k w).grain = s.grain := rfl
@[simp] theorem State.stay_nextCore (s : State) (k : TKey) (w : Wait) : (s.stay k w).nextCore = s.nextCore := rfl
@[simp] theorem State.stay_issuedIn (s : State) (k : TKey) (w : Wait) : (s.stay k w).issuedIn = s.issuedIn := rfl
@[simp] theorem State.stay_nextId (s : State) (k : TKey) (w : Wait) : (s.stay k w).nextId = s.nextId := rfl
@[simp] theorem State.stay_freeTick (s : State) (k : TKey) (w : Wait) : (s.stay k w).freeTick = s.freeTick := rfl
@[simp] theorem State.stay_items (s : State) (k : TKey) (w : Wait) : (s.stay k w).items = s.items := rfl
@[simp] theorem State.stay_pkgs (s : State) (k : TKey) (w : Wait) : (s.stay k w).pkgs = s.pkgs := rfl
@[simp] theorem State.stay_gmem (s : State) (k : TKey) (w : Wait) : (s.stay k w).gmem = s.gmem := rfl
@[simp] theorem State.stay_lmeta (s : State) (k : TKey) (w : Wait) : (s.stay k w).lmeta = s.lmeta := rfl
@[simp] theorem State.stay_pageCmp (s : State) (k : TKey) (w : Wait) : (s.stay k w).pageCmp = s.pageCmp := rfl
@[simp] theorem State.stay_hmem (s : State) (k : TKey) (w : Wait) : (s.stay k w).hmem = s.hmem := rfl

@[simp] theorem State.retire_cur (s : State) (k : TKey) (f : Thread → Thread) : (s.retire k f).cur = s.cur := rfl
@[simp] theorem State.retire_fetched (s : State) (k : TKey) (f : Thread → Thread) : (s.retire k f).fetched = s.fetched := rfl
@[simp] theorem State.retire_turn (s : State) (k : TKey) (f : Thread → Thread) : (s.retire k f).turn = s.turn := rfl
@[simp] theorem State.retire_agenda (s : State) (k : TKey) (f : Thread → Thread) : (s.retire k f).agenda = s.agenda := rfl
@[simp] theorem State.retire_inbox (s : State) (k : TKey) (f : Thread → Thread) : (s.retire k f).inbox = s.inbox := rfl
@[simp] theorem State.retire_sched (s : State) (k : TKey) (f : Thread → Thread) : (s.retire k f).sched = s.sched := rfl
@[simp] theorem State.retire_elapse (s : State) (k : TKey) (f : Thread → Thread) : (s.retire k f).elapse = s.elapse := rfl
@[simp] theorem State.retire_grain (s : State) (k : TKey) (f : Thread → Thread) : (s.retire k f).grain = s.grain := rfl
@[simp] theorem State.retire_nextCore (s : State) (k : TKey) (f : Thread → Thread) : (s.retire k f).nextCore = s.nextCore := rfl
@[simp] theorem State.retire_issuedIn (s : State) (k : TKey) (f : Thread → Thread) : (s.retire k f).issuedIn = s.issuedIn := rfl
@[simp] theorem State.retire_nextId (s : State) (k : TKey) (f : Thread → Thread) : (s.retire k f).nextId = s.nextId := rfl
@[simp] theorem State.retire_freeTick (s : State) (k : TKey) (f : Thread → Thread) : (s.retire k f).freeTick = s.freeTick := rfl
@[simp] theorem State.retire_items (s : State) (k : TKey) (f : Thread → Thread) : (s.retire k f).items = s.items := rfl
@[simp] theorem State.retire_pkgs (s : State) (k : TKey) (f : Thread → Thread) : (s.retire k f).pkgs = s.pkgs := rfl
@[simp] theorem State.retire_gmem (s : State) (k : TKey) (f : Thread → Thread) : (s.retire k f).gmem = s.gmem := rfl
@[simp] theorem State.retire_lmeta (s : State) (k : TKey) (f : Thread → Thread) : (s.retire k f).lmeta = s.lmeta := rfl
@[simp] theorem State.retire_pageCmp (s : State) (k : TKey) (f : Thread → Thread) : (s.retire k f).pageCmp = s.pageCmp := rfl
@[simp] theorem State.retire_hmem (s : State) (k : TKey) (f : Thread → Thread) : (s.retire k f).hmem = s.hmem := rfl

@[simp] theorem State.stored_cur (s : State) (u : Nat) : (s.stored u).cur = s.cur := rfl
@[simp] theorem State.stored_fetched (s : State) (u : Nat) : (s.stored u).fetched = s.fetched := rfl
@[simp] theorem State.stored_turn (s : State) (u : Nat) : (s.stored u).turn = s.turn := rfl
@[simp] theorem State.stored_agenda (s : State) (u : Nat) : (s.stored u).agenda = s.agenda := rfl
@[simp] theorem State.stored_inbox (s : State) (u : Nat) : (s.stored u).inbox = s.inbox := rfl
@[simp] theorem State.stored_sched (s : State) (u : Nat) : (s.stored u).sched = s.sched := rfl
@[simp] theorem State.stored_elapse (s : State) (u : Nat) : (s.stored u).elapse = s.elapse := rfl
@[simp] theorem State.stored_grain (s : State) (u : Nat) : (s.stored u).grain = s.grain := rfl
@[simp] theorem State.stored_nextCore (s : State) (u : Nat) : (s.stored u).nextCore = s.nextCore := rfl
@[simp] theorem State.stored_issuedIn (s : State) (u : Nat) : (s.stored u).issuedIn = s.issuedIn := rfl
@[simp] theorem State.stored_nextId (s : State) (u : Nat) : (s.stored u).nextId = s.nextId := rfl
@[simp] theorem State.stored_freeTick (s : State) (u : Nat) : (s.stored u).freeTick = s.freeTick := rfl
@[simp] theorem State.stored_items (s : State) (u : Nat) : (s.stored u).items = s.items := rfl
@[simp] theorem State.stored_pkgs (s : State) (u : Nat) : (s.stored u).pkgs = s.pkgs := rfl
@[simp] theorem State.stored_gmem (s : State) (u : Nat) : (s.stored u).gmem = s.gmem := rfl
@[simp] theorem State.stored_lmeta (s : State) (u : Nat) : (s.stored u).lmeta = s.lmeta := rfl
@[simp] theorem State.stored_pageCmp (s : State) (u : Nat) : (s.stored u).pageCmp = s.pageCmp := rfl
@[simp] theorem State.stored_hmem (s : State) (u : Nat) : (s.stored u).hmem = s.hmem := rfl

@[simp] theorem State.sput_cur (s : State) (u j o : Nat) (bs : List Byte) : (s.sput u j o bs).cur = s.cur := rfl
@[simp] theorem State.sput_fetched (s : State) (u j o : Nat) (bs : List Byte) : (s.sput u j o bs).fetched = s.fetched := rfl
@[simp] theorem State.sput_turn (s : State) (u j o : Nat) (bs : List Byte) : (s.sput u j o bs).turn = s.turn := rfl
@[simp] theorem State.sput_agenda (s : State) (u j o : Nat) (bs : List Byte) : (s.sput u j o bs).agenda = s.agenda := rfl
@[simp] theorem State.sput_inbox (s : State) (u j o : Nat) (bs : List Byte) : (s.sput u j o bs).inbox = s.inbox := rfl
@[simp] theorem State.sput_sched (s : State) (u j o : Nat) (bs : List Byte) : (s.sput u j o bs).sched = s.sched := rfl
@[simp] theorem State.sput_elapse (s : State) (u j o : Nat) (bs : List Byte) : (s.sput u j o bs).elapse = s.elapse := rfl
@[simp] theorem State.sput_grain (s : State) (u j o : Nat) (bs : List Byte) : (s.sput u j o bs).grain = s.grain := rfl
@[simp] theorem State.sput_nextCore (s : State) (u j o : Nat) (bs : List Byte) : (s.sput u j o bs).nextCore = s.nextCore := rfl
@[simp] theorem State.sput_issuedIn (s : State) (u j o : Nat) (bs : List Byte) : (s.sput u j o bs).issuedIn = s.issuedIn := rfl
@[simp] theorem State.sput_nextId (s : State) (u j o : Nat) (bs : List Byte) : (s.sput u j o bs).nextId = s.nextId := rfl
@[simp] theorem State.sput_freeTick (s : State) (u j o : Nat) (bs : List Byte) : (s.sput u j o bs).freeTick = s.freeTick := rfl
@[simp] theorem State.sput_items (s : State) (u j o : Nat) (bs : List Byte) : (s.sput u j o bs).items = s.items := rfl
@[simp] theorem State.sput_pkgs (s : State) (u j o : Nat) (bs : List Byte) : (s.sput u j o bs).pkgs = s.pkgs := rfl
@[simp] theorem State.sput_gmem (s : State) (u j o : Nat) (bs : List Byte) : (s.sput u j o bs).gmem = s.gmem := rfl
@[simp] theorem State.sput_lmeta (s : State) (u j o : Nat) (bs : List Byte) : (s.sput u j o bs).lmeta = s.lmeta := rfl
@[simp] theorem State.sput_pageCmp (s : State) (u j o : Nat) (bs : List Byte) : (s.sput u j o bs).pageCmp = s.pageCmp := rfl
@[simp] theorem State.sput_hmem (s : State) (u j o : Nat) (bs : List Byte) : (s.sput u j o bs).hmem = s.hmem := rfl

@[simp] theorem State.modPkg_cur (s : State) (p : Nat) (f : Pkg → Pkg) : (s.modPkg p f).cur = s.cur := rfl
@[simp] theorem State.modPkg_fetched (s : State) (p : Nat) (f : Pkg → Pkg) : (s.modPkg p f).fetched = s.fetched := rfl
@[simp] theorem State.modPkg_turn (s : State) (p : Nat) (f : Pkg → Pkg) : (s.modPkg p f).turn = s.turn := rfl
@[simp] theorem State.modPkg_agenda (s : State) (p : Nat) (f : Pkg → Pkg) : (s.modPkg p f).agenda = s.agenda := rfl
@[simp] theorem State.modPkg_inbox (s : State) (p : Nat) (f : Pkg → Pkg) : (s.modPkg p f).inbox = s.inbox := rfl
@[simp] theorem State.modPkg_sched (s : State) (p : Nat) (f : Pkg → Pkg) : (s.modPkg p f).sched = s.sched := rfl
@[simp] theorem State.modPkg_elapse (s : State) (p : Nat) (f : Pkg → Pkg) : (s.modPkg p f).elapse = s.elapse := rfl
@[simp] theorem State.modPkg_grain (s : State) (p : Nat) (f : Pkg → Pkg) : (s.modPkg p f).grain = s.grain := rfl
@[simp] theorem State.modPkg_nextCore (s : State) (p : Nat) (f : Pkg → Pkg) : (s.modPkg p f).nextCore = s.nextCore := rfl
@[simp] theorem State.modPkg_issuedIn (s : State) (p : Nat) (f : Pkg → Pkg) : (s.modPkg p f).issuedIn = s.issuedIn := rfl
@[simp] theorem State.modPkg_nextId (s : State) (p : Nat) (f : Pkg → Pkg) : (s.modPkg p f).nextId = s.nextId := rfl
@[simp] theorem State.modPkg_freeTick (s : State) (p : Nat) (f : Pkg → Pkg) : (s.modPkg p f).freeTick = s.freeTick := rfl
@[simp] theorem State.modPkg_items (s : State) (p : Nat) (f : Pkg → Pkg) : (s.modPkg p f).items = s.items := rfl
@[simp] theorem State.modPkg_groups (s : State) (p : Nat) (f : Pkg → Pkg) : (s.modPkg p f).groups = s.groups := rfl
@[simp] theorem State.modPkg_gmem (s : State) (p : Nat) (f : Pkg → Pkg) : (s.modPkg p f).gmem = s.gmem := rfl
@[simp] theorem State.modPkg_lmeta (s : State) (p : Nat) (f : Pkg → Pkg) : (s.modPkg p f).lmeta = s.lmeta := rfl
@[simp] theorem State.modPkg_pageCmp (s : State) (p : Nat) (f : Pkg → Pkg) : (s.modPkg p f).pageCmp = s.pageCmp := rfl
@[simp] theorem State.modPkg_hmem (s : State) (p : Nat) (f : Pkg → Pkg) : (s.modPkg p f).hmem = s.hmem := rfl

@[simp] theorem State.modCore_cur (s : State) (p c : Nat) (f : Core → Core) : (s.modCore p c f).cur = s.cur := rfl
@[simp] theorem State.modCore_fetched (s : State) (p c : Nat) (f : Core → Core) : (s.modCore p c f).fetched = s.fetched := rfl
@[simp] theorem State.modCore_turn (s : State) (p c : Nat) (f : Core → Core) : (s.modCore p c f).turn = s.turn := rfl
@[simp] theorem State.modCore_agenda (s : State) (p c : Nat) (f : Core → Core) : (s.modCore p c f).agenda = s.agenda := rfl
@[simp] theorem State.modCore_inbox (s : State) (p c : Nat) (f : Core → Core) : (s.modCore p c f).inbox = s.inbox := rfl
@[simp] theorem State.modCore_sched (s : State) (p c : Nat) (f : Core → Core) : (s.modCore p c f).sched = s.sched := rfl
@[simp] theorem State.modCore_elapse (s : State) (p c : Nat) (f : Core → Core) : (s.modCore p c f).elapse = s.elapse := rfl
@[simp] theorem State.modCore_grain (s : State) (p c : Nat) (f : Core → Core) : (s.modCore p c f).grain = s.grain := rfl
@[simp] theorem State.modCore_nextCore (s : State) (p c : Nat) (f : Core → Core) : (s.modCore p c f).nextCore = s.nextCore := rfl
@[simp] theorem State.modCore_issuedIn (s : State) (p c : Nat) (f : Core → Core) : (s.modCore p c f).issuedIn = s.issuedIn := rfl
@[simp] theorem State.modCore_nextId (s : State) (p c : Nat) (f : Core → Core) : (s.modCore p c f).nextId = s.nextId := rfl
@[simp] theorem State.modCore_freeTick (s : State) (p c : Nat) (f : Core → Core) : (s.modCore p c f).freeTick = s.freeTick := rfl
@[simp] theorem State.modCore_items (s : State) (p c : Nat) (f : Core → Core) : (s.modCore p c f).items = s.items := rfl
@[simp] theorem State.modCore_groups (s : State) (p c : Nat) (f : Core → Core) : (s.modCore p c f).groups = s.groups := rfl
@[simp] theorem State.modCore_gmem (s : State) (p c : Nat) (f : Core → Core) : (s.modCore p c f).gmem = s.gmem := rfl
@[simp] theorem State.modCore_lmeta (s : State) (p c : Nat) (f : Core → Core) : (s.modCore p c f).lmeta = s.lmeta := rfl
@[simp] theorem State.modCore_pageCmp (s : State) (p c : Nat) (f : Core → Core) : (s.modCore p c f).pageCmp = s.pageCmp := rfl
@[simp] theorem State.modCore_hmem (s : State) (p c : Nat) (f : Core → Core) : (s.modCore p c f).hmem = s.hmem := rfl

@[simp] theorem State.modDie_cur (s : State) (p d : Nat) (f : Die → Die) : (s.modDie p d f).cur = s.cur := rfl
@[simp] theorem State.modDie_fetched (s : State) (p d : Nat) (f : Die → Die) : (s.modDie p d f).fetched = s.fetched := rfl
@[simp] theorem State.modDie_turn (s : State) (p d : Nat) (f : Die → Die) : (s.modDie p d f).turn = s.turn := rfl
@[simp] theorem State.modDie_agenda (s : State) (p d : Nat) (f : Die → Die) : (s.modDie p d f).agenda = s.agenda := rfl
@[simp] theorem State.modDie_inbox (s : State) (p d : Nat) (f : Die → Die) : (s.modDie p d f).inbox = s.inbox := rfl
@[simp] theorem State.modDie_sched (s : State) (p d : Nat) (f : Die → Die) : (s.modDie p d f).sched = s.sched := rfl
@[simp] theorem State.modDie_elapse (s : State) (p d : Nat) (f : Die → Die) : (s.modDie p d f).elapse = s.elapse := rfl
@[simp] theorem State.modDie_grain (s : State) (p d : Nat) (f : Die → Die) : (s.modDie p d f).grain = s.grain := rfl
@[simp] theorem State.modDie_nextCore (s : State) (p d : Nat) (f : Die → Die) : (s.modDie p d f).nextCore = s.nextCore := rfl
@[simp] theorem State.modDie_issuedIn (s : State) (p d : Nat) (f : Die → Die) : (s.modDie p d f).issuedIn = s.issuedIn := rfl
@[simp] theorem State.modDie_nextId (s : State) (p d : Nat) (f : Die → Die) : (s.modDie p d f).nextId = s.nextId := rfl
@[simp] theorem State.modDie_freeTick (s : State) (p d : Nat) (f : Die → Die) : (s.modDie p d f).freeTick = s.freeTick := rfl
@[simp] theorem State.modDie_items (s : State) (p d : Nat) (f : Die → Die) : (s.modDie p d f).items = s.items := rfl
@[simp] theorem State.modDie_groups (s : State) (p d : Nat) (f : Die → Die) : (s.modDie p d f).groups = s.groups := rfl
@[simp] theorem State.modDie_gmem (s : State) (p d : Nat) (f : Die → Die) : (s.modDie p d f).gmem = s.gmem := rfl
@[simp] theorem State.modDie_lmeta (s : State) (p d : Nat) (f : Die → Die) : (s.modDie p d f).lmeta = s.lmeta := rfl
@[simp] theorem State.modDie_pageCmp (s : State) (p d : Nat) (f : Die → Die) : (s.modDie p d f).pageCmp = s.pageCmp := rfl
@[simp] theorem State.modDie_hmem (s : State) (p d : Nat) (f : Die → Die) : (s.modDie p d f).hmem = s.hmem := rfl

@[simp] theorem State.count_cur (s : State) (p : Nat) (c : Ctr) (i n : Nat) : (s.count p c i n).cur = s.cur := rfl
@[simp] theorem State.count_fetched (s : State) (p : Nat) (c : Ctr) (i n : Nat) : (s.count p c i n).fetched = s.fetched := rfl
@[simp] theorem State.count_turn (s : State) (p : Nat) (c : Ctr) (i n : Nat) : (s.count p c i n).turn = s.turn := rfl
@[simp] theorem State.count_agenda (s : State) (p : Nat) (c : Ctr) (i n : Nat) : (s.count p c i n).agenda = s.agenda := rfl
@[simp] theorem State.count_inbox (s : State) (p : Nat) (c : Ctr) (i n : Nat) : (s.count p c i n).inbox = s.inbox := rfl
@[simp] theorem State.count_sched (s : State) (p : Nat) (c : Ctr) (i n : Nat) : (s.count p c i n).sched = s.sched := rfl
@[simp] theorem State.count_elapse (s : State) (p : Nat) (c : Ctr) (i n : Nat) : (s.count p c i n).elapse = s.elapse := rfl
@[simp] theorem State.count_grain (s : State) (p : Nat) (c : Ctr) (i n : Nat) : (s.count p c i n).grain = s.grain := rfl
@[simp] theorem State.count_nextCore (s : State) (p : Nat) (c : Ctr) (i n : Nat) : (s.count p c i n).nextCore = s.nextCore := rfl
@[simp] theorem State.count_issuedIn (s : State) (p : Nat) (c : Ctr) (i n : Nat) : (s.count p c i n).issuedIn = s.issuedIn := rfl
@[simp] theorem State.count_nextId (s : State) (p : Nat) (c : Ctr) (i n : Nat) : (s.count p c i n).nextId = s.nextId := rfl
@[simp] theorem State.count_freeTick (s : State) (p : Nat) (c : Ctr) (i n : Nat) : (s.count p c i n).freeTick = s.freeTick := rfl
@[simp] theorem State.count_items (s : State) (p : Nat) (c : Ctr) (i n : Nat) : (s.count p c i n).items = s.items := rfl
@[simp] theorem State.count_groups (s : State) (p : Nat) (c : Ctr) (i n : Nat) : (s.count p c i n).groups = s.groups := rfl
@[simp] theorem State.count_gmem (s : State) (p : Nat) (c : Ctr) (i n : Nat) : (s.count p c i n).gmem = s.gmem := rfl
@[simp] theorem State.count_lmeta (s : State) (p : Nat) (c : Ctr) (i n : Nat) : (s.count p c i n).lmeta = s.lmeta := rfl
@[simp] theorem State.count_pageCmp (s : State) (p : Nat) (c : Ctr) (i n : Nat) : (s.count p c i n).pageCmp = s.pageCmp := rfl
@[simp] theorem State.count_hmem (s : State) (p : Nat) (c : Ctr) (i n : Nat) : (s.count p c i n).hmem = s.hmem := rfl

@[simp] theorem State.tally_cur (s : State) (p c : Nat) : (s.tally p c).cur = s.cur := rfl
@[simp] theorem State.tally_fetched (s : State) (p c : Nat) : (s.tally p c).fetched = s.fetched := rfl
@[simp] theorem State.tally_turn (s : State) (p c : Nat) : (s.tally p c).turn = s.turn := rfl
@[simp] theorem State.tally_agenda (s : State) (p c : Nat) : (s.tally p c).agenda = s.agenda := rfl
@[simp] theorem State.tally_inbox (s : State) (p c : Nat) : (s.tally p c).inbox = s.inbox := rfl
@[simp] theorem State.tally_sched (s : State) (p c : Nat) : (s.tally p c).sched = s.sched := rfl
@[simp] theorem State.tally_elapse (s : State) (p c : Nat) : (s.tally p c).elapse = s.elapse := rfl
@[simp] theorem State.tally_grain (s : State) (p c : Nat) : (s.tally p c).grain = s.grain := rfl
@[simp] theorem State.tally_nextCore (s : State) (p c : Nat) : (s.tally p c).nextCore = s.nextCore := rfl
@[simp] theorem State.tally_issuedIn (s : State) (p c : Nat) : (s.tally p c).issuedIn = s.issuedIn := rfl
@[simp] theorem State.tally_nextId (s : State) (p c : Nat) : (s.tally p c).nextId = s.nextId := rfl
@[simp] theorem State.tally_freeTick (s : State) (p c : Nat) : (s.tally p c).freeTick = s.freeTick := rfl
@[simp] theorem State.tally_items (s : State) (p c : Nat) : (s.tally p c).items = s.items := rfl
@[simp] theorem State.tally_groups (s : State) (p c : Nat) : (s.tally p c).groups = s.groups := rfl
@[simp] theorem State.tally_gmem (s : State) (p c : Nat) : (s.tally p c).gmem = s.gmem := rfl
@[simp] theorem State.tally_lmeta (s : State) (p c : Nat) : (s.tally p c).lmeta = s.lmeta := rfl
@[simp] theorem State.tally_pageCmp (s : State) (p c : Nat) : (s.tally p c).pageCmp = s.pageCmp := rfl
@[simp] theorem State.tally_hmem (s : State) (p c : Nat) : (s.tally p c).hmem = s.hmem := rfl

@[simp] theorem State.signal_cur (s : State) (p : Nat) (x : Signal) : (s.signal p x).cur = s.cur := rfl
@[simp] theorem State.signal_fetched (s : State) (p : Nat) (x : Signal) : (s.signal p x).fetched = s.fetched := rfl
@[simp] theorem State.signal_turn (s : State) (p : Nat) (x : Signal) : (s.signal p x).turn = s.turn := rfl
@[simp] theorem State.signal_agenda (s : State) (p : Nat) (x : Signal) : (s.signal p x).agenda = s.agenda := rfl
@[simp] theorem State.signal_inbox (s : State) (p : Nat) (x : Signal) : (s.signal p x).inbox = s.inbox := rfl
@[simp] theorem State.signal_sched (s : State) (p : Nat) (x : Signal) : (s.signal p x).sched = s.sched := rfl
@[simp] theorem State.signal_elapse (s : State) (p : Nat) (x : Signal) : (s.signal p x).elapse = s.elapse := rfl
@[simp] theorem State.signal_grain (s : State) (p : Nat) (x : Signal) : (s.signal p x).grain = s.grain := rfl
@[simp] theorem State.signal_nextCore (s : State) (p : Nat) (x : Signal) : (s.signal p x).nextCore = s.nextCore := rfl
@[simp] theorem State.signal_issuedIn (s : State) (p : Nat) (x : Signal) : (s.signal p x).issuedIn = s.issuedIn := rfl
@[simp] theorem State.signal_nextId (s : State) (p : Nat) (x : Signal) : (s.signal p x).nextId = s.nextId := rfl
@[simp] theorem State.signal_freeTick (s : State) (p : Nat) (x : Signal) : (s.signal p x).freeTick = s.freeTick := rfl
@[simp] theorem State.signal_items (s : State) (p : Nat) (x : Signal) : (s.signal p x).items = s.items := rfl
@[simp] theorem State.signal_groups (s : State) (p : Nat) (x : Signal) : (s.signal p x).groups = s.groups := rfl
@[simp] theorem State.signal_gmem (s : State) (p : Nat) (x : Signal) : (s.signal p x).gmem = s.gmem := rfl
@[simp] theorem State.signal_lmeta (s : State) (p : Nat) (x : Signal) : (s.signal p x).lmeta = s.lmeta := rfl
@[simp] theorem State.signal_pageCmp (s : State) (p : Nat) (x : Signal) : (s.signal p x).pageCmp = s.pageCmp := rfl
@[simp] theorem State.signal_hmem (s : State) (p : Nat) (x : Signal) : (s.signal p x).hmem = s.hmem := rfl

@[simp] theorem State.setItem_cur (s : State) (x : Nat) (i : Item) : (s.setItem x i).cur = s.cur := rfl
@[simp] theorem State.setItem_fetched (s : State) (x : Nat) (i : Item) : (s.setItem x i).fetched = s.fetched := rfl
@[simp] theorem State.setItem_turn (s : State) (x : Nat) (i : Item) : (s.setItem x i).turn = s.turn := rfl
@[simp] theorem State.setItem_agenda (s : State) (x : Nat) (i : Item) : (s.setItem x i).agenda = s.agenda := rfl
@[simp] theorem State.setItem_inbox (s : State) (x : Nat) (i : Item) : (s.setItem x i).inbox = s.inbox := rfl
@[simp] theorem State.setItem_sched (s : State) (x : Nat) (i : Item) : (s.setItem x i).sched = s.sched := rfl
@[simp] theorem State.setItem_elapse (s : State) (x : Nat) (i : Item) : (s.setItem x i).elapse = s.elapse := rfl
@[simp] theorem State.setItem_grain (s : State) (x : Nat) (i : Item) : (s.setItem x i).grain = s.grain := rfl
@[simp] theorem State.setItem_nextCore (s : State) (x : Nat) (i : Item) : (s.setItem x i).nextCore = s.nextCore := rfl
@[simp] theorem State.setItem_issuedIn (s : State) (x : Nat) (i : Item) : (s.setItem x i).issuedIn = s.issuedIn := rfl
@[simp] theorem State.setItem_nextId (s : State) (x : Nat) (i : Item) : (s.setItem x i).nextId = s.nextId := rfl
@[simp] theorem State.setItem_freeTick (s : State) (x : Nat) (i : Item) : (s.setItem x i).freeTick = s.freeTick := rfl
@[simp] theorem State.setItem_groups (s : State) (x : Nat) (i : Item) : (s.setItem x i).groups = s.groups := rfl
@[simp] theorem State.setItem_pkgs (s : State) (x : Nat) (i : Item) : (s.setItem x i).pkgs = s.pkgs := rfl
@[simp] theorem State.setItem_gmem (s : State) (x : Nat) (i : Item) : (s.setItem x i).gmem = s.gmem := rfl
@[simp] theorem State.setItem_lmeta (s : State) (x : Nat) (i : Item) : (s.setItem x i).lmeta = s.lmeta := rfl
@[simp] theorem State.setItem_pageCmp (s : State) (x : Nat) (i : Item) : (s.setItem x i).pageCmp = s.pageCmp := rfl
@[simp] theorem State.setItem_hmem (s : State) (x : Nat) (i : Item) : (s.setItem x i).hmem = s.hmem := rfl

@[simp] theorem State.dropItem_cur (s : State) (x : Nat) : (s.dropItem x).cur = s.cur := rfl
@[simp] theorem State.dropItem_fetched (s : State) (x : Nat) : (s.dropItem x).fetched = s.fetched := rfl
@[simp] theorem State.dropItem_turn (s : State) (x : Nat) : (s.dropItem x).turn = s.turn := rfl
@[simp] theorem State.dropItem_agenda (s : State) (x : Nat) : (s.dropItem x).agenda = s.agenda := rfl
@[simp] theorem State.dropItem_inbox (s : State) (x : Nat) : (s.dropItem x).inbox = s.inbox := rfl
@[simp] theorem State.dropItem_sched (s : State) (x : Nat) : (s.dropItem x).sched = s.sched := rfl
@[simp] theorem State.dropItem_elapse (s : State) (x : Nat) : (s.dropItem x).elapse = s.elapse := rfl
@[simp] theorem State.dropItem_grain (s : State) (x : Nat) : (s.dropItem x).grain = s.grain := rfl
@[simp] theorem State.dropItem_nextCore (s : State) (x : Nat) : (s.dropItem x).nextCore = s.nextCore := rfl
@[simp] theorem State.dropItem_issuedIn (s : State) (x : Nat) : (s.dropItem x).issuedIn = s.issuedIn := rfl
@[simp] theorem State.dropItem_nextId (s : State) (x : Nat) : (s.dropItem x).nextId = s.nextId := rfl
@[simp] theorem State.dropItem_freeTick (s : State) (x : Nat) : (s.dropItem x).freeTick = s.freeTick := rfl
@[simp] theorem State.dropItem_groups (s : State) (x : Nat) : (s.dropItem x).groups = s.groups := rfl
@[simp] theorem State.dropItem_pkgs (s : State) (x : Nat) : (s.dropItem x).pkgs = s.pkgs := rfl
@[simp] theorem State.dropItem_gmem (s : State) (x : Nat) : (s.dropItem x).gmem = s.gmem := rfl
@[simp] theorem State.dropItem_lmeta (s : State) (x : Nat) : (s.dropItem x).lmeta = s.lmeta := rfl
@[simp] theorem State.dropItem_pageCmp (s : State) (x : Nat) : (s.dropItem x).pageCmp = s.pageCmp := rfl
@[simp] theorem State.dropItem_hmem (s : State) (x : Nat) : (s.dropItem x).hmem = s.hmem := rfl

@[simp] theorem State.modAccess_cur (s : State) (x : Nat) (f : Access → Access) : (s.modAccess x f).cur = s.cur := rfl
@[simp] theorem State.modAccess_fetched (s : State) (x : Nat) (f : Access → Access) : (s.modAccess x f).fetched = s.fetched := rfl
@[simp] theorem State.modAccess_turn (s : State) (x : Nat) (f : Access → Access) : (s.modAccess x f).turn = s.turn := rfl
@[simp] theorem State.modAccess_agenda (s : State) (x : Nat) (f : Access → Access) : (s.modAccess x f).agenda = s.agenda := rfl
@[simp] theorem State.modAccess_inbox (s : State) (x : Nat) (f : Access → Access) : (s.modAccess x f).inbox = s.inbox := rfl
@[simp] theorem State.modAccess_sched (s : State) (x : Nat) (f : Access → Access) : (s.modAccess x f).sched = s.sched := rfl
@[simp] theorem State.modAccess_elapse (s : State) (x : Nat) (f : Access → Access) : (s.modAccess x f).elapse = s.elapse := rfl
@[simp] theorem State.modAccess_grain (s : State) (x : Nat) (f : Access → Access) : (s.modAccess x f).grain = s.grain := rfl
@[simp] theorem State.modAccess_nextCore (s : State) (x : Nat) (f : Access → Access) : (s.modAccess x f).nextCore = s.nextCore := rfl
@[simp] theorem State.modAccess_issuedIn (s : State) (x : Nat) (f : Access → Access) : (s.modAccess x f).issuedIn = s.issuedIn := rfl
@[simp] theorem State.modAccess_nextId (s : State) (x : Nat) (f : Access → Access) : (s.modAccess x f).nextId = s.nextId := rfl
@[simp] theorem State.modAccess_freeTick (s : State) (x : Nat) (f : Access → Access) : (s.modAccess x f).freeTick = s.freeTick := rfl
@[simp] theorem State.modAccess_groups (s : State) (x : Nat) (f : Access → Access) : (s.modAccess x f).groups = s.groups := rfl
@[simp] theorem State.modAccess_pkgs (s : State) (x : Nat) (f : Access → Access) : (s.modAccess x f).pkgs = s.pkgs := rfl
@[simp] theorem State.modAccess_gmem (s : State) (x : Nat) (f : Access → Access) : (s.modAccess x f).gmem = s.gmem := rfl
@[simp] theorem State.modAccess_lmeta (s : State) (x : Nat) (f : Access → Access) : (s.modAccess x f).lmeta = s.lmeta := rfl
@[simp] theorem State.modAccess_pageCmp (s : State) (x : Nat) (f : Access → Access) : (s.modAccess x f).pageCmp = s.pageCmp := rfl
@[simp] theorem State.modAccess_hmem (s : State) (x : Nat) (f : Access → Access) : (s.modAccess x f).hmem = s.hmem := rfl

@[simp] theorem State.modOp_cur (s : State) (x : Nat) (f : Op → Op) : (s.modOp x f).cur = s.cur := rfl
@[simp] theorem State.modOp_fetched (s : State) (x : Nat) (f : Op → Op) : (s.modOp x f).fetched = s.fetched := rfl
@[simp] theorem State.modOp_turn (s : State) (x : Nat) (f : Op → Op) : (s.modOp x f).turn = s.turn := rfl
@[simp] theorem State.modOp_agenda (s : State) (x : Nat) (f : Op → Op) : (s.modOp x f).agenda = s.agenda := rfl
@[simp] theorem State.modOp_inbox (s : State) (x : Nat) (f : Op → Op) : (s.modOp x f).inbox = s.inbox := rfl
@[simp] theorem State.modOp_sched (s : State) (x : Nat) (f : Op → Op) : (s.modOp x f).sched = s.sched := rfl
@[simp] theorem State.modOp_elapse (s : State) (x : Nat) (f : Op → Op) : (s.modOp x f).elapse = s.elapse := rfl
@[simp] theorem State.modOp_grain (s : State) (x : Nat) (f : Op → Op) : (s.modOp x f).grain = s.grain := rfl
@[simp] theorem State.modOp_nextCore (s : State) (x : Nat) (f : Op → Op) : (s.modOp x f).nextCore = s.nextCore := rfl
@[simp] theorem State.modOp_issuedIn (s : State) (x : Nat) (f : Op → Op) : (s.modOp x f).issuedIn = s.issuedIn := rfl
@[simp] theorem State.modOp_nextId (s : State) (x : Nat) (f : Op → Op) : (s.modOp x f).nextId = s.nextId := rfl
@[simp] theorem State.modOp_freeTick (s : State) (x : Nat) (f : Op → Op) : (s.modOp x f).freeTick = s.freeTick := rfl
@[simp] theorem State.modOp_groups (s : State) (x : Nat) (f : Op → Op) : (s.modOp x f).groups = s.groups := rfl
@[simp] theorem State.modOp_pkgs (s : State) (x : Nat) (f : Op → Op) : (s.modOp x f).pkgs = s.pkgs := rfl
@[simp] theorem State.modOp_gmem (s : State) (x : Nat) (f : Op → Op) : (s.modOp x f).gmem = s.gmem := rfl
@[simp] theorem State.modOp_lmeta (s : State) (x : Nat) (f : Op → Op) : (s.modOp x f).lmeta = s.lmeta := rfl
@[simp] theorem State.modOp_pageCmp (s : State) (x : Nat) (f : Op → Op) : (s.modOp x f).pageCmp = s.pageCmp := rfl
@[simp] theorem State.modOp_hmem (s : State) (x : Nat) (f : Op → Op) : (s.modOp x f).hmem = s.hmem := rfl

@[simp] theorem State.later_cur (s : State) (e : Instr) : (s.later e).cur = s.cur := rfl
@[simp] theorem State.later_fetched (s : State) (e : Instr) : (s.later e).fetched = s.fetched := rfl
@[simp] theorem State.later_turn (s : State) (e : Instr) : (s.later e).turn = s.turn := rfl
@[simp] theorem State.later_inbox (s : State) (e : Instr) : (s.later e).inbox = s.inbox := rfl
@[simp] theorem State.later_sched (s : State) (e : Instr) : (s.later e).sched = s.sched := rfl
@[simp] theorem State.later_elapse (s : State) (e : Instr) : (s.later e).elapse = s.elapse := rfl
@[simp] theorem State.later_grain (s : State) (e : Instr) : (s.later e).grain = s.grain := rfl
@[simp] theorem State.later_nextCore (s : State) (e : Instr) : (s.later e).nextCore = s.nextCore := rfl
@[simp] theorem State.later_issuedIn (s : State) (e : Instr) : (s.later e).issuedIn = s.issuedIn := rfl
@[simp] theorem State.later_nextId (s : State) (e : Instr) : (s.later e).nextId = s.nextId := rfl
@[simp] theorem State.later_freeTick (s : State) (e : Instr) : (s.later e).freeTick = s.freeTick := rfl
@[simp] theorem State.later_items (s : State) (e : Instr) : (s.later e).items = s.items := rfl
@[simp] theorem State.later_groups (s : State) (e : Instr) : (s.later e).groups = s.groups := rfl
@[simp] theorem State.later_pkgs (s : State) (e : Instr) : (s.later e).pkgs = s.pkgs := rfl
@[simp] theorem State.later_gmem (s : State) (e : Instr) : (s.later e).gmem = s.gmem := rfl
@[simp] theorem State.later_lmeta (s : State) (e : Instr) : (s.later e).lmeta = s.lmeta := rfl
@[simp] theorem State.later_pageCmp (s : State) (e : Instr) : (s.later e).pageCmp = s.pageCmp := rfl
@[simp] theorem State.later_hmem (s : State) (e : Instr) : (s.later e).hmem = s.hmem := rfl

@[simp] theorem State.gput_cur (s : State) (a : Nat) (bs : List Byte) : (s.gput a bs).cur = s.cur := rfl
@[simp] theorem State.gput_fetched (s : State) (a : Nat) (bs : List Byte) : (s.gput a bs).fetched = s.fetched := rfl
@[simp] theorem State.gput_turn (s : State) (a : Nat) (bs : List Byte) : (s.gput a bs).turn = s.turn := rfl
@[simp] theorem State.gput_agenda (s : State) (a : Nat) (bs : List Byte) : (s.gput a bs).agenda = s.agenda := rfl
@[simp] theorem State.gput_inbox (s : State) (a : Nat) (bs : List Byte) : (s.gput a bs).inbox = s.inbox := rfl
@[simp] theorem State.gput_sched (s : State) (a : Nat) (bs : List Byte) : (s.gput a bs).sched = s.sched := rfl
@[simp] theorem State.gput_elapse (s : State) (a : Nat) (bs : List Byte) : (s.gput a bs).elapse = s.elapse := rfl
@[simp] theorem State.gput_grain (s : State) (a : Nat) (bs : List Byte) : (s.gput a bs).grain = s.grain := rfl
@[simp] theorem State.gput_nextCore (s : State) (a : Nat) (bs : List Byte) : (s.gput a bs).nextCore = s.nextCore := rfl
@[simp] theorem State.gput_issuedIn (s : State) (a : Nat) (bs : List Byte) : (s.gput a bs).issuedIn = s.issuedIn := rfl
@[simp] theorem State.gput_nextId (s : State) (a : Nat) (bs : List Byte) : (s.gput a bs).nextId = s.nextId := rfl
@[simp] theorem State.gput_freeTick (s : State) (a : Nat) (bs : List Byte) : (s.gput a bs).freeTick = s.freeTick := rfl
@[simp] theorem State.gput_items (s : State) (a : Nat) (bs : List Byte) : (s.gput a bs).items = s.items := rfl
@[simp] theorem State.gput_groups (s : State) (a : Nat) (bs : List Byte) : (s.gput a bs).groups = s.groups := rfl
@[simp] theorem State.gput_pkgs (s : State) (a : Nat) (bs : List Byte) : (s.gput a bs).pkgs = s.pkgs := rfl
@[simp] theorem State.gput_lmeta (s : State) (a : Nat) (bs : List Byte) : (s.gput a bs).lmeta = s.lmeta := rfl
@[simp] theorem State.gput_pageCmp (s : State) (a : Nat) (bs : List Byte) : (s.gput a bs).pageCmp = s.pageCmp := rfl
@[simp] theorem State.gput_hmem (s : State) (a : Nat) (bs : List Byte) : (s.gput a bs).hmem = s.hmem := rfl

@[simp] theorem State.hput_cur (s : State) (p a : Nat) (bs : List Byte) : (s.hput p a bs).cur = s.cur := rfl
@[simp] theorem State.hput_fetched (s : State) (p a : Nat) (bs : List Byte) : (s.hput p a bs).fetched = s.fetched := rfl
@[simp] theorem State.hput_turn (s : State) (p a : Nat) (bs : List Byte) : (s.hput p a bs).turn = s.turn := rfl
@[simp] theorem State.hput_agenda (s : State) (p a : Nat) (bs : List Byte) : (s.hput p a bs).agenda = s.agenda := rfl
@[simp] theorem State.hput_inbox (s : State) (p a : Nat) (bs : List Byte) : (s.hput p a bs).inbox = s.inbox := rfl
@[simp] theorem State.hput_sched (s : State) (p a : Nat) (bs : List Byte) : (s.hput p a bs).sched = s.sched := rfl
@[simp] theorem State.hput_elapse (s : State) (p a : Nat) (bs : List Byte) : (s.hput p a bs).elapse = s.elapse := rfl
@[simp] theorem State.hput_grain (s : State) (p a : Nat) (bs : List Byte) : (s.hput p a bs).grain = s.grain := rfl
@[simp] theorem State.hput_nextCore (s : State) (p a : Nat) (bs : List Byte) : (s.hput p a bs).nextCore = s.nextCore := rfl
@[simp] theorem State.hput_issuedIn (s : State) (p a : Nat) (bs : List Byte) : (s.hput p a bs).issuedIn = s.issuedIn := rfl
@[simp] theorem State.hput_nextId (s : State) (p a : Nat) (bs : List Byte) : (s.hput p a bs).nextId = s.nextId := rfl
@[simp] theorem State.hput_freeTick (s : State) (p a : Nat) (bs : List Byte) : (s.hput p a bs).freeTick = s.freeTick := rfl
@[simp] theorem State.hput_items (s : State) (p a : Nat) (bs : List Byte) : (s.hput p a bs).items = s.items := rfl
@[simp] theorem State.hput_groups (s : State) (p a : Nat) (bs : List Byte) : (s.hput p a bs).groups = s.groups := rfl
@[simp] theorem State.hput_pkgs (s : State) (p a : Nat) (bs : List Byte) : (s.hput p a bs).pkgs = s.pkgs := rfl
@[simp] theorem State.hput_gmem (s : State) (p a : Nat) (bs : List Byte) : (s.hput p a bs).gmem = s.gmem := rfl
@[simp] theorem State.hput_lmeta (s : State) (p a : Nat) (bs : List Byte) : (s.hput p a bs).lmeta = s.lmeta := rfl
@[simp] theorem State.hput_pageCmp (s : State) (p a : Nat) (bs : List Byte) : (s.hput p a bs).pageCmp = s.pageCmp := rfl

@[simp] theorem State.modMeta_cur (s : State) (a : Nat) (f : LineMeta → LineMeta) : (s.modMeta a f).cur = s.cur := rfl
@[simp] theorem State.modMeta_fetched (s : State) (a : Nat) (f : LineMeta → LineMeta) : (s.modMeta a f).fetched = s.fetched := rfl
@[simp] theorem State.modMeta_turn (s : State) (a : Nat) (f : LineMeta → LineMeta) : (s.modMeta a f).turn = s.turn := rfl
@[simp] theorem State.modMeta_agenda (s : State) (a : Nat) (f : LineMeta → LineMeta) : (s.modMeta a f).agenda = s.agenda := rfl
@[simp] theorem State.modMeta_inbox (s : State) (a : Nat) (f : LineMeta → LineMeta) : (s.modMeta a f).inbox = s.inbox := rfl
@[simp] theorem State.modMeta_sched (s : State) (a : Nat) (f : LineMeta → LineMeta) : (s.modMeta a f).sched = s.sched := rfl
@[simp] theorem State.modMeta_elapse (s : State) (a : Nat) (f : LineMeta → LineMeta) : (s.modMeta a f).elapse = s.elapse := rfl
@[simp] theorem State.modMeta_grain (s : State) (a : Nat) (f : LineMeta → LineMeta) : (s.modMeta a f).grain = s.grain := rfl
@[simp] theorem State.modMeta_nextCore (s : State) (a : Nat) (f : LineMeta → LineMeta) : (s.modMeta a f).nextCore = s.nextCore := rfl
@[simp] theorem State.modMeta_issuedIn (s : State) (a : Nat) (f : LineMeta → LineMeta) : (s.modMeta a f).issuedIn = s.issuedIn := rfl
@[simp] theorem State.modMeta_nextId (s : State) (a : Nat) (f : LineMeta → LineMeta) : (s.modMeta a f).nextId = s.nextId := rfl
@[simp] theorem State.modMeta_freeTick (s : State) (a : Nat) (f : LineMeta → LineMeta) : (s.modMeta a f).freeTick = s.freeTick := rfl
@[simp] theorem State.modMeta_items (s : State) (a : Nat) (f : LineMeta → LineMeta) : (s.modMeta a f).items = s.items := rfl
@[simp] theorem State.modMeta_groups (s : State) (a : Nat) (f : LineMeta → LineMeta) : (s.modMeta a f).groups = s.groups := rfl
@[simp] theorem State.modMeta_pkgs (s : State) (a : Nat) (f : LineMeta → LineMeta) : (s.modMeta a f).pkgs = s.pkgs := rfl
@[simp] theorem State.modMeta_gmem (s : State) (a : Nat) (f : LineMeta → LineMeta) : (s.modMeta a f).gmem = s.gmem := rfl
@[simp] theorem State.modMeta_pageCmp (s : State) (a : Nat) (f : LineMeta → LineMeta) : (s.modMeta a f).pageCmp = s.pageCmp := rfl
@[simp] theorem State.modMeta_hmem (s : State) (a : Nat) (f : LineMeta → LineMeta) : (s.modMeta a f).hmem = s.hmem := rfl

@[simp] theorem State.setTag_cur (s : State) (a : Nat) (v : Bool) : (s.setTag a v).cur = s.cur := rfl
@[simp] theorem State.setTag_fetched (s : State) (a : Nat) (v : Bool) : (s.setTag a v).fetched = s.fetched := rfl
@[simp] theorem State.setTag_turn (s : State) (a : Nat) (v : Bool) : (s.setTag a v).turn = s.turn := rfl
@[simp] theorem State.setTag_agenda (s : State) (a : Nat) (v : Bool) : (s.setTag a v).agenda = s.agenda := rfl
@[simp] theorem State.setTag_inbox (s : State) (a : Nat) (v : Bool) : (s.setTag a v).inbox = s.inbox := rfl
@[simp] theorem State.setTag_sched (s : State) (a : Nat) (v : Bool) : (s.setTag a v).sched = s.sched := rfl
@[simp] theorem State.setTag_elapse (s : State) (a : Nat) (v : Bool) : (s.setTag a v).elapse = s.elapse := rfl
@[simp] theorem State.setTag_grain (s : State) (a : Nat) (v : Bool) : (s.setTag a v).grain = s.grain := rfl
@[simp] theorem State.setTag_nextCore (s : State) (a : Nat) (v : Bool) : (s.setTag a v).nextCore = s.nextCore := rfl
@[simp] theorem State.setTag_issuedIn (s : State) (a : Nat) (v : Bool) : (s.setTag a v).issuedIn = s.issuedIn := rfl
@[simp] theorem State.setTag_nextId (s : State) (a : Nat) (v : Bool) : (s.setTag a v).nextId = s.nextId := rfl
@[simp] theorem State.setTag_freeTick (s : State) (a : Nat) (v : Bool) : (s.setTag a v).freeTick = s.freeTick := rfl
@[simp] theorem State.setTag_items (s : State) (a : Nat) (v : Bool) : (s.setTag a v).items = s.items := rfl
@[simp] theorem State.setTag_groups (s : State) (a : Nat) (v : Bool) : (s.setTag a v).groups = s.groups := rfl
@[simp] theorem State.setTag_pkgs (s : State) (a : Nat) (v : Bool) : (s.setTag a v).pkgs = s.pkgs := rfl
@[simp] theorem State.setTag_gmem (s : State) (a : Nat) (v : Bool) : (s.setTag a v).gmem = s.gmem := rfl
@[simp] theorem State.setTag_pageCmp (s : State) (a : Nat) (v : Bool) : (s.setTag a v).pageCmp = s.pageCmp := rfl
@[simp] theorem State.setTag_hmem (s : State) (a : Nat) (v : Bool) : (s.setTag a v).hmem = s.hmem := rfl

/-! ## A group -/

@[simp] theorem Group.modThread_pkg (g : Group) (n : Nat) (f : Thread → Thread) : (g.modThread n f).pkg = g.pkg := rfl
@[simp] theorem Group.modThread_launch (g : Group) (n : Nat) (f : Thread → Thread) : (g.modThread n f).launch = g.launch := rfl
@[simp] theorem Group.modThread_lr (g : Group) (n : Nat) (f : Thread → Thread) : (g.modThread n f).lr = g.lr := rfl
@[simp] theorem Group.modThread_leaf (g : Group) (n : Nat) (f : Thread → Thread) : (g.modThread n f).leaf = g.leaf := rfl
@[simp] theorem Group.modThread_tenant (g : Group) (n : Nat) (f : Thread → Thread) : (g.modThread n f).tenant = g.tenant := rfl
@[simp] theorem Group.modThread_gidx (g : Group) (n : Nat) (f : Thread → Thread) : (g.modThread n f).gidx = g.gidx := rfl
@[simp] theorem Group.modThread_phase (g : Group) (n : Nat) (f : Thread → Thread) : (g.modThread n f).phase = g.phase := rfl
@[simp] theorem Group.modThread_frozen (g : Group) (n : Nat) (f : Thread → Thread) : (g.modThread n f).frozen = g.frozen := rfl
@[simp] theorem Group.modThread_stop (g : Group) (n : Nat) (f : Thread → Thread) : (g.modThread n f).stop = g.stop := rfl
@[simp] theorem Group.modThread_stopped (g : Group) (n : Nat) (f : Thread → Thread) : (g.modThread n f).stopped = g.stopped := rfl
@[simp] theorem Group.modThread_stepT (g : Group) (n : Nat) (f : Thread → Thread) : (g.modThread n f).stepT = g.stepT := rfl
@[simp] theorem Group.modThread_stepDepth (g : Group) (n : Nat) (f : Thread → Thread) : (g.modThread n f).stepDepth = g.stepDepth := rfl
@[simp] theorem Group.modThread_stepWait (g : Group) (n : Nat) (f : Thread → Thread) : (g.modThread n f).stepWait = g.stepWait := rfl
@[simp] theorem Group.modThread_gstored (g : Group) (n : Nat) (f : Thread → Thread) : (g.modThread n f).gstored = g.gstored := rfl
@[simp] theorem Group.modThread_barGen (g : Group) (n : Nat) (f : Thread → Thread) : (g.modThread n f).barGen = g.barGen := rfl
@[simp] theorem Group.modThread_placedAt (g : Group) (n : Nat) (f : Thread → Thread) : (g.modThread n f).placedAt = g.placedAt := rfl
@[simp] theorem Group.modThread_elapsed (g : Group) (n : Nat) (f : Thread → Thread) : (g.modThread n f).elapsed = g.elapsed := rfl
@[simp] theorem Group.modThread_saveBase (g : Group) (n : Nat) (f : Thread → Thread) : (g.modThread n f).saveBase = g.saveBase := rfl
@[simp] theorem Group.modThread_saves (g : Group) (n : Nat) (f : Thread → Thread) : (g.modThread n f).saves = g.saves := rfl
@[simp] theorem Group.modThread_drawn (g : Group) (n : Nat) (f : Thread → Thread) : (g.modThread n f).drawn = g.drawn := rfl
@[simp] theorem Group.modThread_shares (g : Group) (n : Nat) (f : Thread → Thread) : (g.modThread n f).shares = g.shares := rfl

@[simp] theorem Group.modShare_pkg (g : Group) (j : Nat) (f : Share → Share) : (g.modShare j f).pkg = g.pkg := rfl
@[simp] theorem Group.modShare_launch (g : Group) (j : Nat) (f : Share → Share) : (g.modShare j f).launch = g.launch := rfl
@[simp] theorem Group.modShare_lr (g : Group) (j : Nat) (f : Share → Share) : (g.modShare j f).lr = g.lr := rfl
@[simp] theorem Group.modShare_leaf (g : Group) (j : Nat) (f : Share → Share) : (g.modShare j f).leaf = g.leaf := rfl
@[simp] theorem Group.modShare_tenant (g : Group) (j : Nat) (f : Share → Share) : (g.modShare j f).tenant = g.tenant := rfl
@[simp] theorem Group.modShare_gidx (g : Group) (j : Nat) (f : Share → Share) : (g.modShare j f).gidx = g.gidx := rfl
@[simp] theorem Group.modShare_phase (g : Group) (j : Nat) (f : Share → Share) : (g.modShare j f).phase = g.phase := rfl
@[simp] theorem Group.modShare_frozen (g : Group) (j : Nat) (f : Share → Share) : (g.modShare j f).frozen = g.frozen := rfl
@[simp] theorem Group.modShare_stop (g : Group) (j : Nat) (f : Share → Share) : (g.modShare j f).stop = g.stop := rfl
@[simp] theorem Group.modShare_stopped (g : Group) (j : Nat) (f : Share → Share) : (g.modShare j f).stopped = g.stopped := rfl
@[simp] theorem Group.modShare_stepT (g : Group) (j : Nat) (f : Share → Share) : (g.modShare j f).stepT = g.stepT := rfl
@[simp] theorem Group.modShare_stepDepth (g : Group) (j : Nat) (f : Share → Share) : (g.modShare j f).stepDepth = g.stepDepth := rfl
@[simp] theorem Group.modShare_stepWait (g : Group) (j : Nat) (f : Share → Share) : (g.modShare j f).stepWait = g.stepWait := rfl
@[simp] theorem Group.modShare_gstored (g : Group) (j : Nat) (f : Share → Share) : (g.modShare j f).gstored = g.gstored := rfl
@[simp] theorem Group.modShare_barGen (g : Group) (j : Nat) (f : Share → Share) : (g.modShare j f).barGen = g.barGen := rfl
@[simp] theorem Group.modShare_placedAt (g : Group) (j : Nat) (f : Share → Share) : (g.modShare j f).placedAt = g.placedAt := rfl
@[simp] theorem Group.modShare_elapsed (g : Group) (j : Nat) (f : Share → Share) : (g.modShare j f).elapsed = g.elapsed := rfl
@[simp] theorem Group.modShare_saveBase (g : Group) (j : Nat) (f : Share → Share) : (g.modShare j f).saveBase = g.saveBase := rfl
@[simp] theorem Group.modShare_saves (g : Group) (j : Nat) (f : Share → Share) : (g.modShare j f).saves = g.saves := rfl
@[simp] theorem Group.modShare_drawn (g : Group) (j : Nat) (f : Share → Share) : (g.modShare j f).drawn = g.drawn := rfl
@[simp] theorem Group.modShare_threads (g : Group) (j : Nat) (f : Share → Share) : (g.modShare j f).threads = g.threads := rfl

@[simp] theorem Group.wrK_pkg (g : Group) (n : Nat) (v : DWord) : (g.wrK n v).pkg = g.pkg := rfl
@[simp] theorem Group.wrK_launch (g : Group) (n : Nat) (v : DWord) : (g.wrK n v).launch = g.launch := rfl
@[simp] theorem Group.wrK_lr (g : Group) (n : Nat) (v : DWord) : (g.wrK n v).lr = g.lr := rfl
@[simp] theorem Group.wrK_leaf (g : Group) (n : Nat) (v : DWord) : (g.wrK n v).leaf = g.leaf := rfl
@[simp] theorem Group.wrK_tenant (g : Group) (n : Nat) (v : DWord) : (g.wrK n v).tenant = g.tenant := rfl
@[simp] theorem Group.wrK_gidx (g : Group) (n : Nat) (v : DWord) : (g.wrK n v).gidx = g.gidx := rfl
@[simp] theorem Group.wrK_phase (g : Group) (n : Nat) (v : DWord) : (g.wrK n v).phase = g.phase := rfl
@[simp] theorem Group.wrK_frozen (g : Group) (n : Nat) (v : DWord) : (g.wrK n v).frozen = g.frozen := rfl
@[simp] theorem Group.wrK_stop (g : Group) (n : Nat) (v : DWord) : (g.wrK n v).stop = g.stop := rfl
@[simp] theorem Group.wrK_stopped (g : Group) (n : Nat) (v : DWord) : (g.wrK n v).stopped = g.stopped := rfl
@[simp] theorem Group.wrK_stepT (g : Group) (n : Nat) (v : DWord) : (g.wrK n v).stepT = g.stepT := rfl
@[simp] theorem Group.wrK_stepDepth (g : Group) (n : Nat) (v : DWord) : (g.wrK n v).stepDepth = g.stepDepth := rfl
@[simp] theorem Group.wrK_stepWait (g : Group) (n : Nat) (v : DWord) : (g.wrK n v).stepWait = g.stepWait := rfl
@[simp] theorem Group.wrK_gstored (g : Group) (n : Nat) (v : DWord) : (g.wrK n v).gstored = g.gstored := rfl
@[simp] theorem Group.wrK_barGen (g : Group) (n : Nat) (v : DWord) : (g.wrK n v).barGen = g.barGen := rfl
@[simp] theorem Group.wrK_placedAt (g : Group) (n : Nat) (v : DWord) : (g.wrK n v).placedAt = g.placedAt := rfl
@[simp] theorem Group.wrK_elapsed (g : Group) (n : Nat) (v : DWord) : (g.wrK n v).elapsed = g.elapsed := rfl
@[simp] theorem Group.wrK_saveBase (g : Group) (n : Nat) (v : DWord) : (g.wrK n v).saveBase = g.saveBase := rfl
@[simp] theorem Group.wrK_saves (g : Group) (n : Nat) (v : DWord) : (g.wrK n v).saves = g.saves := rfl
@[simp] theorem Group.wrK_drawn (g : Group) (n : Nat) (v : DWord) : (g.wrK n v).drawn = g.drawn := rfl
@[simp] theorem Group.wrK_threads (g : Group) (n : Nat) (v : DWord) : (g.wrK n v).threads = g.threads := rfl

/-! ## A thread -/

@[simp] theorem Thread.wrAbs_exited (t : Thread) (r : Nat) (v : Word) : (t.wrAbs r v).exited = t.exited := rfl
@[simp] theorem Thread.wrAbs_park (t : Thread) (r : Nat) (v : Word) : (t.wrAbs r v).park = t.park := rfl
@[simp] theorem Thread.wrAbs_pc (t : Thread) (r : Nat) (v : Word) : (t.wrAbs r v).pc = t.pc := rfl
@[simp] theorem Thread.wrAbs_pend (t : Thread) (r : Nat) (v : Word) : (t.wrAbs r v).pend = t.pend := rfl
@[simp] theorem Thread.wrAbs_kpend (t : Thread) (r : Nat) (v : Word) : (t.wrAbs r v).kpend = t.kpend := rfl
@[simp] theorem Thread.wrAbs_wbase (t : Thread) (r : Nat) (v : Word) : (t.wrAbs r v).wbase = t.wbase := rfl
@[simp] theorem Thread.wrAbs_preds (t : Thread) (r : Nat) (v : Word) : (t.wrAbs r v).preds = t.preds := rfl
@[simp] theorem Thread.wrAbs_handles (t : Thread) (r : Nat) (v : Word) : (t.wrAbs r v).handles = t.handles := rfl
@[simp] theorem Thread.wrAbs_rs (t : Thread) (r : Nat) (v : Word) : (t.wrAbs r v).rs = t.rs := rfl
@[simp] theorem Thread.wrAbs_spills (t : Thread) (r : Nat) (v : Word) : (t.wrAbs r v).spills = t.spills := rfl
@[simp] theorem Thread.wrAbs_outst (t : Thread) (r : Nat) (v : Word) : (t.wrAbs r v).outst = t.outst := rfl
@[simp] theorem Thread.wrAbs_prio (t : Thread) (r : Nat) (v : Word) : (t.wrAbs r v).prio = t.prio := rfl
@[simp] theorem Thread.wrAbs_demoted (t : Thread) (r : Nat) (v : Word) : (t.wrAbs r v).demoted = t.demoted := rfl
@[simp] theorem Thread.wrAbs_demLeft (t : Thread) (r : Nat) (v : Word) : (t.wrAbs r v).demLeft = t.demLeft := rfl
@[simp] theorem Thread.wrAbs_idle (t : Thread) (r : Nat) (v : Word) : (t.wrAbs r v).idle = t.idle := rfl
@[simp] theorem Thread.wrAbs_promoted (t : Thread) (r : Nat) (v : Word) : (t.wrAbs r v).promoted = t.promoted := rfl
@[simp] theorem Thread.wrAbs_since (t : Thread) (r : Nat) (v : Word) : (t.wrAbs r v).since = t.since := rfl
@[simp] theorem Thread.wrAbs_rep (t : Thread) (r : Nat) (v : Word) : (t.wrAbs r v).rep = t.rep := rfl
@[simp] theorem Thread.wrAbs_fmode (t : Thread) (r : Nat) (v : Word) : (t.wrAbs r v).fmode = t.fmode := rfl
@[simp] theorem Thread.wrAbs_fflags (t : Thread) (r : Nat) (v : Word) : (t.wrAbs r v).fflags = t.fflags := rfl
@[simp] theorem Thread.wrAbs_seed (t : Thread) (r : Nat) (v : Word) : (t.wrAbs r v).seed = t.seed := rfl
@[simp] theorem Thread.wrAbs_mprg (t : Thread) (r : Nat) (v : Word) : (t.wrAbs r v).mprg = t.mprg := rfl
@[simp] theorem Thread.wrAbs_trapc (t : Thread) (r : Nat) (v : Word) : (t.wrAbs r v).trapc = t.trapc := rfl
@[simp] theorem Thread.wrAbs_trappc (t : Thread) (r : Nat) (v : Word) : (t.wrAbs r v).trappc = t.trappc := rfl
@[simp] theorem Thread.wrAbs_trapva (t : Thread) (r : Nat) (v : Word) : (t.wrAbs r v).trapva = t.trapva := rfl
@[simp] theorem Thread.wrAbs_depth (t : Thread) (r : Nat) (v : Word) : (t.wrAbs r v).depth = t.depth := rfl
@[simp] theorem Thread.wrAbs_otrapc (t : Thread) (r : Nat) (v : Word) : (t.wrAbs r v).otrapc = t.otrapc := rfl
@[simp] theorem Thread.wrAbs_otrappc (t : Thread) (r : Nat) (v : Word) : (t.wrAbs r v).otrappc = t.otrappc := rfl
@[simp] theorem Thread.wrAbs_otrapva (t : Thread) (r : Nat) (v : Word) : (t.wrAbs r v).otrapva = t.otrapva := rfl
@[simp] theorem Thread.wrAbs_tbhi (t : Thread) (r : Nat) (v : Word) : (t.wrAbs r v).tbhi = t.tbhi := rfl
@[simp] theorem Thread.wrAbs_log (t : Thread) (r : Nat) (v : Word) : (t.wrAbs r v).log = t.log := rfl
@[simp] theorem Thread.wrAbs_wait (t : Thread) (r : Nat) (v : Word) : (t.wrAbs r v).wait = t.wait := rfl
@[simp] theorem Thread.wrAbs_skipBp (t : Thread) (r : Nat) (v : Word) : (t.wrAbs r v).skipBp = t.skipBp := rfl
@[simp] theorem Thread.wrAbs_engFail (t : Thread) (r : Nat) (v : Word) : (t.wrAbs r v).engFail = t.engFail := rfl
@[simp] theorem Thread.wrAbs_railUse (t : Thread) (r : Nat) (v : Word) : (t.wrAbs r v).railUse = t.railUse := rfl
@[simp] theorem Thread.wrAbs_place (t : Thread) (r : Nat) (v : Word) : (t.wrAbs r v).place = t.place := rfl

@[simp] theorem Thread.wr_exited (t : Thread) (i : Nat) (v : Word) : (t.wr i v).exited = t.exited := rfl
@[simp] theorem Thread.wr_park (t : Thread) (i : Nat) (v : Word) : (t.wr i v).park = t.park := rfl
@[simp] theorem Thread.wr_pc (t : Thread) (i : Nat) (v : Word) : (t.wr i v).pc = t.pc := rfl
@[simp] theorem Thread.wr_pend (t : Thread) (i : Nat) (v : Word) : (t.wr i v).pend = t.pend := rfl
@[simp] theorem Thread.wr_kpend (t : Thread) (i : Nat) (v : Word) : (t.wr i v).kpend = t.kpend := rfl
@[simp] theorem Thread.wr_wbase (t : Thread) (i : Nat) (v : Word) : (t.wr i v).wbase = t.wbase := rfl
@[simp] theorem Thread.wr_preds (t : Thread) (i : Nat) (v : Word) : (t.wr i v).preds = t.preds := rfl
@[simp] theorem Thread.wr_handles (t : Thread) (i : Nat) (v : Word) : (t.wr i v).handles = t.handles := rfl
@[simp] theorem Thread.wr_rs (t : Thread) (i : Nat) (v : Word) : (t.wr i v).rs = t.rs := rfl
@[simp] theorem Thread.wr_spills (t : Thread) (i : Nat) (v : Word) : (t.wr i v).spills = t.spills := rfl
@[simp] theorem Thread.wr_outst (t : Thread) (i : Nat) (v : Word) : (t.wr i v).outst = t.outst := rfl
@[simp] theorem Thread.wr_prio (t : Thread) (i : Nat) (v : Word) : (t.wr i v).prio = t.prio := rfl
@[simp] theorem Thread.wr_demoted (t : Thread) (i : Nat) (v : Word) : (t.wr i v).demoted = t.demoted := rfl
@[simp] theorem Thread.wr_demLeft (t : Thread) (i : Nat) (v : Word) : (t.wr i v).demLeft = t.demLeft := rfl
@[simp] theorem Thread.wr_idle (t : Thread) (i : Nat) (v : Word) : (t.wr i v).idle = t.idle := rfl
@[simp] theorem Thread.wr_promoted (t : Thread) (i : Nat) (v : Word) : (t.wr i v).promoted = t.promoted := rfl
@[simp] theorem Thread.wr_since (t : Thread) (i : Nat) (v : Word) : (t.wr i v).since = t.since := rfl
@[simp] theorem Thread.wr_rep (t : Thread) (i : Nat) (v : Word) : (t.wr i v).rep = t.rep := rfl
@[simp] theorem Thread.wr_fmode (t : Thread) (i : Nat) (v : Word) : (t.wr i v).fmode = t.fmode := rfl
@[simp] theorem Thread.wr_fflags (t : Thread) (i : Nat) (v : Word) : (t.wr i v).fflags = t.fflags := rfl
@[simp] theorem Thread.wr_seed (t : Thread) (i : Nat) (v : Word) : (t.wr i v).seed = t.seed := rfl
@[simp] theorem Thread.wr_mprg (t : Thread) (i : Nat) (v : Word) : (t.wr i v).mprg = t.mprg := rfl
@[simp] theorem Thread.wr_trapc (t : Thread) (i : Nat) (v : Word) : (t.wr i v).trapc = t.trapc := rfl
@[simp] theorem Thread.wr_trappc (t : Thread) (i : Nat) (v : Word) : (t.wr i v).trappc = t.trappc := rfl
@[simp] theorem Thread.wr_trapva (t : Thread) (i : Nat) (v : Word) : (t.wr i v).trapva = t.trapva := rfl
@[simp] theorem Thread.wr_depth (t : Thread) (i : Nat) (v : Word) : (t.wr i v).depth = t.depth := rfl
@[simp] theorem Thread.wr_otrapc (t : Thread) (i : Nat) (v : Word) : (t.wr i v).otrapc = t.otrapc := rfl
@[simp] theorem Thread.wr_otrappc (t : Thread) (i : Nat) (v : Word) : (t.wr i v).otrappc = t.otrappc := rfl
@[simp] theorem Thread.wr_otrapva (t : Thread) (i : Nat) (v : Word) : (t.wr i v).otrapva = t.otrapva := rfl
@[simp] theorem Thread.wr_tbhi (t : Thread) (i : Nat) (v : Word) : (t.wr i v).tbhi = t.tbhi := rfl
@[simp] theorem Thread.wr_log (t : Thread) (i : Nat) (v : Word) : (t.wr i v).log = t.log := rfl
@[simp] theorem Thread.wr_wait (t : Thread) (i : Nat) (v : Word) : (t.wr i v).wait = t.wait := rfl
@[simp] theorem Thread.wr_skipBp (t : Thread) (i : Nat) (v : Word) : (t.wr i v).skipBp = t.skipBp := rfl
@[simp] theorem Thread.wr_engFail (t : Thread) (i : Nat) (v : Word) : (t.wr i v).engFail = t.engFail := rfl
@[simp] theorem Thread.wr_railUse (t : Thread) (i : Nat) (v : Word) : (t.wr i v).railUse = t.railUse := rfl
@[simp] theorem Thread.wr_place (t : Thread) (i : Nat) (v : Word) : (t.wr i v).place = t.place := rfl

@[simp] theorem Thread.wrAbs64_exited (t : Thread) (r : Nat) (v : DWord) : (t.wrAbs64 r v).exited = t.exited := rfl
@[simp] theorem Thread.wrAbs64_park (t : Thread) (r : Nat) (v : DWord) : (t.wrAbs64 r v).park = t.park := rfl
@[simp] theorem Thread.wrAbs64_pc (t : Thread) (r : Nat) (v : DWord) : (t.wrAbs64 r v).pc = t.pc := rfl
@[simp] theorem Thread.wrAbs64_pend (t : Thread) (r : Nat) (v : DWord) : (t.wrAbs64 r v).pend = t.pend := rfl
@[simp] theorem Thread.wrAbs64_kpend (t : Thread) (r : Nat) (v : DWord) : (t.wrAbs64 r v).kpend = t.kpend := rfl
@[simp] theorem Thread.wrAbs64_wbase (t : Thread) (r : Nat) (v : DWord) : (t.wrAbs64 r v).wbase = t.wbase := rfl
@[simp] theorem Thread.wrAbs64_preds (t : Thread) (r : Nat) (v : DWord) : (t.wrAbs64 r v).preds = t.preds := rfl
@[simp] theorem Thread.wrAbs64_handles (t : Thread) (r : Nat) (v : DWord) : (t.wrAbs64 r v).handles = t.handles := rfl
@[simp] theorem Thread.wrAbs64_rs (t : Thread) (r : Nat) (v : DWord) : (t.wrAbs64 r v).rs = t.rs := rfl
@[simp] theorem Thread.wrAbs64_spills (t : Thread) (r : Nat) (v : DWord) : (t.wrAbs64 r v).spills = t.spills := rfl
@[simp] theorem Thread.wrAbs64_outst (t : Thread) (r : Nat) (v : DWord) : (t.wrAbs64 r v).outst = t.outst := rfl
@[simp] theorem Thread.wrAbs64_prio (t : Thread) (r : Nat) (v : DWord) : (t.wrAbs64 r v).prio = t.prio := rfl
@[simp] theorem Thread.wrAbs64_demoted (t : Thread) (r : Nat) (v : DWord) : (t.wrAbs64 r v).demoted = t.demoted := rfl
@[simp] theorem Thread.wrAbs64_demLeft (t : Thread) (r : Nat) (v : DWord) : (t.wrAbs64 r v).demLeft = t.demLeft := rfl
@[simp] theorem Thread.wrAbs64_idle (t : Thread) (r : Nat) (v : DWord) : (t.wrAbs64 r v).idle = t.idle := rfl
@[simp] theorem Thread.wrAbs64_promoted (t : Thread) (r : Nat) (v : DWord) : (t.wrAbs64 r v).promoted = t.promoted := rfl
@[simp] theorem Thread.wrAbs64_since (t : Thread) (r : Nat) (v : DWord) : (t.wrAbs64 r v).since = t.since := rfl
@[simp] theorem Thread.wrAbs64_rep (t : Thread) (r : Nat) (v : DWord) : (t.wrAbs64 r v).rep = t.rep := rfl
@[simp] theorem Thread.wrAbs64_fmode (t : Thread) (r : Nat) (v : DWord) : (t.wrAbs64 r v).fmode = t.fmode := rfl
@[simp] theorem Thread.wrAbs64_fflags (t : Thread) (r : Nat) (v : DWord) : (t.wrAbs64 r v).fflags = t.fflags := rfl
@[simp] theorem Thread.wrAbs64_seed (t : Thread) (r : Nat) (v : DWord) : (t.wrAbs64 r v).seed = t.seed := rfl
@[simp] theorem Thread.wrAbs64_mprg (t : Thread) (r : Nat) (v : DWord) : (t.wrAbs64 r v).mprg = t.mprg := rfl
@[simp] theorem Thread.wrAbs64_trapc (t : Thread) (r : Nat) (v : DWord) : (t.wrAbs64 r v).trapc = t.trapc := rfl
@[simp] theorem Thread.wrAbs64_trappc (t : Thread) (r : Nat) (v : DWord) : (t.wrAbs64 r v).trappc = t.trappc := rfl
@[simp] theorem Thread.wrAbs64_trapva (t : Thread) (r : Nat) (v : DWord) : (t.wrAbs64 r v).trapva = t.trapva := rfl
@[simp] theorem Thread.wrAbs64_depth (t : Thread) (r : Nat) (v : DWord) : (t.wrAbs64 r v).depth = t.depth := rfl
@[simp] theorem Thread.wrAbs64_otrapc (t : Thread) (r : Nat) (v : DWord) : (t.wrAbs64 r v).otrapc = t.otrapc := rfl
@[simp] theorem Thread.wrAbs64_otrappc (t : Thread) (r : Nat) (v : DWord) : (t.wrAbs64 r v).otrappc = t.otrappc := rfl
@[simp] theorem Thread.wrAbs64_otrapva (t : Thread) (r : Nat) (v : DWord) : (t.wrAbs64 r v).otrapva = t.otrapva := rfl
@[simp] theorem Thread.wrAbs64_tbhi (t : Thread) (r : Nat) (v : DWord) : (t.wrAbs64 r v).tbhi = t.tbhi := rfl
@[simp] theorem Thread.wrAbs64_log (t : Thread) (r : Nat) (v : DWord) : (t.wrAbs64 r v).log = t.log := rfl
@[simp] theorem Thread.wrAbs64_wait (t : Thread) (r : Nat) (v : DWord) : (t.wrAbs64 r v).wait = t.wait := rfl
@[simp] theorem Thread.wrAbs64_skipBp (t : Thread) (r : Nat) (v : DWord) : (t.wrAbs64 r v).skipBp = t.skipBp := rfl
@[simp] theorem Thread.wrAbs64_engFail (t : Thread) (r : Nat) (v : DWord) : (t.wrAbs64 r v).engFail = t.engFail := rfl
@[simp] theorem Thread.wrAbs64_railUse (t : Thread) (r : Nat) (v : DWord) : (t.wrAbs64 r v).railUse = t.railUse := rfl
@[simp] theorem Thread.wrAbs64_place (t : Thread) (r : Nat) (v : DWord) : (t.wrAbs64 r v).place = t.place := rfl

@[simp] theorem Thread.wr64_exited (t : Thread) (i : Nat) (v : DWord) : (t.wr64 i v).exited = t.exited := rfl
@[simp] theorem Thread.wr64_park (t : Thread) (i : Nat) (v : DWord) : (t.wr64 i v).park = t.park := rfl
@[simp] theorem Thread.wr64_pc (t : Thread) (i : Nat) (v : DWord) : (t.wr64 i v).pc = t.pc := rfl
@[simp] theorem Thread.wr64_pend (t : Thread) (i : Nat) (v : DWord) : (t.wr64 i v).pend = t.pend := rfl
@[simp] theorem Thread.wr64_kpend (t : Thread) (i : Nat) (v : DWord) : (t.wr64 i v).kpend = t.kpend := rfl
@[simp] theorem Thread.wr64_wbase (t : Thread) (i : Nat) (v : DWord) : (t.wr64 i v).wbase = t.wbase := rfl
@[simp] theorem Thread.wr64_preds (t : Thread) (i : Nat) (v : DWord) : (t.wr64 i v).preds = t.preds := rfl
@[simp] theorem Thread.wr64_handles (t : Thread) (i : Nat) (v : DWord) : (t.wr64 i v).handles = t.handles := rfl
@[simp] theorem Thread.wr64_rs (t : Thread) (i : Nat) (v : DWord) : (t.wr64 i v).rs = t.rs := rfl
@[simp] theorem Thread.wr64_spills (t : Thread) (i : Nat) (v : DWord) : (t.wr64 i v).spills = t.spills := rfl
@[simp] theorem Thread.wr64_outst (t : Thread) (i : Nat) (v : DWord) : (t.wr64 i v).outst = t.outst := rfl
@[simp] theorem Thread.wr64_prio (t : Thread) (i : Nat) (v : DWord) : (t.wr64 i v).prio = t.prio := rfl
@[simp] theorem Thread.wr64_demoted (t : Thread) (i : Nat) (v : DWord) : (t.wr64 i v).demoted = t.demoted := rfl
@[simp] theorem Thread.wr64_demLeft (t : Thread) (i : Nat) (v : DWord) : (t.wr64 i v).demLeft = t.demLeft := rfl
@[simp] theorem Thread.wr64_idle (t : Thread) (i : Nat) (v : DWord) : (t.wr64 i v).idle = t.idle := rfl
@[simp] theorem Thread.wr64_promoted (t : Thread) (i : Nat) (v : DWord) : (t.wr64 i v).promoted = t.promoted := rfl
@[simp] theorem Thread.wr64_since (t : Thread) (i : Nat) (v : DWord) : (t.wr64 i v).since = t.since := rfl
@[simp] theorem Thread.wr64_rep (t : Thread) (i : Nat) (v : DWord) : (t.wr64 i v).rep = t.rep := rfl
@[simp] theorem Thread.wr64_fmode (t : Thread) (i : Nat) (v : DWord) : (t.wr64 i v).fmode = t.fmode := rfl
@[simp] theorem Thread.wr64_fflags (t : Thread) (i : Nat) (v : DWord) : (t.wr64 i v).fflags = t.fflags := rfl
@[simp] theorem Thread.wr64_seed (t : Thread) (i : Nat) (v : DWord) : (t.wr64 i v).seed = t.seed := rfl
@[simp] theorem Thread.wr64_mprg (t : Thread) (i : Nat) (v : DWord) : (t.wr64 i v).mprg = t.mprg := rfl
@[simp] theorem Thread.wr64_trapc (t : Thread) (i : Nat) (v : DWord) : (t.wr64 i v).trapc = t.trapc := rfl
@[simp] theorem Thread.wr64_trappc (t : Thread) (i : Nat) (v : DWord) : (t.wr64 i v).trappc = t.trappc := rfl
@[simp] theorem Thread.wr64_trapva (t : Thread) (i : Nat) (v : DWord) : (t.wr64 i v).trapva = t.trapva := rfl
@[simp] theorem Thread.wr64_depth (t : Thread) (i : Nat) (v : DWord) : (t.wr64 i v).depth = t.depth := rfl
@[simp] theorem Thread.wr64_otrapc (t : Thread) (i : Nat) (v : DWord) : (t.wr64 i v).otrapc = t.otrapc := rfl
@[simp] theorem Thread.wr64_otrappc (t : Thread) (i : Nat) (v : DWord) : (t.wr64 i v).otrappc = t.otrappc := rfl
@[simp] theorem Thread.wr64_otrapva (t : Thread) (i : Nat) (v : DWord) : (t.wr64 i v).otrapva = t.otrapva := rfl
@[simp] theorem Thread.wr64_tbhi (t : Thread) (i : Nat) (v : DWord) : (t.wr64 i v).tbhi = t.tbhi := rfl
@[simp] theorem Thread.wr64_log (t : Thread) (i : Nat) (v : DWord) : (t.wr64 i v).log = t.log := rfl
@[simp] theorem Thread.wr64_wait (t : Thread) (i : Nat) (v : DWord) : (t.wr64 i v).wait = t.wait := rfl
@[simp] theorem Thread.wr64_skipBp (t : Thread) (i : Nat) (v : DWord) : (t.wr64 i v).skipBp = t.skipBp := rfl
@[simp] theorem Thread.wr64_engFail (t : Thread) (i : Nat) (v : DWord) : (t.wr64 i v).engFail = t.engFail := rfl
@[simp] theorem Thread.wr64_railUse (t : Thread) (i : Nat) (v : DWord) : (t.wr64 i v).railUse = t.railUse := rfl
@[simp] theorem Thread.wr64_place (t : Thread) (i : Nat) (v : DWord) : (t.wr64 i v).place = t.place := rfl

@[simp] theorem Thread.setTagAbs_exited (t : Thread) (r : Nat) (v : Bool) : (t.setTagAbs r v).exited = t.exited := rfl
@[simp] theorem Thread.setTagAbs_park (t : Thread) (r : Nat) (v : Bool) : (t.setTagAbs r v).park = t.park := rfl
@[simp] theorem Thread.setTagAbs_pc (t : Thread) (r : Nat) (v : Bool) : (t.setTagAbs r v).pc = t.pc := rfl
@[simp] theorem Thread.setTagAbs_regs (t : Thread) (r : Nat) (v : Bool) : (t.setTagAbs r v).regs = t.regs := rfl
@[simp] theorem Thread.setTagAbs_pend (t : Thread) (r : Nat) (v : Bool) : (t.setTagAbs r v).pend = t.pend := rfl
@[simp] theorem Thread.setTagAbs_kpend (t : Thread) (r : Nat) (v : Bool) : (t.setTagAbs r v).kpend = t.kpend := rfl
@[simp] theorem Thread.setTagAbs_wbase (t : Thread) (r : Nat) (v : Bool) : (t.setTagAbs r v).wbase = t.wbase := rfl
@[simp] theorem Thread.setTagAbs_preds (t : Thread) (r : Nat) (v : Bool) : (t.setTagAbs r v).preds = t.preds := rfl
@[simp] theorem Thread.setTagAbs_handles (t : Thread) (r : Nat) (v : Bool) : (t.setTagAbs r v).handles = t.handles := rfl
@[simp] theorem Thread.setTagAbs_rs (t : Thread) (r : Nat) (v : Bool) : (t.setTagAbs r v).rs = t.rs := rfl
@[simp] theorem Thread.setTagAbs_spills (t : Thread) (r : Nat) (v : Bool) : (t.setTagAbs r v).spills = t.spills := rfl
@[simp] theorem Thread.setTagAbs_outst (t : Thread) (r : Nat) (v : Bool) : (t.setTagAbs r v).outst = t.outst := rfl
@[simp] theorem Thread.setTagAbs_prio (t : Thread) (r : Nat) (v : Bool) : (t.setTagAbs r v).prio = t.prio := rfl
@[simp] theorem Thread.setTagAbs_demoted (t : Thread) (r : Nat) (v : Bool) : (t.setTagAbs r v).demoted = t.demoted := rfl
@[simp] theorem Thread.setTagAbs_demLeft (t : Thread) (r : Nat) (v : Bool) : (t.setTagAbs r v).demLeft = t.demLeft := rfl
@[simp] theorem Thread.setTagAbs_idle (t : Thread) (r : Nat) (v : Bool) : (t.setTagAbs r v).idle = t.idle := rfl
@[simp] theorem Thread.setTagAbs_promoted (t : Thread) (r : Nat) (v : Bool) : (t.setTagAbs r v).promoted = t.promoted := rfl
@[simp] theorem Thread.setTagAbs_since (t : Thread) (r : Nat) (v : Bool) : (t.setTagAbs r v).since = t.since := rfl
@[simp] theorem Thread.setTagAbs_rep (t : Thread) (r : Nat) (v : Bool) : (t.setTagAbs r v).rep = t.rep := rfl
@[simp] theorem Thread.setTagAbs_fmode (t : Thread) (r : Nat) (v : Bool) : (t.setTagAbs r v).fmode = t.fmode := rfl
@[simp] theorem Thread.setTagAbs_fflags (t : Thread) (r : Nat) (v : Bool) : (t.setTagAbs r v).fflags = t.fflags := rfl
@[simp] theorem Thread.setTagAbs_seed (t : Thread) (r : Nat) (v : Bool) : (t.setTagAbs r v).seed = t.seed := rfl
@[simp] theorem Thread.setTagAbs_mprg (t : Thread) (r : Nat) (v : Bool) : (t.setTagAbs r v).mprg = t.mprg := rfl
@[simp] theorem Thread.setTagAbs_trapc (t : Thread) (r : Nat) (v : Bool) : (t.setTagAbs r v).trapc = t.trapc := rfl
@[simp] theorem Thread.setTagAbs_trappc (t : Thread) (r : Nat) (v : Bool) : (t.setTagAbs r v).trappc = t.trappc := rfl
@[simp] theorem Thread.setTagAbs_trapva (t : Thread) (r : Nat) (v : Bool) : (t.setTagAbs r v).trapva = t.trapva := rfl
@[simp] theorem Thread.setTagAbs_depth (t : Thread) (r : Nat) (v : Bool) : (t.setTagAbs r v).depth = t.depth := rfl
@[simp] theorem Thread.setTagAbs_otrapc (t : Thread) (r : Nat) (v : Bool) : (t.setTagAbs r v).otrapc = t.otrapc := rfl
@[simp] theorem Thread.setTagAbs_otrappc (t : Thread) (r : Nat) (v : Bool) : (t.setTagAbs r v).otrappc = t.otrappc := rfl
@[simp] theorem Thread.setTagAbs_otrapva (t : Thread) (r : Nat) (v : Bool) : (t.setTagAbs r v).otrapva = t.otrapva := rfl
@[simp] theorem Thread.setTagAbs_tbhi (t : Thread) (r : Nat) (v : Bool) : (t.setTagAbs r v).tbhi = t.tbhi := rfl
@[simp] theorem Thread.setTagAbs_log (t : Thread) (r : Nat) (v : Bool) : (t.setTagAbs r v).log = t.log := rfl
@[simp] theorem Thread.setTagAbs_wait (t : Thread) (r : Nat) (v : Bool) : (t.setTagAbs r v).wait = t.wait := rfl
@[simp] theorem Thread.setTagAbs_skipBp (t : Thread) (r : Nat) (v : Bool) : (t.setTagAbs r v).skipBp = t.skipBp := rfl
@[simp] theorem Thread.setTagAbs_engFail (t : Thread) (r : Nat) (v : Bool) : (t.setTagAbs r v).engFail = t.engFail := rfl
@[simp] theorem Thread.setTagAbs_railUse (t : Thread) (r : Nat) (v : Bool) : (t.setTagAbs r v).railUse = t.railUse := rfl
@[simp] theorem Thread.setTagAbs_place (t : Thread) (r : Nat) (v : Bool) : (t.setTagAbs r v).place = t.place := rfl

@[simp] theorem Thread.wrP_exited (t : Thread) (n : Nat) (v : BitVec 8) : (t.wrP n v).exited = t.exited := rfl
@[simp] theorem Thread.wrP_park (t : Thread) (n : Nat) (v : BitVec 8) : (t.wrP n v).park = t.park := rfl
@[simp] theorem Thread.wrP_pc (t : Thread) (n : Nat) (v : BitVec 8) : (t.wrP n v).pc = t.pc := rfl
@[simp] theorem Thread.wrP_regs (t : Thread) (n : Nat) (v : BitVec 8) : (t.wrP n v).regs = t.regs := rfl
@[simp] theorem Thread.wrP_tags (t : Thread) (n : Nat) (v : BitVec 8) : (t.wrP n v).tags = t.tags := rfl
@[simp] theorem Thread.wrP_pend (t : Thread) (n : Nat) (v : BitVec 8) : (t.wrP n v).pend = t.pend := rfl
@[simp] theorem Thread.wrP_kpend (t : Thread) (n : Nat) (v : BitVec 8) : (t.wrP n v).kpend = t.kpend := rfl
@[simp] theorem Thread.wrP_wbase (t : Thread) (n : Nat) (v : BitVec 8) : (t.wrP n v).wbase = t.wbase := rfl
@[simp] theorem Thread.wrP_handles (t : Thread) (n : Nat) (v : BitVec 8) : (t.wrP n v).handles = t.handles := rfl
@[simp] theorem Thread.wrP_rs (t : Thread) (n : Nat) (v : BitVec 8) : (t.wrP n v).rs = t.rs := rfl
@[simp] theorem Thread.wrP_spills (t : Thread) (n : Nat) (v : BitVec 8) : (t.wrP n v).spills = t.spills := rfl
@[simp] theorem Thread.wrP_outst (t : Thread) (n : Nat) (v : BitVec 8) : (t.wrP n v).outst = t.outst := rfl
@[simp] theorem Thread.wrP_prio (t : Thread) (n : Nat) (v : BitVec 8) : (t.wrP n v).prio = t.prio := rfl
@[simp] theorem Thread.wrP_demoted (t : Thread) (n : Nat) (v : BitVec 8) : (t.wrP n v).demoted = t.demoted := rfl
@[simp] theorem Thread.wrP_demLeft (t : Thread) (n : Nat) (v : BitVec 8) : (t.wrP n v).demLeft = t.demLeft := rfl
@[simp] theorem Thread.wrP_idle (t : Thread) (n : Nat) (v : BitVec 8) : (t.wrP n v).idle = t.idle := rfl
@[simp] theorem Thread.wrP_promoted (t : Thread) (n : Nat) (v : BitVec 8) : (t.wrP n v).promoted = t.promoted := rfl
@[simp] theorem Thread.wrP_since (t : Thread) (n : Nat) (v : BitVec 8) : (t.wrP n v).since = t.since := rfl
@[simp] theorem Thread.wrP_rep (t : Thread) (n : Nat) (v : BitVec 8) : (t.wrP n v).rep = t.rep := rfl
@[simp] theorem Thread.wrP_fmode (t : Thread) (n : Nat) (v : BitVec 8) : (t.wrP n v).fmode = t.fmode := rfl
@[simp] theorem Thread.wrP_fflags (t : Thread) (n : Nat) (v : BitVec 8) : (t.wrP n v).fflags = t.fflags := rfl
@[simp] theorem Thread.wrP_seed (t : Thread) (n : Nat) (v : BitVec 8) : (t.wrP n v).seed = t.seed := rfl
@[simp] theorem Thread.wrP_mprg (t : Thread) (n : Nat) (v : BitVec 8) : (t.wrP n v).mprg = t.mprg := rfl
@[simp] theorem Thread.wrP_trapc (t : Thread) (n : Nat) (v : BitVec 8) : (t.wrP n v).trapc = t.trapc := rfl
@[simp] theorem Thread.wrP_trappc (t : Thread) (n : Nat) (v : BitVec 8) : (t.wrP n v).trappc = t.trappc := rfl
@[simp] theorem Thread.wrP_trapva (t : Thread) (n : Nat) (v : BitVec 8) : (t.wrP n v).trapva = t.trapva := rfl
@[simp] theorem Thread.wrP_depth (t : Thread) (n : Nat) (v : BitVec 8) : (t.wrP n v).depth = t.depth := rfl
@[simp] theorem Thread.wrP_otrapc (t : Thread) (n : Nat) (v : BitVec 8) : (t.wrP n v).otrapc = t.otrapc := rfl
@[simp] theorem Thread.wrP_otrappc (t : Thread) (n : Nat) (v : BitVec 8) : (t.wrP n v).otrappc = t.otrappc := rfl
@[simp] theorem Thread.wrP_otrapva (t : Thread) (n : Nat) (v : BitVec 8) : (t.wrP n v).otrapva = t.otrapva := rfl
@[simp] theorem Thread.wrP_tbhi (t : Thread) (n : Nat) (v : BitVec 8) : (t.wrP n v).tbhi = t.tbhi := rfl
@[simp] theorem Thread.wrP_log (t : Thread) (n : Nat) (v : BitVec 8) : (t.wrP n v).log = t.log := rfl
@[simp] theorem Thread.wrP_wait (t : Thread) (n : Nat) (v : BitVec 8) : (t.wrP n v).wait = t.wait := rfl
@[simp] theorem Thread.wrP_skipBp (t : Thread) (n : Nat) (v : BitVec 8) : (t.wrP n v).skipBp = t.skipBp := rfl
@[simp] theorem Thread.wrP_engFail (t : Thread) (n : Nat) (v : BitVec 8) : (t.wrP n v).engFail = t.engFail := rfl
@[simp] theorem Thread.wrP_railUse (t : Thread) (n : Nat) (v : BitVec 8) : (t.wrP n v).railUse = t.railUse := rfl
@[simp] theorem Thread.wrP_place (t : Thread) (n : Nat) (v : BitVec 8) : (t.wrP n v).place = t.place := rfl

@[simp] theorem Thread.wrH_exited (t : Thread) (n op : Nat) : (t.wrH n op).exited = t.exited := rfl
@[simp] theorem Thread.wrH_park (t : Thread) (n op : Nat) : (t.wrH n op).park = t.park := rfl
@[simp] theorem Thread.wrH_pc (t : Thread) (n op : Nat) : (t.wrH n op).pc = t.pc := rfl
@[simp] theorem Thread.wrH_regs (t : Thread) (n op : Nat) : (t.wrH n op).regs = t.regs := rfl
@[simp] theorem Thread.wrH_tags (t : Thread) (n op : Nat) : (t.wrH n op).tags = t.tags := rfl
@[simp] theorem Thread.wrH_pend (t : Thread) (n op : Nat) : (t.wrH n op).pend = t.pend := rfl
@[simp] theorem Thread.wrH_kpend (t : Thread) (n op : Nat) : (t.wrH n op).kpend = t.kpend := rfl
@[simp] theorem Thread.wrH_wbase (t : Thread) (n op : Nat) : (t.wrH n op).wbase = t.wbase := rfl
@[simp] theorem Thread.wrH_preds (t : Thread) (n op : Nat) : (t.wrH n op).preds = t.preds := rfl
@[simp] theorem Thread.wrH_rs (t : Thread) (n op : Nat) : (t.wrH n op).rs = t.rs := rfl
@[simp] theorem Thread.wrH_spills (t : Thread) (n op : Nat) : (t.wrH n op).spills = t.spills := rfl
@[simp] theorem Thread.wrH_outst (t : Thread) (n op : Nat) : (t.wrH n op).outst = t.outst := rfl
@[simp] theorem Thread.wrH_prio (t : Thread) (n op : Nat) : (t.wrH n op).prio = t.prio := rfl
@[simp] theorem Thread.wrH_demoted (t : Thread) (n op : Nat) : (t.wrH n op).demoted = t.demoted := rfl
@[simp] theorem Thread.wrH_demLeft (t : Thread) (n op : Nat) : (t.wrH n op).demLeft = t.demLeft := rfl
@[simp] theorem Thread.wrH_idle (t : Thread) (n op : Nat) : (t.wrH n op).idle = t.idle := rfl
@[simp] theorem Thread.wrH_promoted (t : Thread) (n op : Nat) : (t.wrH n op).promoted = t.promoted := rfl
@[simp] theorem Thread.wrH_since (t : Thread) (n op : Nat) : (t.wrH n op).since = t.since := rfl
@[simp] theorem Thread.wrH_rep (t : Thread) (n op : Nat) : (t.wrH n op).rep = t.rep := rfl
@[simp] theorem Thread.wrH_fmode (t : Thread) (n op : Nat) : (t.wrH n op).fmode = t.fmode := rfl
@[simp] theorem Thread.wrH_fflags (t : Thread) (n op : Nat) : (t.wrH n op).fflags = t.fflags := rfl
@[simp] theorem Thread.wrH_seed (t : Thread) (n op : Nat) : (t.wrH n op).seed = t.seed := rfl
@[simp] theorem Thread.wrH_mprg (t : Thread) (n op : Nat) : (t.wrH n op).mprg = t.mprg := rfl
@[simp] theorem Thread.wrH_trapc (t : Thread) (n op : Nat) : (t.wrH n op).trapc = t.trapc := rfl
@[simp] theorem Thread.wrH_trappc (t : Thread) (n op : Nat) : (t.wrH n op).trappc = t.trappc := rfl
@[simp] theorem Thread.wrH_trapva (t : Thread) (n op : Nat) : (t.wrH n op).trapva = t.trapva := rfl
@[simp] theorem Thread.wrH_depth (t : Thread) (n op : Nat) : (t.wrH n op).depth = t.depth := rfl
@[simp] theorem Thread.wrH_otrapc (t : Thread) (n op : Nat) : (t.wrH n op).otrapc = t.otrapc := rfl
@[simp] theorem Thread.wrH_otrappc (t : Thread) (n op : Nat) : (t.wrH n op).otrappc = t.otrappc := rfl
@[simp] theorem Thread.wrH_otrapva (t : Thread) (n op : Nat) : (t.wrH n op).otrapva = t.otrapva := rfl
@[simp] theorem Thread.wrH_tbhi (t : Thread) (n op : Nat) : (t.wrH n op).tbhi = t.tbhi := rfl
@[simp] theorem Thread.wrH_log (t : Thread) (n op : Nat) : (t.wrH n op).log = t.log := rfl
@[simp] theorem Thread.wrH_wait (t : Thread) (n op : Nat) : (t.wrH n op).wait = t.wait := rfl
@[simp] theorem Thread.wrH_skipBp (t : Thread) (n op : Nat) : (t.wrH n op).skipBp = t.skipBp := rfl
@[simp] theorem Thread.wrH_engFail (t : Thread) (n op : Nat) : (t.wrH n op).engFail = t.engFail := rfl
@[simp] theorem Thread.wrH_railUse (t : Thread) (n op : Nat) : (t.wrH n op).railUse = t.railUse := rfl
@[simp] theorem Thread.wrH_place (t : Thread) (n op : Nat) : (t.wrH n op).place = t.place := rfl

@[simp] theorem Thread.mark_exited (t : Thread) (r : Nat) : (t.mark r).exited = t.exited := rfl
@[simp] theorem Thread.mark_park (t : Thread) (r : Nat) : (t.mark r).park = t.park := rfl
@[simp] theorem Thread.mark_pc (t : Thread) (r : Nat) : (t.mark r).pc = t.pc := rfl
@[simp] theorem Thread.mark_regs (t : Thread) (r : Nat) : (t.mark r).regs = t.regs := rfl
@[simp] theorem Thread.mark_tags (t : Thread) (r : Nat) : (t.mark r).tags = t.tags := rfl
@[simp] theorem Thread.mark_kpend (t : Thread) (r : Nat) : (t.mark r).kpend = t.kpend := rfl
@[simp] theorem Thread.mark_wbase (t : Thread) (r : Nat) : (t.mark r).wbase = t.wbase := rfl
@[simp] theorem Thread.mark_preds (t : Thread) (r : Nat) : (t.mark r).preds = t.preds := rfl
@[simp] theorem Thread.mark_handles (t : Thread) (r : Nat) : (t.mark r).handles = t.handles := rfl
@[simp] theorem Thread.mark_rs (t : Thread) (r : Nat) : (t.mark r).rs = t.rs := rfl
@[simp] theorem Thread.mark_spills (t : Thread) (r : Nat) : (t.mark r).spills = t.spills := rfl
@[simp] theorem Thread.mark_outst (t : Thread) (r : Nat) : (t.mark r).outst = t.outst := rfl
@[simp] theorem Thread.mark_prio (t : Thread) (r : Nat) : (t.mark r).prio = t.prio := rfl
@[simp] theorem Thread.mark_demoted (t : Thread) (r : Nat) : (t.mark r).demoted = t.demoted := rfl
@[simp] theorem Thread.mark_demLeft (t : Thread) (r : Nat) : (t.mark r).demLeft = t.demLeft := rfl
@[simp] theorem Thread.mark_idle (t : Thread) (r : Nat) : (t.mark r).idle = t.idle := rfl
@[simp] theorem Thread.mark_promoted (t : Thread) (r : Nat) : (t.mark r).promoted = t.promoted := rfl
@[simp] theorem Thread.mark_since (t : Thread) (r : Nat) : (t.mark r).since = t.since := rfl
@[simp] theorem Thread.mark_rep (t : Thread) (r : Nat) : (t.mark r).rep = t.rep := rfl
@[simp] theorem Thread.mark_fmode (t : Thread) (r : Nat) : (t.mark r).fmode = t.fmode := rfl
@[simp] theorem Thread.mark_fflags (t : Thread) (r : Nat) : (t.mark r).fflags = t.fflags := rfl
@[simp] theorem Thread.mark_seed (t : Thread) (r : Nat) : (t.mark r).seed = t.seed := rfl
@[simp] theorem Thread.mark_mprg (t : Thread) (r : Nat) : (t.mark r).mprg = t.mprg := rfl
@[simp] theorem Thread.mark_trapc (t : Thread) (r : Nat) : (t.mark r).trapc = t.trapc := rfl
@[simp] theorem Thread.mark_trappc (t : Thread) (r : Nat) : (t.mark r).trappc = t.trappc := rfl
@[simp] theorem Thread.mark_trapva (t : Thread) (r : Nat) : (t.mark r).trapva = t.trapva := rfl
@[simp] theorem Thread.mark_depth (t : Thread) (r : Nat) : (t.mark r).depth = t.depth := rfl
@[simp] theorem Thread.mark_otrapc (t : Thread) (r : Nat) : (t.mark r).otrapc = t.otrapc := rfl
@[simp] theorem Thread.mark_otrappc (t : Thread) (r : Nat) : (t.mark r).otrappc = t.otrappc := rfl
@[simp] theorem Thread.mark_otrapva (t : Thread) (r : Nat) : (t.mark r).otrapva = t.otrapva := rfl
@[simp] theorem Thread.mark_tbhi (t : Thread) (r : Nat) : (t.mark r).tbhi = t.tbhi := rfl
@[simp] theorem Thread.mark_log (t : Thread) (r : Nat) : (t.mark r).log = t.log := rfl
@[simp] theorem Thread.mark_wait (t : Thread) (r : Nat) : (t.mark r).wait = t.wait := rfl
@[simp] theorem Thread.mark_skipBp (t : Thread) (r : Nat) : (t.mark r).skipBp = t.skipBp := rfl
@[simp] theorem Thread.mark_engFail (t : Thread) (r : Nat) : (t.mark r).engFail = t.engFail := rfl
@[simp] theorem Thread.mark_railUse (t : Thread) (r : Nat) : (t.mark r).railUse = t.railUse := rfl
@[simp] theorem Thread.mark_place (t : Thread) (r : Nat) : (t.mark r).place = t.place := rfl

@[simp] theorem Thread.unmark_exited (t : Thread) (r : Nat) : (t.unmark r).exited = t.exited := rfl
@[simp] theorem Thread.unmark_park (t : Thread) (r : Nat) : (t.unmark r).park = t.park := rfl
@[simp] theorem Thread.unmark_pc (t : Thread) (r : Nat) : (t.unmark r).pc = t.pc := rfl
@[simp] theorem Thread.unmark_regs (t : Thread) (r : Nat) : (t.unmark r).regs = t.regs := rfl
@[simp] theorem Thread.unmark_tags (t : Thread) (r : Nat) : (t.unmark r).tags = t.tags := rfl
@[simp] theorem Thread.unmark_kpend (t : Thread) (r : Nat) : (t.unmark r).kpend = t.kpend := rfl
@[simp] theorem Thread.unmark_wbase (t : Thread) (r : Nat) : (t.unmark r).wbase = t.wbase := rfl
@[simp] theorem Thread.unmark_preds (t : Thread) (r : Nat) : (t.unmark r).preds = t.preds := rfl
@[simp] theorem Thread.unmark_handles (t : Thread) (r : Nat) : (t.unmark r).handles = t.handles := rfl
@[simp] theorem Thread.unmark_rs (t : Thread) (r : Nat) : (t.unmark r).rs = t.rs := rfl
@[simp] theorem Thread.unmark_spills (t : Thread) (r : Nat) : (t.unmark r).spills = t.spills := rfl
@[simp] theorem Thread.unmark_outst (t : Thread) (r : Nat) : (t.unmark r).outst = t.outst := rfl
@[simp] theorem Thread.unmark_prio (t : Thread) (r : Nat) : (t.unmark r).prio = t.prio := rfl
@[simp] theorem Thread.unmark_demoted (t : Thread) (r : Nat) : (t.unmark r).demoted = t.demoted := rfl
@[simp] theorem Thread.unmark_demLeft (t : Thread) (r : Nat) : (t.unmark r).demLeft = t.demLeft := rfl
@[simp] theorem Thread.unmark_idle (t : Thread) (r : Nat) : (t.unmark r).idle = t.idle := rfl
@[simp] theorem Thread.unmark_promoted (t : Thread) (r : Nat) : (t.unmark r).promoted = t.promoted := rfl
@[simp] theorem Thread.unmark_since (t : Thread) (r : Nat) : (t.unmark r).since = t.since := rfl
@[simp] theorem Thread.unmark_rep (t : Thread) (r : Nat) : (t.unmark r).rep = t.rep := rfl
@[simp] theorem Thread.unmark_fmode (t : Thread) (r : Nat) : (t.unmark r).fmode = t.fmode := rfl
@[simp] theorem Thread.unmark_fflags (t : Thread) (r : Nat) : (t.unmark r).fflags = t.fflags := rfl
@[simp] theorem Thread.unmark_seed (t : Thread) (r : Nat) : (t.unmark r).seed = t.seed := rfl
@[simp] theorem Thread.unmark_mprg (t : Thread) (r : Nat) : (t.unmark r).mprg = t.mprg := rfl
@[simp] theorem Thread.unmark_trapc (t : Thread) (r : Nat) : (t.unmark r).trapc = t.trapc := rfl
@[simp] theorem Thread.unmark_trappc (t : Thread) (r : Nat) : (t.unmark r).trappc = t.trappc := rfl
@[simp] theorem Thread.unmark_trapva (t : Thread) (r : Nat) : (t.unmark r).trapva = t.trapva := rfl
@[simp] theorem Thread.unmark_depth (t : Thread) (r : Nat) : (t.unmark r).depth = t.depth := rfl
@[simp] theorem Thread.unmark_otrapc (t : Thread) (r : Nat) : (t.unmark r).otrapc = t.otrapc := rfl
@[simp] theorem Thread.unmark_otrappc (t : Thread) (r : Nat) : (t.unmark r).otrappc = t.otrappc := rfl
@[simp] theorem Thread.unmark_otrapva (t : Thread) (r : Nat) : (t.unmark r).otrapva = t.otrapva := rfl
@[simp] theorem Thread.unmark_tbhi (t : Thread) (r : Nat) : (t.unmark r).tbhi = t.tbhi := rfl
@[simp] theorem Thread.unmark_log (t : Thread) (r : Nat) : (t.unmark r).log = t.log := rfl
@[simp] theorem Thread.unmark_wait (t : Thread) (r : Nat) : (t.unmark r).wait = t.wait := rfl
@[simp] theorem Thread.unmark_skipBp (t : Thread) (r : Nat) : (t.unmark r).skipBp = t.skipBp := rfl
@[simp] theorem Thread.unmark_engFail (t : Thread) (r : Nat) : (t.unmark r).engFail = t.engFail := rfl
@[simp] theorem Thread.unmark_railUse (t : Thread) (r : Nat) : (t.unmark r).railUse = t.railUse := rfl
@[simp] theorem Thread.unmark_place (t : Thread) (r : Nat) : (t.unmark r).place = t.place := rfl

@[simp] theorem Thread.next_exited (t : Thread)  : (t.next ).exited = t.exited := rfl
@[simp] theorem Thread.next_park (t : Thread)  : (t.next ).park = t.park := rfl
@[simp] theorem Thread.next_regs (t : Thread)  : (t.next ).regs = t.regs := rfl
@[simp] theorem Thread.next_tags (t : Thread)  : (t.next ).tags = t.tags := rfl
@[simp] theorem Thread.next_pend (t : Thread)  : (t.next ).pend = t.pend := rfl
@[simp] theorem Thread.next_kpend (t : Thread)  : (t.next ).kpend = t.kpend := rfl
@[simp] theorem Thread.next_wbase (t : Thread)  : (t.next ).wbase = t.wbase := rfl
@[simp] theorem Thread.next_preds (t : Thread)  : (t.next ).preds = t.preds := rfl
@[simp] theorem Thread.next_handles (t : Thread)  : (t.next ).handles = t.handles := rfl
@[simp] theorem Thread.next_rs (t : Thread)  : (t.next ).rs = t.rs := rfl
@[simp] theorem Thread.next_spills (t : Thread)  : (t.next ).spills = t.spills := rfl
@[simp] theorem Thread.next_outst (t : Thread)  : (t.next ).outst = t.outst := rfl
@[simp] theorem Thread.next_prio (t : Thread)  : (t.next ).prio = t.prio := rfl
@[simp] theorem Thread.next_demoted (t : Thread)  : (t.next ).demoted = t.demoted := rfl
@[simp] theorem Thread.next_demLeft (t : Thread)  : (t.next ).demLeft = t.demLeft := rfl
@[simp] theorem Thread.next_idle (t : Thread)  : (t.next ).idle = t.idle := rfl
@[simp] theorem Thread.next_promoted (t : Thread)  : (t.next ).promoted = t.promoted := rfl
@[simp] theorem Thread.next_since (t : Thread)  : (t.next ).since = t.since := rfl
@[simp] theorem Thread.next_rep (t : Thread)  : (t.next ).rep = t.rep := rfl
@[simp] theorem Thread.next_fmode (t : Thread)  : (t.next ).fmode = t.fmode := rfl
@[simp] theorem Thread.next_fflags (t : Thread)  : (t.next ).fflags = t.fflags := rfl
@[simp] theorem Thread.next_seed (t : Thread)  : (t.next ).seed = t.seed := rfl
@[simp] theorem Thread.next_mprg (t : Thread)  : (t.next ).mprg = t.mprg := rfl
@[simp] theorem Thread.next_trapc (t : Thread)  : (t.next ).trapc = t.trapc := rfl
@[simp] theorem Thread.next_trappc (t : Thread)  : (t.next ).trappc = t.trappc := rfl
@[simp] theorem Thread.next_trapva (t : Thread)  : (t.next ).trapva = t.trapva := rfl
@[simp] theorem Thread.next_depth (t : Thread)  : (t.next ).depth = t.depth := rfl
@[simp] theorem Thread.next_otrapc (t : Thread)  : (t.next ).otrapc = t.otrapc := rfl
@[simp] theorem Thread.next_otrappc (t : Thread)  : (t.next ).otrappc = t.otrappc := rfl
@[simp] theorem Thread.next_otrapva (t : Thread)  : (t.next ).otrapva = t.otrapva := rfl
@[simp] theorem Thread.next_tbhi (t : Thread)  : (t.next ).tbhi = t.tbhi := rfl
@[simp] theorem Thread.next_log (t : Thread)  : (t.next ).log = t.log := rfl
@[simp] theorem Thread.next_skipBp (t : Thread)  : (t.next ).skipBp = t.skipBp := rfl
@[simp] theorem Thread.next_engFail (t : Thread)  : (t.next ).engFail = t.engFail := rfl
@[simp] theorem Thread.next_railUse (t : Thread)  : (t.next ).railUse = t.railUse := rfl
@[simp] theorem Thread.next_place (t : Thread)  : (t.next ).place = t.place := rfl

@[simp] theorem Thread.goTo_exited (t : Thread) (a : DWord) : (t.goTo a).exited = t.exited := rfl
@[simp] theorem Thread.goTo_park (t : Thread) (a : DWord) : (t.goTo a).park = t.park := rfl
@[simp] theorem Thread.goTo_regs (t : Thread) (a : DWord) : (t.goTo a).regs = t.regs := rfl
@[simp] theorem Thread.goTo_tags (t : Thread) (a : DWord) : (t.goTo a).tags = t.tags := rfl
@[simp] theorem Thread.goTo_pend (t : Thread) (a : DWord) : (t.goTo a).pend = t.pend := rfl
@[simp] theorem Thread.goTo_kpend (t : Thread) (a : DWord) : (t.goTo a).kpend = t.kpend := rfl
@[simp] theorem Thread.goTo_wbase (t : Thread) (a : DWord) : (t.goTo a).wbase = t.wbase := rfl
@[simp] theorem Thread.goTo_preds (t : Thread) (a : DWord) : (t.goTo a).preds = t.preds := rfl
@[simp] theorem Thread.goTo_handles (t : Thread) (a : DWord) : (t.goTo a).handles = t.handles := rfl
@[simp] theorem Thread.goTo_rs (t : Thread) (a : DWord) : (t.goTo a).rs = t.rs := rfl
@[simp] theorem Thread.goTo_spills (t : Thread) (a : DWord) : (t.goTo a).spills = t.spills := rfl
@[simp] theorem Thread.goTo_outst (t : Thread) (a : DWord) : (t.goTo a).outst = t.outst := rfl
@[simp] theorem Thread.goTo_prio (t : Thread) (a : DWord) : (t.goTo a).prio = t.prio := rfl
@[simp] theorem Thread.goTo_idle (t : Thread) (a : DWord) : (t.goTo a).idle = t.idle := rfl
@[simp] theorem Thread.goTo_promoted (t : Thread) (a : DWord) : (t.goTo a).promoted = t.promoted := rfl
@[simp] theorem Thread.goTo_since (t : Thread) (a : DWord) : (t.goTo a).since = t.since := rfl
@[simp] theorem Thread.goTo_rep (t : Thread) (a : DWord) : (t.goTo a).rep = t.rep := rfl
@[simp] theorem Thread.goTo_fmode (t : Thread) (a : DWord) : (t.goTo a).fmode = t.fmode := rfl
@[simp] theorem Thread.goTo_fflags (t : Thread) (a : DWord) : (t.goTo a).fflags = t.fflags := rfl
@[simp] theorem Thread.goTo_seed (t : Thread) (a : DWord) : (t.goTo a).seed = t.seed := rfl
@[simp] theorem Thread.goTo_mprg (t : Thread) (a : DWord) : (t.goTo a).mprg = t.mprg := rfl
@[simp] theorem Thread.goTo_trapc (t : Thread) (a : DWord) : (t.goTo a).trapc = t.trapc := rfl
@[simp] theorem Thread.goTo_trappc (t : Thread) (a : DWord) : (t.goTo a).trappc = t.trappc := rfl
@[simp] theorem Thread.goTo_trapva (t : Thread) (a : DWord) : (t.goTo a).trapva = t.trapva := rfl
@[simp] theorem Thread.goTo_depth (t : Thread) (a : DWord) : (t.goTo a).depth = t.depth := rfl
@[simp] theorem Thread.goTo_otrapc (t : Thread) (a : DWord) : (t.goTo a).otrapc = t.otrapc := rfl
@[simp] theorem Thread.goTo_otrappc (t : Thread) (a : DWord) : (t.goTo a).otrappc = t.otrappc := rfl
@[simp] theorem Thread.goTo_otrapva (t : Thread) (a : DWord) : (t.goTo a).otrapva = t.otrapva := rfl
@[simp] theorem Thread.goTo_tbhi (t : Thread) (a : DWord) : (t.goTo a).tbhi = t.tbhi := rfl
@[simp] theorem Thread.goTo_log (t : Thread) (a : DWord) : (t.goTo a).log = t.log := rfl
@[simp] theorem Thread.goTo_skipBp (t : Thread) (a : DWord) : (t.goTo a).skipBp = t.skipBp := rfl
@[simp] theorem Thread.goTo_engFail (t : Thread) (a : DWord) : (t.goTo a).engFail = t.engFail := rfl
@[simp] theorem Thread.goTo_railUse (t : Thread) (a : DWord) : (t.goTo a).railUse = t.railUse := rfl
@[simp] theorem Thread.goTo_place (t : Thread) (a : DWord) : (t.goTo a).place = t.place := rfl

@[simp] theorem Thread.addOut_exited (t : Thread) (c : Cls) (x : Nat) : (t.addOut c x).exited = t.exited := rfl
@[simp] theorem Thread.addOut_park (t : Thread) (c : Cls) (x : Nat) : (t.addOut c x).park = t.park := rfl
@[simp] theorem Thread.addOut_pc (t : Thread) (c : Cls) (x : Nat) : (t.addOut c x).pc = t.pc := rfl
@[simp] theorem Thread.addOut_regs (t : Thread) (c : Cls) (x : Nat) : (t.addOut c x).regs = t.regs := rfl
@[simp] theorem Thread.addOut_tags (t : Thread) (c : Cls) (x : Nat) : (t.addOut c x).tags = t.tags := rfl
@[simp] theorem Thread.addOut_pend (t : Thread) (c : Cls) (x : Nat) : (t.addOut c x).pend = t.pend := rfl
@[simp] theorem Thread.addOut_kpend (t : Thread) (c : Cls) (x : Nat) : (t.addOut c x).kpend = t.kpend := rfl
@[simp] theorem Thread.addOut_wbase (t : Thread) (c : Cls) (x : Nat) : (t.addOut c x).wbase = t.wbase := rfl
@[simp] theorem Thread.addOut_preds (t : Thread) (c : Cls) (x : Nat) : (t.addOut c x).preds = t.preds := rfl
@[simp] theorem Thread.addOut_handles (t : Thread) (c : Cls) (x : Nat) : (t.addOut c x).handles = t.handles := rfl
@[simp] theorem Thread.addOut_rs (t : Thread) (c : Cls) (x : Nat) : (t.addOut c x).rs = t.rs := rfl
@[simp] theorem Thread.addOut_spills (t : Thread) (c : Cls) (x : Nat) : (t.addOut c x).spills = t.spills := rfl
@[simp] theorem Thread.addOut_prio (t : Thread) (c : Cls) (x : Nat) : (t.addOut c x).prio = t.prio := rfl
@[simp] theorem Thread.addOut_demoted (t : Thread) (c : Cls) (x : Nat) : (t.addOut c x).demoted = t.demoted := rfl
@[simp] theorem Thread.addOut_demLeft (t : Thread) (c : Cls) (x : Nat) : (t.addOut c x).demLeft = t.demLeft := rfl
@[simp] theorem Thread.addOut_idle (t : Thread) (c : Cls) (x : Nat) : (t.addOut c x).idle = t.idle := rfl
@[simp] theorem Thread.addOut_promoted (t : Thread) (c : Cls) (x : Nat) : (t.addOut c x).promoted = t.promoted := rfl
@[simp] theorem Thread.addOut_since (t : Thread) (c : Cls) (x : Nat) : (t.addOut c x).since = t.since := rfl
@[simp] theorem Thread.addOut_rep (t : Thread) (c : Cls) (x : Nat) : (t.addOut c x).rep = t.rep := rfl
@[simp] theorem Thread.addOut_fmode (t : Thread) (c : Cls) (x : Nat) : (t.addOut c x).fmode = t.fmode := rfl
@[simp] theorem Thread.addOut_fflags (t : Thread) (c : Cls) (x : Nat) : (t.addOut c x).fflags = t.fflags := rfl
@[simp] theorem Thread.addOut_seed (t : Thread) (c : Cls) (x : Nat) : (t.addOut c x).seed = t.seed := rfl
@[simp] theorem Thread.addOut_mprg (t : Thread) (c : Cls) (x : Nat) : (t.addOut c x).mprg = t.mprg := rfl
@[simp] theorem Thread.addOut_trapc (t : Thread) (c : Cls) (x : Nat) : (t.addOut c x).trapc = t.trapc := rfl
@[simp] theorem Thread.addOut_trappc (t : Thread) (c : Cls) (x : Nat) : (t.addOut c x).trappc = t.trappc := rfl
@[simp] theorem Thread.addOut_trapva (t : Thread) (c : Cls) (x : Nat) : (t.addOut c x).trapva = t.trapva := rfl
@[simp] theorem Thread.addOut_depth (t : Thread) (c : Cls) (x : Nat) : (t.addOut c x).depth = t.depth := rfl
@[simp] theorem Thread.addOut_otrapc (t : Thread) (c : Cls) (x : Nat) : (t.addOut c x).otrapc = t.otrapc := rfl
@[simp] theorem Thread.addOut_otrappc (t : Thread) (c : Cls) (x : Nat) : (t.addOut c x).otrappc = t.otrappc := rfl
@[simp] theorem Thread.addOut_otrapva (t : Thread) (c : Cls) (x : Nat) : (t.addOut c x).otrapva = t.otrapva := rfl
@[simp] theorem Thread.addOut_tbhi (t : Thread) (c : Cls) (x : Nat) : (t.addOut c x).tbhi = t.tbhi := rfl
@[simp] theorem Thread.addOut_log (t : Thread) (c : Cls) (x : Nat) : (t.addOut c x).log = t.log := rfl
@[simp] theorem Thread.addOut_wait (t : Thread) (c : Cls) (x : Nat) : (t.addOut c x).wait = t.wait := rfl
@[simp] theorem Thread.addOut_skipBp (t : Thread) (c : Cls) (x : Nat) : (t.addOut c x).skipBp = t.skipBp := rfl
@[simp] theorem Thread.addOut_engFail (t : Thread) (c : Cls) (x : Nat) : (t.addOut c x).engFail = t.engFail := rfl
@[simp] theorem Thread.addOut_railUse (t : Thread) (c : Cls) (x : Nat) : (t.addOut c x).railUse = t.railUse := rfl
@[simp] theorem Thread.addOut_place (t : Thread) (c : Cls) (x : Nat) : (t.addOut c x).place = t.place := rfl

@[simp] theorem Thread.addFlags_exited (t : Thread) (n : Nat) : (t.addFlags n).exited = t.exited := rfl
@[simp] theorem Thread.addFlags_park (t : Thread) (n : Nat) : (t.addFlags n).park = t.park := rfl
@[simp] theorem Thread.addFlags_pc (t : Thread) (n : Nat) : (t.addFlags n).pc = t.pc := rfl
@[simp] theorem Thread.addFlags_regs (t : Thread) (n : Nat) : (t.addFlags n).regs = t.regs := rfl
@[simp] theorem Thread.addFlags_tags (t : Thread) (n : Nat) : (t.addFlags n).tags = t.tags := rfl
@[simp] theorem Thread.addFlags_pend (t : Thread) (n : Nat) : (t.addFlags n).pend = t.pend := rfl
@[simp] theorem Thread.addFlags_kpend (t : Thread) (n : Nat) : (t.addFlags n).kpend = t.kpend := rfl
@[simp] theorem Thread.addFlags_wbase (t : Thread) (n : Nat) : (t.addFlags n).wbase = t.wbase := rfl
@[simp] theorem Thread.addFlags_preds (t : Thread) (n : Nat) : (t.addFlags n).preds = t.preds := rfl
@[simp] theorem Thread.addFlags_handles (t : Thread) (n : Nat) : (t.addFlags n).handles = t.handles := rfl
@[simp] theorem Thread.addFlags_rs (t : Thread) (n : Nat) : (t.addFlags n).rs = t.rs := rfl
@[simp] theorem Thread.addFlags_spills (t : Thread) (n : Nat) : (t.addFlags n).spills = t.spills := rfl
@[simp] theorem Thread.addFlags_outst (t : Thread) (n : Nat) : (t.addFlags n).outst = t.outst := rfl
@[simp] theorem Thread.addFlags_prio (t : Thread) (n : Nat) : (t.addFlags n).prio = t.prio := rfl
@[simp] theorem Thread.addFlags_demoted (t : Thread) (n : Nat) : (t.addFlags n).demoted = t.demoted := rfl
@[simp] theorem Thread.addFlags_demLeft (t : Thread) (n : Nat) : (t.addFlags n).demLeft = t.demLeft := rfl
@[simp] theorem Thread.addFlags_idle (t : Thread) (n : Nat) : (t.addFlags n).idle = t.idle := rfl
@[simp] theorem Thread.addFlags_promoted (t : Thread) (n : Nat) : (t.addFlags n).promoted = t.promoted := rfl
@[simp] theorem Thread.addFlags_since (t : Thread) (n : Nat) : (t.addFlags n).since = t.since := rfl
@[simp] theorem Thread.addFlags_rep (t : Thread) (n : Nat) : (t.addFlags n).rep = t.rep := rfl
@[simp] theorem Thread.addFlags_fmode (t : Thread) (n : Nat) : (t.addFlags n).fmode = t.fmode := rfl
@[simp] theorem Thread.addFlags_seed (t : Thread) (n : Nat) : (t.addFlags n).seed = t.seed := rfl
@[simp] theorem Thread.addFlags_mprg (t : Thread) (n : Nat) : (t.addFlags n).mprg = t.mprg := rfl
@[simp] theorem Thread.addFlags_trapc (t : Thread) (n : Nat) : (t.addFlags n).trapc = t.trapc := rfl
@[simp] theorem Thread.addFlags_trappc (t : Thread) (n : Nat) : (t.addFlags n).trappc = t.trappc := rfl
@[simp] theorem Thread.addFlags_trapva (t : Thread) (n : Nat) : (t.addFlags n).trapva = t.trapva := rfl
@[simp] theorem Thread.addFlags_depth (t : Thread) (n : Nat) : (t.addFlags n).depth = t.depth := rfl
@[simp] theorem Thread.addFlags_otrapc (t : Thread) (n : Nat) : (t.addFlags n).otrapc = t.otrapc := rfl
@[simp] theorem Thread.addFlags_otrappc (t : Thread) (n : Nat) : (t.addFlags n).otrappc = t.otrappc := rfl
@[simp] theorem Thread.addFlags_otrapva (t : Thread) (n : Nat) : (t.addFlags n).otrapva = t.otrapva := rfl
@[simp] theorem Thread.addFlags_tbhi (t : Thread) (n : Nat) : (t.addFlags n).tbhi = t.tbhi := rfl
@[simp] theorem Thread.addFlags_log (t : Thread) (n : Nat) : (t.addFlags n).log = t.log := rfl
@[simp] theorem Thread.addFlags_wait (t : Thread) (n : Nat) : (t.addFlags n).wait = t.wait := rfl
@[simp] theorem Thread.addFlags_skipBp (t : Thread) (n : Nat) : (t.addFlags n).skipBp = t.skipBp := rfl
@[simp] theorem Thread.addFlags_engFail (t : Thread) (n : Nat) : (t.addFlags n).engFail = t.engFail := rfl
@[simp] theorem Thread.addFlags_railUse (t : Thread) (n : Nat) : (t.addFlags n).railUse = t.railUse := rfl
@[simp] theorem Thread.addFlags_place (t : Thread) (n : Nat) : (t.addFlags n).place = t.place := rfl

@[simp] theorem Thread.enterTrap_exited (t : Thread) (v : Nat) (c : Word) (p a : DWord) : (t.enterTrap v c p a).exited = t.exited := rfl
@[simp] theorem Thread.enterTrap_regs (t : Thread) (v : Nat) (c : Word) (p a : DWord) : (t.enterTrap v c p a).regs = t.regs := rfl
@[simp] theorem Thread.enterTrap_tags (t : Thread) (v : Nat) (c : Word) (p a : DWord) : (t.enterTrap v c p a).tags = t.tags := rfl
@[simp] theorem Thread.enterTrap_pend (t : Thread) (v : Nat) (c : Word) (p a : DWord) : (t.enterTrap v c p a).pend = t.pend := rfl
@[simp] theorem Thread.enterTrap_kpend (t : Thread) (v : Nat) (c : Word) (p a : DWord) : (t.enterTrap v c p a).kpend = t.kpend := rfl
@[simp] theorem Thread.enterTrap_wbase (t : Thread) (v : Nat) (c : Word) (p a : DWord) : (t.enterTrap v c p a).wbase = t.wbase := rfl
@[simp] theorem Thread.enterTrap_preds (t : Thread) (v : Nat) (c : Word) (p a : DWord) : (t.enterTrap v c p a).preds = t.preds := rfl
@[simp] theorem Thread.enterTrap_handles (t : Thread) (v : Nat) (c : Word) (p a : DWord) : (t.enterTrap v c p a).handles = t.handles := rfl
@[simp] theorem Thread.enterTrap_rs (t : Thread) (v : Nat) (c : Word) (p a : DWord) : (t.enterTrap v c p a).rs = t.rs := rfl
@[simp] theorem Thread.enterTrap_spills (t : Thread) (v : Nat) (c : Word) (p a : DWord) : (t.enterTrap v c p a).spills = t.spills := rfl
@[simp] theorem Thread.enterTrap_outst (t : Thread) (v : Nat) (c : Word) (p a : DWord) : (t.enterTrap v c p a).outst = t.outst := rfl
@[simp] theorem Thread.enterTrap_prio (t : Thread) (v : Nat) (c : Word) (p a : DWord) : (t.enterTrap v c p a).prio = t.prio := rfl
@[simp] theorem Thread.enterTrap_idle (t : Thread) (v : Nat) (c : Word) (p a : DWord) : (t.enterTrap v c p a).idle = t.idle := rfl
@[simp] theorem Thread.enterTrap_promoted (t : Thread) (v : Nat) (c : Word) (p a : DWord) : (t.enterTrap v c p a).promoted = t.promoted := rfl
@[simp] theorem Thread.enterTrap_since (t : Thread) (v : Nat) (c : Word) (p a : DWord) : (t.enterTrap v c p a).since = t.since := rfl
@[simp] theorem Thread.enterTrap_rep (t : Thread) (v : Nat) (c : Word) (p a : DWord) : (t.enterTrap v c p a).rep = t.rep := rfl
@[simp] theorem Thread.enterTrap_fmode (t : Thread) (v : Nat) (c : Word) (p a : DWord) : (t.enterTrap v c p a).fmode = t.fmode := rfl
@[simp] theorem Thread.enterTrap_fflags (t : Thread) (v : Nat) (c : Word) (p a : DWord) : (t.enterTrap v c p a).fflags = t.fflags := rfl
@[simp] theorem Thread.enterTrap_seed (t : Thread) (v : Nat) (c : Word) (p a : DWord) : (t.enterTrap v c p a).seed = t.seed := rfl
@[simp] theorem Thread.enterTrap_mprg (t : Thread) (v : Nat) (c : Word) (p a : DWord) : (t.enterTrap v c p a).mprg = t.mprg := rfl
@[simp] theorem Thread.enterTrap_tbhi (t : Thread) (v : Nat) (c : Word) (p a : DWord) : (t.enterTrap v c p a).tbhi = t.tbhi := rfl
@[simp] theorem Thread.enterTrap_log (t : Thread) (v : Nat) (c : Word) (p a : DWord) : (t.enterTrap v c p a).log = t.log := rfl
@[simp] theorem Thread.enterTrap_skipBp (t : Thread) (v : Nat) (c : Word) (p a : DWord) : (t.enterTrap v c p a).skipBp = t.skipBp := rfl
@[simp] theorem Thread.enterTrap_engFail (t : Thread) (v : Nat) (c : Word) (p a : DWord) : (t.enterTrap v c p a).engFail = t.engFail := rfl
@[simp] theorem Thread.enterTrap_railUse (t : Thread) (v : Nat) (c : Word) (p a : DWord) : (t.enterTrap v c p a).railUse = t.railUse := rfl
@[simp] theorem Thread.enterTrap_place (t : Thread) (v : Nat) (c : Word) (p a : DWord) : (t.enterTrap v c p a).place = t.place := rfl

/-! ## A package -/

@[simp] theorem Pkg.modCore_present (p : Pkg) (c : Nat) (f : Core → Core) : (p.modCore c f).present = p.present := rfl
@[simp] theorem Pkg.modCore_lost (p : Pkg) (c : Nat) (f : Core → Core) : (p.modCore c f).lost = p.lost := rfl
@[simp] theorem Pkg.modCore_boot (p : Pkg) (c : Nat) (f : Core → Core) : (p.modCore c f).boot = p.boot := rfl
@[simp] theorem Pkg.modCore_bars (p : Pkg) (c : Nat) (f : Core → Core) : (p.modCore c f).bars = p.bars := rfl
@[simp] theorem Pkg.modCore_ctl (p : Pkg) (c : Nat) (f : Core → Core) : (p.modCore c f).ctl = p.ctl := rfl
@[simp] theorem Pkg.modCore_hostQ (p : Pkg) (c : Nat) (f : Core → Core) : (p.modCore c f).hostQ = p.hostQ := rfl
@[simp] theorem Pkg.modCore_hostSeen (p : Pkg) (c : Nat) (f : Core → Core) : (p.modCore c f).hostSeen = p.hostSeen := rfl
@[simp] theorem Pkg.modCore_vfbind (p : Pkg) (c : Nat) (f : Core → Core) : (p.modCore c f).vfbind = p.vfbind := rfl
@[simp] theorem Pkg.modCore_mbox (p : Pkg) (c : Nat) (f : Core → Core) : (p.modCore c f).mbox = p.mbox := rfl
@[simp] theorem Pkg.modCore_cntsel (p : Pkg) (c : Nat) (f : Core → Core) : (p.modCore c f).cntsel = p.cntsel := rfl
@[simp] theorem Pkg.modCore_series (p : Pkg) (c : Nat) (f : Core → Core) : (p.modCore c f).series = p.series := rfl
@[simp] theorem Pkg.modCore_counters (p : Pkg) (c : Nat) (f : Core → Core) : (p.modCore c f).counters = p.counters := rfl
@[simp] theorem Pkg.modCore_timebase (p : Pkg) (c : Nat) (f : Core → Core) : (p.modCore c f).timebase = p.timebase := rfl
@[simp] theorem Pkg.modCore_frac (p : Pkg) (c : Nat) (f : Core → Core) : (p.modCore c f).frac = p.frac := rfl
@[simp] theorem Pkg.modCore_slew (p : Pkg) (c : Nat) (f : Core → Core) : (p.modCore c f).slew = p.slew := rfl
@[simp] theorem Pkg.modCore_holdover (p : Pkg) (c : Nat) (f : Core → Core) : (p.modCore c f).holdover = p.holdover := rfl
@[simp] theorem Pkg.modCore_cyc (p : Pkg) (c : Nat) (f : Core → Core) : (p.modCore c f).cyc = p.cyc := rfl
@[simp] theorem Pkg.modCore_blocks (p : Pkg) (c : Nat) (f : Core → Core) : (p.modCore c f).blocks = p.blocks := rfl
@[simp] theorem Pkg.modCore_launches (p : Pkg) (c : Nat) (f : Core → Core) : (p.modCore c f).launches = p.launches := rfl
@[simp] theorem Pkg.modCore_clusters (p : Pkg) (c : Nat) (f : Core → Core) : (p.modCore c f).clusters = p.clusters := rfl
@[simp] theorem Pkg.modCore_dies (p : Pkg) (c : Nat) (f : Core → Core) : (p.modCore c f).dies = p.dies := rfl
@[simp] theorem Pkg.modCore_chains (p : Pkg) (c : Nat) (f : Core → Core) : (p.modCore c f).chains = p.chains := rfl
@[simp] theorem Pkg.modCore_faults (p : Pkg) (c : Nat) (f : Core → Core) : (p.modCore c f).faults = p.faults := rfl
@[simp] theorem Pkg.modCore_fqs (p : Pkg) (c : Nat) (f : Core → Core) : (p.modCore c f).fqs = p.fqs := rfl
@[simp] theorem Pkg.modCore_nextFault (p : Pkg) (c : Nat) (f : Core → Core) : (p.modCore c f).nextFault = p.nextFault := rfl
@[simp] theorem Pkg.modCore_invals (p : Pkg) (c : Nat) (f : Core → Core) : (p.modCore c f).invals = p.invals := rfl
@[simp] theorem Pkg.modCore_capexh (p : Pkg) (c : Nat) (f : Core → Core) : (p.modCore c f).capexh = p.capexh := rfl
@[simp] theorem Pkg.modCore_slices (p : Pkg) (c : Nat) (f : Core → Core) : (p.modCore c f).slices = p.slices := rfl
@[simp] theorem Pkg.modCore_frames (p : Pkg) (c : Nat) (f : Core → Core) : (p.modCore c f).frames = p.frames := rfl
@[simp] theorem Pkg.modCore_dirs (p : Pkg) (c : Nat) (f : Core → Core) : (p.modCore c f).dirs = p.dirs := rfl
@[simp] theorem Pkg.modCore_injected (p : Pkg) (c : Nat) (f : Core → Core) : (p.modCore c f).injected = p.injected := rfl
@[simp] theorem Pkg.modCore_ports (p : Pkg) (c : Nat) (f : Core → Core) : (p.modCore c f).ports = p.ports := rfl
@[simp] theorem Pkg.modCore_routersDown (p : Pkg) (c : Nat) (f : Core → Core) : (p.modCore c f).routersDown = p.routersDown := rfl
@[simp] theorem Pkg.modCore_signals (p : Pkg) (c : Nat) (f : Core → Core) : (p.modCore c f).signals = p.signals := rfl
@[simp] theorem Pkg.modCore_heldFor (p : Pkg) (c : Nat) (f : Core → Core) : (p.modCore c f).heldFor = p.heldFor := rfl
@[simp] theorem Pkg.modCore_served (p : Pkg) (c : Nat) (f : Core → Core) : (p.modCore c f).served = p.served := rfl
@[simp] theorem Pkg.modCore_erred (p : Pkg) (c : Nat) (f : Core → Core) : (p.modCore c f).erred = p.erred := rfl

@[simp] theorem Pkg.modCluster_present (p : Pkg) (c : Nat) (f : Cluster → Cluster) : (p.modCluster c f).present = p.present := rfl
@[simp] theorem Pkg.modCluster_lost (p : Pkg) (c : Nat) (f : Cluster → Cluster) : (p.modCluster c f).lost = p.lost := rfl
@[simp] theorem Pkg.modCluster_boot (p : Pkg) (c : Nat) (f : Cluster → Cluster) : (p.modCluster c f).boot = p.boot := rfl
@[simp] theorem Pkg.modCluster_bars (p : Pkg) (c : Nat) (f : Cluster → Cluster) : (p.modCluster c f).bars = p.bars := rfl
@[simp] theorem Pkg.modCluster_ctl (p : Pkg) (c : Nat) (f : Cluster → Cluster) : (p.modCluster c f).ctl = p.ctl := rfl
@[simp] theorem Pkg.modCluster_hostQ (p : Pkg) (c : Nat) (f : Cluster → Cluster) : (p.modCluster c f).hostQ = p.hostQ := rfl
@[simp] theorem Pkg.modCluster_hostSeen (p : Pkg) (c : Nat) (f : Cluster → Cluster) : (p.modCluster c f).hostSeen = p.hostSeen := rfl
@[simp] theorem Pkg.modCluster_vfbind (p : Pkg) (c : Nat) (f : Cluster → Cluster) : (p.modCluster c f).vfbind = p.vfbind := rfl
@[simp] theorem Pkg.modCluster_mbox (p : Pkg) (c : Nat) (f : Cluster → Cluster) : (p.modCluster c f).mbox = p.mbox := rfl
@[simp] theorem Pkg.modCluster_cntsel (p : Pkg) (c : Nat) (f : Cluster → Cluster) : (p.modCluster c f).cntsel = p.cntsel := rfl
@[simp] theorem Pkg.modCluster_series (p : Pkg) (c : Nat) (f : Cluster → Cluster) : (p.modCluster c f).series = p.series := rfl
@[simp] theorem Pkg.modCluster_counters (p : Pkg) (c : Nat) (f : Cluster → Cluster) : (p.modCluster c f).counters = p.counters := rfl
@[simp] theorem Pkg.modCluster_timebase (p : Pkg) (c : Nat) (f : Cluster → Cluster) : (p.modCluster c f).timebase = p.timebase := rfl
@[simp] theorem Pkg.modCluster_frac (p : Pkg) (c : Nat) (f : Cluster → Cluster) : (p.modCluster c f).frac = p.frac := rfl
@[simp] theorem Pkg.modCluster_slew (p : Pkg) (c : Nat) (f : Cluster → Cluster) : (p.modCluster c f).slew = p.slew := rfl
@[simp] theorem Pkg.modCluster_holdover (p : Pkg) (c : Nat) (f : Cluster → Cluster) : (p.modCluster c f).holdover = p.holdover := rfl
@[simp] theorem Pkg.modCluster_cyc (p : Pkg) (c : Nat) (f : Cluster → Cluster) : (p.modCluster c f).cyc = p.cyc := rfl
@[simp] theorem Pkg.modCluster_blocks (p : Pkg) (c : Nat) (f : Cluster → Cluster) : (p.modCluster c f).blocks = p.blocks := rfl
@[simp] theorem Pkg.modCluster_launches (p : Pkg) (c : Nat) (f : Cluster → Cluster) : (p.modCluster c f).launches = p.launches := rfl
@[simp] theorem Pkg.modCluster_cores (p : Pkg) (c : Nat) (f : Cluster → Cluster) : (p.modCluster c f).cores = p.cores := rfl
@[simp] theorem Pkg.modCluster_dies (p : Pkg) (c : Nat) (f : Cluster → Cluster) : (p.modCluster c f).dies = p.dies := rfl
@[simp] theorem Pkg.modCluster_chains (p : Pkg) (c : Nat) (f : Cluster → Cluster) : (p.modCluster c f).chains = p.chains := rfl
@[simp] theorem Pkg.modCluster_faults (p : Pkg) (c : Nat) (f : Cluster → Cluster) : (p.modCluster c f).faults = p.faults := rfl
@[simp] theorem Pkg.modCluster_fqs (p : Pkg) (c : Nat) (f : Cluster → Cluster) : (p.modCluster c f).fqs = p.fqs := rfl
@[simp] theorem Pkg.modCluster_nextFault (p : Pkg) (c : Nat) (f : Cluster → Cluster) : (p.modCluster c f).nextFault = p.nextFault := rfl
@[simp] theorem Pkg.modCluster_invals (p : Pkg) (c : Nat) (f : Cluster → Cluster) : (p.modCluster c f).invals = p.invals := rfl
@[simp] theorem Pkg.modCluster_capexh (p : Pkg) (c : Nat) (f : Cluster → Cluster) : (p.modCluster c f).capexh = p.capexh := rfl
@[simp] theorem Pkg.modCluster_slices (p : Pkg) (c : Nat) (f : Cluster → Cluster) : (p.modCluster c f).slices = p.slices := rfl
@[simp] theorem Pkg.modCluster_frames (p : Pkg) (c : Nat) (f : Cluster → Cluster) : (p.modCluster c f).frames = p.frames := rfl
@[simp] theorem Pkg.modCluster_dirs (p : Pkg) (c : Nat) (f : Cluster → Cluster) : (p.modCluster c f).dirs = p.dirs := rfl
@[simp] theorem Pkg.modCluster_injected (p : Pkg) (c : Nat) (f : Cluster → Cluster) : (p.modCluster c f).injected = p.injected := rfl
@[simp] theorem Pkg.modCluster_ports (p : Pkg) (c : Nat) (f : Cluster → Cluster) : (p.modCluster c f).ports = p.ports := rfl
@[simp] theorem Pkg.modCluster_routersDown (p : Pkg) (c : Nat) (f : Cluster → Cluster) : (p.modCluster c f).routersDown = p.routersDown := rfl
@[simp] theorem Pkg.modCluster_signals (p : Pkg) (c : Nat) (f : Cluster → Cluster) : (p.modCluster c f).signals = p.signals := rfl
@[simp] theorem Pkg.modCluster_heldFor (p : Pkg) (c : Nat) (f : Cluster → Cluster) : (p.modCluster c f).heldFor = p.heldFor := rfl
@[simp] theorem Pkg.modCluster_served (p : Pkg) (c : Nat) (f : Cluster → Cluster) : (p.modCluster c f).served = p.served := rfl
@[simp] theorem Pkg.modCluster_erred (p : Pkg) (c : Nat) (f : Cluster → Cluster) : (p.modCluster c f).erred = p.erred := rfl

@[simp] theorem Pkg.modDie_present (p : Pkg) (d : Nat) (f : Die → Die) : (p.modDie d f).present = p.present := rfl
@[simp] theorem Pkg.modDie_lost (p : Pkg) (d : Nat) (f : Die → Die) : (p.modDie d f).lost = p.lost := rfl
@[simp] theorem Pkg.modDie_boot (p : Pkg) (d : Nat) (f : Die → Die) : (p.modDie d f).boot = p.boot := rfl
@[simp] theorem Pkg.modDie_bars (p : Pkg) (d : Nat) (f : Die → Die) : (p.modDie d f).bars = p.bars := rfl
@[simp] theorem Pkg.modDie_ctl (p : Pkg) (d : Nat) (f : Die → Die) : (p.modDie d f).ctl = p.ctl := rfl
@[simp] theorem Pkg.modDie_hostQ (p : Pkg) (d : Nat) (f : Die → Die) : (p.modDie d f).hostQ = p.hostQ := rfl
@[simp] theorem Pkg.modDie_hostSeen (p : Pkg) (d : Nat) (f : Die → Die) : (p.modDie d f).hostSeen = p.hostSeen := rfl
@[simp] theorem Pkg.modDie_vfbind (p : Pkg) (d : Nat) (f : Die → Die) : (p.modDie d f).vfbind = p.vfbind := rfl
@[simp] theorem Pkg.modDie_mbox (p : Pkg) (d : Nat) (f : Die → Die) : (p.modDie d f).mbox = p.mbox := rfl
@[simp] theorem Pkg.modDie_cntsel (p : Pkg) (d : Nat) (f : Die → Die) : (p.modDie d f).cntsel = p.cntsel := rfl
@[simp] theorem Pkg.modDie_series (p : Pkg) (d : Nat) (f : Die → Die) : (p.modDie d f).series = p.series := rfl
@[simp] theorem Pkg.modDie_counters (p : Pkg) (d : Nat) (f : Die → Die) : (p.modDie d f).counters = p.counters := rfl
@[simp] theorem Pkg.modDie_timebase (p : Pkg) (d : Nat) (f : Die → Die) : (p.modDie d f).timebase = p.timebase := rfl
@[simp] theorem Pkg.modDie_frac (p : Pkg) (d : Nat) (f : Die → Die) : (p.modDie d f).frac = p.frac := rfl
@[simp] theorem Pkg.modDie_slew (p : Pkg) (d : Nat) (f : Die → Die) : (p.modDie d f).slew = p.slew := rfl
@[simp] theorem Pkg.modDie_holdover (p : Pkg) (d : Nat) (f : Die → Die) : (p.modDie d f).holdover = p.holdover := rfl
@[simp] theorem Pkg.modDie_cyc (p : Pkg) (d : Nat) (f : Die → Die) : (p.modDie d f).cyc = p.cyc := rfl
@[simp] theorem Pkg.modDie_blocks (p : Pkg) (d : Nat) (f : Die → Die) : (p.modDie d f).blocks = p.blocks := rfl
@[simp] theorem Pkg.modDie_launches (p : Pkg) (d : Nat) (f : Die → Die) : (p.modDie d f).launches = p.launches := rfl
@[simp] theorem Pkg.modDie_cores (p : Pkg) (d : Nat) (f : Die → Die) : (p.modDie d f).cores = p.cores := rfl
@[simp] theorem Pkg.modDie_clusters (p : Pkg) (d : Nat) (f : Die → Die) : (p.modDie d f).clusters = p.clusters := rfl
@[simp] theorem Pkg.modDie_chains (p : Pkg) (d : Nat) (f : Die → Die) : (p.modDie d f).chains = p.chains := rfl
@[simp] theorem Pkg.modDie_faults (p : Pkg) (d : Nat) (f : Die → Die) : (p.modDie d f).faults = p.faults := rfl
@[simp] theorem Pkg.modDie_fqs (p : Pkg) (d : Nat) (f : Die → Die) : (p.modDie d f).fqs = p.fqs := rfl
@[simp] theorem Pkg.modDie_nextFault (p : Pkg) (d : Nat) (f : Die → Die) : (p.modDie d f).nextFault = p.nextFault := rfl
@[simp] theorem Pkg.modDie_invals (p : Pkg) (d : Nat) (f : Die → Die) : (p.modDie d f).invals = p.invals := rfl
@[simp] theorem Pkg.modDie_capexh (p : Pkg) (d : Nat) (f : Die → Die) : (p.modDie d f).capexh = p.capexh := rfl
@[simp] theorem Pkg.modDie_slices (p : Pkg) (d : Nat) (f : Die → Die) : (p.modDie d f).slices = p.slices := rfl
@[simp] theorem Pkg.modDie_frames (p : Pkg) (d : Nat) (f : Die → Die) : (p.modDie d f).frames = p.frames := rfl
@[simp] theorem Pkg.modDie_dirs (p : Pkg) (d : Nat) (f : Die → Die) : (p.modDie d f).dirs = p.dirs := rfl
@[simp] theorem Pkg.modDie_injected (p : Pkg) (d : Nat) (f : Die → Die) : (p.modDie d f).injected = p.injected := rfl
@[simp] theorem Pkg.modDie_ports (p : Pkg) (d : Nat) (f : Die → Die) : (p.modDie d f).ports = p.ports := rfl
@[simp] theorem Pkg.modDie_routersDown (p : Pkg) (d : Nat) (f : Die → Die) : (p.modDie d f).routersDown = p.routersDown := rfl
@[simp] theorem Pkg.modDie_signals (p : Pkg) (d : Nat) (f : Die → Die) : (p.modDie d f).signals = p.signals := rfl
@[simp] theorem Pkg.modDie_heldFor (p : Pkg) (d : Nat) (f : Die → Die) : (p.modDie d f).heldFor = p.heldFor := rfl
@[simp] theorem Pkg.modDie_served (p : Pkg) (d : Nat) (f : Die → Die) : (p.modDie d f).served = p.served := rfl
@[simp] theorem Pkg.modDie_erred (p : Pkg) (d : Nat) (f : Die → Die) : (p.modDie d f).erred = p.erred := rfl

@[simp] theorem Pkg.modPort_present (p : Pkg) (n : Nat) (f : Port → Port) : (p.modPort n f).present = p.present := rfl
@[simp] theorem Pkg.modPort_lost (p : Pkg) (n : Nat) (f : Port → Port) : (p.modPort n f).lost = p.lost := rfl
@[simp] theorem Pkg.modPort_boot (p : Pkg) (n : Nat) (f : Port → Port) : (p.modPort n f).boot = p.boot := rfl
@[simp] theorem Pkg.modPort_bars (p : Pkg) (n : Nat) (f : Port → Port) : (p.modPort n f).bars = p.bars := rfl
@[simp] theorem Pkg.modPort_ctl (p : Pkg) (n : Nat) (f : Port → Port) : (p.modPort n f).ctl = p.ctl := rfl
@[simp] theorem Pkg.modPort_hostQ (p : Pkg) (n : Nat) (f : Port → Port) : (p.modPort n f).hostQ = p.hostQ := rfl
@[simp] theorem Pkg.modPort_hostSeen (p : Pkg) (n : Nat) (f : Port → Port) : (p.modPort n f).hostSeen = p.hostSeen := rfl
@[simp] theorem Pkg.modPort_vfbind (p : Pkg) (n : Nat) (f : Port → Port) : (p.modPort n f).vfbind = p.vfbind := rfl
@[simp] theorem Pkg.modPort_mbox (p : Pkg) (n : Nat) (f : Port → Port) : (p.modPort n f).mbox = p.mbox := rfl
@[simp] theorem Pkg.modPort_cntsel (p : Pkg) (n : Nat) (f : Port → Port) : (p.modPort n f).cntsel = p.cntsel := rfl
@[simp] theorem Pkg.modPort_series (p : Pkg) (n : Nat) (f : Port → Port) : (p.modPort n f).series = p.series := rfl
@[simp] theorem Pkg.modPort_counters (p : Pkg) (n : Nat) (f : Port → Port) : (p.modPort n f).counters = p.counters := rfl
@[simp] theorem Pkg.modPort_timebase (p : Pkg) (n : Nat) (f : Port → Port) : (p.modPort n f).timebase = p.timebase := rfl
@[simp] theorem Pkg.modPort_frac (p : Pkg) (n : Nat) (f : Port → Port) : (p.modPort n f).frac = p.frac := rfl
@[simp] theorem Pkg.modPort_slew (p : Pkg) (n : Nat) (f : Port → Port) : (p.modPort n f).slew = p.slew := rfl
@[simp] theorem Pkg.modPort_holdover (p : Pkg) (n : Nat) (f : Port → Port) : (p.modPort n f).holdover = p.holdover := rfl
@[simp] theorem Pkg.modPort_cyc (p : Pkg) (n : Nat) (f : Port → Port) : (p.modPort n f).cyc = p.cyc := rfl
@[simp] theorem Pkg.modPort_blocks (p : Pkg) (n : Nat) (f : Port → Port) : (p.modPort n f).blocks = p.blocks := rfl
@[simp] theorem Pkg.modPort_launches (p : Pkg) (n : Nat) (f : Port → Port) : (p.modPort n f).launches = p.launches := rfl
@[simp] theorem Pkg.modPort_cores (p : Pkg) (n : Nat) (f : Port → Port) : (p.modPort n f).cores = p.cores := rfl
@[simp] theorem Pkg.modPort_clusters (p : Pkg) (n : Nat) (f : Port → Port) : (p.modPort n f).clusters = p.clusters := rfl
@[simp] theorem Pkg.modPort_dies (p : Pkg) (n : Nat) (f : Port → Port) : (p.modPort n f).dies = p.dies := rfl
@[simp] theorem Pkg.modPort_chains (p : Pkg) (n : Nat) (f : Port → Port) : (p.modPort n f).chains = p.chains := rfl
@[simp] theorem Pkg.modPort_faults (p : Pkg) (n : Nat) (f : Port → Port) : (p.modPort n f).faults = p.faults := rfl
@[simp] theorem Pkg.modPort_fqs (p : Pkg) (n : Nat) (f : Port → Port) : (p.modPort n f).fqs = p.fqs := rfl
@[simp] theorem Pkg.modPort_nextFault (p : Pkg) (n : Nat) (f : Port → Port) : (p.modPort n f).nextFault = p.nextFault := rfl
@[simp] theorem Pkg.modPort_invals (p : Pkg) (n : Nat) (f : Port → Port) : (p.modPort n f).invals = p.invals := rfl
@[simp] theorem Pkg.modPort_capexh (p : Pkg) (n : Nat) (f : Port → Port) : (p.modPort n f).capexh = p.capexh := rfl
@[simp] theorem Pkg.modPort_slices (p : Pkg) (n : Nat) (f : Port → Port) : (p.modPort n f).slices = p.slices := rfl
@[simp] theorem Pkg.modPort_frames (p : Pkg) (n : Nat) (f : Port → Port) : (p.modPort n f).frames = p.frames := rfl
@[simp] theorem Pkg.modPort_dirs (p : Pkg) (n : Nat) (f : Port → Port) : (p.modPort n f).dirs = p.dirs := rfl
@[simp] theorem Pkg.modPort_injected (p : Pkg) (n : Nat) (f : Port → Port) : (p.modPort n f).injected = p.injected := rfl
@[simp] theorem Pkg.modPort_routersDown (p : Pkg) (n : Nat) (f : Port → Port) : (p.modPort n f).routersDown = p.routersDown := rfl
@[simp] theorem Pkg.modPort_signals (p : Pkg) (n : Nat) (f : Port → Port) : (p.modPort n f).signals = p.signals := rfl
@[simp] theorem Pkg.modPort_heldFor (p : Pkg) (n : Nat) (f : Port → Port) : (p.modPort n f).heldFor = p.heldFor := rfl
@[simp] theorem Pkg.modPort_served (p : Pkg) (n : Nat) (f : Port → Port) : (p.modPort n f).served = p.served := rfl
@[simp] theorem Pkg.modPort_erred (p : Pkg) (n : Nat) (f : Port → Port) : (p.modPort n f).erred = p.erred := rfl

@[simp] theorem Pkg.modCtl_present (p : Pkg) (n : Nat) (f : Ctl → Ctl) : (p.modCtl n f).present = p.present := rfl
@[simp] theorem Pkg.modCtl_lost (p : Pkg) (n : Nat) (f : Ctl → Ctl) : (p.modCtl n f).lost = p.lost := rfl
@[simp] theorem Pkg.modCtl_boot (p : Pkg) (n : Nat) (f : Ctl → Ctl) : (p.modCtl n f).boot = p.boot := rfl
@[simp] theorem Pkg.modCtl_bars (p : Pkg) (n : Nat) (f : Ctl → Ctl) : (p.modCtl n f).bars = p.bars := rfl
@[simp] theorem Pkg.modCtl_hostQ (p : Pkg) (n : Nat) (f : Ctl → Ctl) : (p.modCtl n f).hostQ = p.hostQ := rfl
@[simp] theorem Pkg.modCtl_hostSeen (p : Pkg) (n : Nat) (f : Ctl → Ctl) : (p.modCtl n f).hostSeen = p.hostSeen := rfl
@[simp] theorem Pkg.modCtl_vfbind (p : Pkg) (n : Nat) (f : Ctl → Ctl) : (p.modCtl n f).vfbind = p.vfbind := rfl
@[simp] theorem Pkg.modCtl_mbox (p : Pkg) (n : Nat) (f : Ctl → Ctl) : (p.modCtl n f).mbox = p.mbox := rfl
@[simp] theorem Pkg.modCtl_cntsel (p : Pkg) (n : Nat) (f : Ctl → Ctl) : (p.modCtl n f).cntsel = p.cntsel := rfl
@[simp] theorem Pkg.modCtl_series (p : Pkg) (n : Nat) (f : Ctl → Ctl) : (p.modCtl n f).series = p.series := rfl
@[simp] theorem Pkg.modCtl_counters (p : Pkg) (n : Nat) (f : Ctl → Ctl) : (p.modCtl n f).counters = p.counters := rfl
@[simp] theorem Pkg.modCtl_timebase (p : Pkg) (n : Nat) (f : Ctl → Ctl) : (p.modCtl n f).timebase = p.timebase := rfl
@[simp] theorem Pkg.modCtl_frac (p : Pkg) (n : Nat) (f : Ctl → Ctl) : (p.modCtl n f).frac = p.frac := rfl
@[simp] theorem Pkg.modCtl_slew (p : Pkg) (n : Nat) (f : Ctl → Ctl) : (p.modCtl n f).slew = p.slew := rfl
@[simp] theorem Pkg.modCtl_holdover (p : Pkg) (n : Nat) (f : Ctl → Ctl) : (p.modCtl n f).holdover = p.holdover := rfl
@[simp] theorem Pkg.modCtl_cyc (p : Pkg) (n : Nat) (f : Ctl → Ctl) : (p.modCtl n f).cyc = p.cyc := rfl
@[simp] theorem Pkg.modCtl_blocks (p : Pkg) (n : Nat) (f : Ctl → Ctl) : (p.modCtl n f).blocks = p.blocks := rfl
@[simp] theorem Pkg.modCtl_launches (p : Pkg) (n : Nat) (f : Ctl → Ctl) : (p.modCtl n f).launches = p.launches := rfl
@[simp] theorem Pkg.modCtl_cores (p : Pkg) (n : Nat) (f : Ctl → Ctl) : (p.modCtl n f).cores = p.cores := rfl
@[simp] theorem Pkg.modCtl_clusters (p : Pkg) (n : Nat) (f : Ctl → Ctl) : (p.modCtl n f).clusters = p.clusters := rfl
@[simp] theorem Pkg.modCtl_dies (p : Pkg) (n : Nat) (f : Ctl → Ctl) : (p.modCtl n f).dies = p.dies := rfl
@[simp] theorem Pkg.modCtl_chains (p : Pkg) (n : Nat) (f : Ctl → Ctl) : (p.modCtl n f).chains = p.chains := rfl
@[simp] theorem Pkg.modCtl_faults (p : Pkg) (n : Nat) (f : Ctl → Ctl) : (p.modCtl n f).faults = p.faults := rfl
@[simp] theorem Pkg.modCtl_fqs (p : Pkg) (n : Nat) (f : Ctl → Ctl) : (p.modCtl n f).fqs = p.fqs := rfl
@[simp] theorem Pkg.modCtl_nextFault (p : Pkg) (n : Nat) (f : Ctl → Ctl) : (p.modCtl n f).nextFault = p.nextFault := rfl
@[simp] theorem Pkg.modCtl_invals (p : Pkg) (n : Nat) (f : Ctl → Ctl) : (p.modCtl n f).invals = p.invals := rfl
@[simp] theorem Pkg.modCtl_capexh (p : Pkg) (n : Nat) (f : Ctl → Ctl) : (p.modCtl n f).capexh = p.capexh := rfl
@[simp] theorem Pkg.modCtl_slices (p : Pkg) (n : Nat) (f : Ctl → Ctl) : (p.modCtl n f).slices = p.slices := rfl
@[simp] theorem Pkg.modCtl_frames (p : Pkg) (n : Nat) (f : Ctl → Ctl) : (p.modCtl n f).frames = p.frames := rfl
@[simp] theorem Pkg.modCtl_dirs (p : Pkg) (n : Nat) (f : Ctl → Ctl) : (p.modCtl n f).dirs = p.dirs := rfl
@[simp] theorem Pkg.modCtl_injected (p : Pkg) (n : Nat) (f : Ctl → Ctl) : (p.modCtl n f).injected = p.injected := rfl
@[simp] theorem Pkg.modCtl_ports (p : Pkg) (n : Nat) (f : Ctl → Ctl) : (p.modCtl n f).ports = p.ports := rfl
@[simp] theorem Pkg.modCtl_routersDown (p : Pkg) (n : Nat) (f : Ctl → Ctl) : (p.modCtl n f).routersDown = p.routersDown := rfl
@[simp] theorem Pkg.modCtl_signals (p : Pkg) (n : Nat) (f : Ctl → Ctl) : (p.modCtl n f).signals = p.signals := rfl
@[simp] theorem Pkg.modCtl_heldFor (p : Pkg) (n : Nat) (f : Ctl → Ctl) : (p.modCtl n f).heldFor = p.heldFor := rfl
@[simp] theorem Pkg.modCtl_served (p : Pkg) (n : Nat) (f : Ctl → Ctl) : (p.modCtl n f).served = p.served := rfl
@[simp] theorem Pkg.modCtl_erred (p : Pkg) (n : Nat) (f : Ctl → Ctl) : (p.modCtl n f).erred = p.erred := rfl

@[simp] theorem Pkg.modMbox_present (p : Pkg) (n : Nat) (f : Mbox → Mbox) : (p.modMbox n f).present = p.present := rfl
@[simp] theorem Pkg.modMbox_lost (p : Pkg) (n : Nat) (f : Mbox → Mbox) : (p.modMbox n f).lost = p.lost := rfl
@[simp] theorem Pkg.modMbox_boot (p : Pkg) (n : Nat) (f : Mbox → Mbox) : (p.modMbox n f).boot = p.boot := rfl
@[simp] theorem Pkg.modMbox_bars (p : Pkg) (n : Nat) (f : Mbox → Mbox) : (p.modMbox n f).bars = p.bars := rfl
@[simp] theorem Pkg.modMbox_ctl (p : Pkg) (n : Nat) (f : Mbox → Mbox) : (p.modMbox n f).ctl = p.ctl := rfl
@[simp] theorem Pkg.modMbox_hostQ (p : Pkg) (n : Nat) (f : Mbox → Mbox) : (p.modMbox n f).hostQ = p.hostQ := rfl
@[simp] theorem Pkg.modMbox_hostSeen (p : Pkg) (n : Nat) (f : Mbox → Mbox) : (p.modMbox n f).hostSeen = p.hostSeen := rfl
@[simp] theorem Pkg.modMbox_vfbind (p : Pkg) (n : Nat) (f : Mbox → Mbox) : (p.modMbox n f).vfbind = p.vfbind := rfl
@[simp] theorem Pkg.modMbox_cntsel (p : Pkg) (n : Nat) (f : Mbox → Mbox) : (p.modMbox n f).cntsel = p.cntsel := rfl
@[simp] theorem Pkg.modMbox_series (p : Pkg) (n : Nat) (f : Mbox → Mbox) : (p.modMbox n f).series = p.series := rfl
@[simp] theorem Pkg.modMbox_counters (p : Pkg) (n : Nat) (f : Mbox → Mbox) : (p.modMbox n f).counters = p.counters := rfl
@[simp] theorem Pkg.modMbox_timebase (p : Pkg) (n : Nat) (f : Mbox → Mbox) : (p.modMbox n f).timebase = p.timebase := rfl
@[simp] theorem Pkg.modMbox_frac (p : Pkg) (n : Nat) (f : Mbox → Mbox) : (p.modMbox n f).frac = p.frac := rfl
@[simp] theorem Pkg.modMbox_slew (p : Pkg) (n : Nat) (f : Mbox → Mbox) : (p.modMbox n f).slew = p.slew := rfl
@[simp] theorem Pkg.modMbox_holdover (p : Pkg) (n : Nat) (f : Mbox → Mbox) : (p.modMbox n f).holdover = p.holdover := rfl
@[simp] theorem Pkg.modMbox_cyc (p : Pkg) (n : Nat) (f : Mbox → Mbox) : (p.modMbox n f).cyc = p.cyc := rfl
@[simp] theorem Pkg.modMbox_blocks (p : Pkg) (n : Nat) (f : Mbox → Mbox) : (p.modMbox n f).blocks = p.blocks := rfl
@[simp] theorem Pkg.modMbox_launches (p : Pkg) (n : Nat) (f : Mbox → Mbox) : (p.modMbox n f).launches = p.launches := rfl
@[simp] theorem Pkg.modMbox_cores (p : Pkg) (n : Nat) (f : Mbox → Mbox) : (p.modMbox n f).cores = p.cores := rfl
@[simp] theorem Pkg.modMbox_clusters (p : Pkg) (n : Nat) (f : Mbox → Mbox) : (p.modMbox n f).clusters = p.clusters := rfl
@[simp] theorem Pkg.modMbox_dies (p : Pkg) (n : Nat) (f : Mbox → Mbox) : (p.modMbox n f).dies = p.dies := rfl
@[simp] theorem Pkg.modMbox_chains (p : Pkg) (n : Nat) (f : Mbox → Mbox) : (p.modMbox n f).chains = p.chains := rfl
@[simp] theorem Pkg.modMbox_faults (p : Pkg) (n : Nat) (f : Mbox → Mbox) : (p.modMbox n f).faults = p.faults := rfl
@[simp] theorem Pkg.modMbox_fqs (p : Pkg) (n : Nat) (f : Mbox → Mbox) : (p.modMbox n f).fqs = p.fqs := rfl
@[simp] theorem Pkg.modMbox_nextFault (p : Pkg) (n : Nat) (f : Mbox → Mbox) : (p.modMbox n f).nextFault = p.nextFault := rfl
@[simp] theorem Pkg.modMbox_invals (p : Pkg) (n : Nat) (f : Mbox → Mbox) : (p.modMbox n f).invals = p.invals := rfl
@[simp] theorem Pkg.modMbox_capexh (p : Pkg) (n : Nat) (f : Mbox → Mbox) : (p.modMbox n f).capexh = p.capexh := rfl
@[simp] theorem Pkg.modMbox_slices (p : Pkg) (n : Nat) (f : Mbox → Mbox) : (p.modMbox n f).slices = p.slices := rfl
@[simp] theorem Pkg.modMbox_frames (p : Pkg) (n : Nat) (f : Mbox → Mbox) : (p.modMbox n f).frames = p.frames := rfl
@[simp] theorem Pkg.modMbox_dirs (p : Pkg) (n : Nat) (f : Mbox → Mbox) : (p.modMbox n f).dirs = p.dirs := rfl
@[simp] theorem Pkg.modMbox_injected (p : Pkg) (n : Nat) (f : Mbox → Mbox) : (p.modMbox n f).injected = p.injected := rfl
@[simp] theorem Pkg.modMbox_ports (p : Pkg) (n : Nat) (f : Mbox → Mbox) : (p.modMbox n f).ports = p.ports := rfl
@[simp] theorem Pkg.modMbox_routersDown (p : Pkg) (n : Nat) (f : Mbox → Mbox) : (p.modMbox n f).routersDown = p.routersDown := rfl
@[simp] theorem Pkg.modMbox_signals (p : Pkg) (n : Nat) (f : Mbox → Mbox) : (p.modMbox n f).signals = p.signals := rfl
@[simp] theorem Pkg.modMbox_heldFor (p : Pkg) (n : Nat) (f : Mbox → Mbox) : (p.modMbox n f).heldFor = p.heldFor := rfl
@[simp] theorem Pkg.modMbox_served (p : Pkg) (n : Nat) (f : Mbox → Mbox) : (p.modMbox n f).served = p.served := rfl
@[simp] theorem Pkg.modMbox_erred (p : Pkg) (n : Nat) (f : Mbox → Mbox) : (p.modMbox n f).erred = p.erred := rfl

@[simp] theorem Pkg.setFrame_present (p : Pkg) (n : Nat) (t : FrameTag) : (p.setFrame n t).present = p.present := rfl
@[simp] theorem Pkg.setFrame_lost (p : Pkg) (n : Nat) (t : FrameTag) : (p.setFrame n t).lost = p.lost := rfl
@[simp] theorem Pkg.setFrame_boot (p : Pkg) (n : Nat) (t : FrameTag) : (p.setFrame n t).boot = p.boot := rfl
@[simp] theorem Pkg.setFrame_bars (p : Pkg) (n : Nat) (t : FrameTag) : (p.setFrame n t).bars = p.bars := rfl
@[simp] theorem Pkg.setFrame_ctl (p : Pkg) (n : Nat) (t : FrameTag) : (p.setFrame n t).ctl = p.ctl := rfl
@[simp] theorem Pkg.setFrame_hostQ (p : Pkg) (n : Nat) (t : FrameTag) : (p.setFrame n t).hostQ = p.hostQ := rfl
@[simp] theorem Pkg.setFrame_hostSeen (p : Pkg) (n : Nat) (t : FrameTag) : (p.setFrame n t).hostSeen = p.hostSeen := rfl
@[simp] theorem Pkg.setFrame_vfbind (p : Pkg) (n : Nat) (t : FrameTag) : (p.setFrame n t).vfbind = p.vfbind := rfl
@[simp] theorem Pkg.setFrame_mbox (p : Pkg) (n : Nat) (t : FrameTag) : (p.setFrame n t).mbox = p.mbox := rfl
@[simp] theorem Pkg.setFrame_cntsel (p : Pkg) (n : Nat) (t : FrameTag) : (p.setFrame n t).cntsel = p.cntsel := rfl
@[simp] theorem Pkg.setFrame_series (p : Pkg) (n : Nat) (t : FrameTag) : (p.setFrame n t).series = p.series := rfl
@[simp] theorem Pkg.setFrame_counters (p : Pkg) (n : Nat) (t : FrameTag) : (p.setFrame n t).counters = p.counters := rfl
@[simp] theorem Pkg.setFrame_timebase (p : Pkg) (n : Nat) (t : FrameTag) : (p.setFrame n t).timebase = p.timebase := rfl
@[simp] theorem Pkg.setFrame_frac (p : Pkg) (n : Nat) (t : FrameTag) : (p.setFrame n t).frac = p.frac := rfl
@[simp] theorem Pkg.setFrame_slew (p : Pkg) (n : Nat) (t : FrameTag) : (p.setFrame n t).slew = p.slew := rfl
@[simp] theorem Pkg.setFrame_holdover (p : Pkg) (n : Nat) (t : FrameTag) : (p.setFrame n t).holdover = p.holdover := rfl
@[simp] theorem Pkg.setFrame_cyc (p : Pkg) (n : Nat) (t : FrameTag) : (p.setFrame n t).cyc = p.cyc := rfl
@[simp] theorem Pkg.setFrame_blocks (p : Pkg) (n : Nat) (t : FrameTag) : (p.setFrame n t).blocks = p.blocks := rfl
@[simp] theorem Pkg.setFrame_launches (p : Pkg) (n : Nat) (t : FrameTag) : (p.setFrame n t).launches = p.launches := rfl
@[simp] theorem Pkg.setFrame_cores (p : Pkg) (n : Nat) (t : FrameTag) : (p.setFrame n t).cores = p.cores := rfl
@[simp] theorem Pkg.setFrame_clusters (p : Pkg) (n : Nat) (t : FrameTag) : (p.setFrame n t).clusters = p.clusters := rfl
@[simp] theorem Pkg.setFrame_dies (p : Pkg) (n : Nat) (t : FrameTag) : (p.setFrame n t).dies = p.dies := rfl
@[simp] theorem Pkg.setFrame_chains (p : Pkg) (n : Nat) (t : FrameTag) : (p.setFrame n t).chains = p.chains := rfl
@[simp] theorem Pkg.setFrame_faults (p : Pkg) (n : Nat) (t : FrameTag) : (p.setFrame n t).faults = p.faults := rfl
@[simp] theorem Pkg.setFrame_fqs (p : Pkg) (n : Nat) (t : FrameTag) : (p.setFrame n t).fqs = p.fqs := rfl
@[simp] theorem Pkg.setFrame_nextFault (p : Pkg) (n : Nat) (t : FrameTag) : (p.setFrame n t).nextFault = p.nextFault := rfl
@[simp] theorem Pkg.setFrame_invals (p : Pkg) (n : Nat) (t : FrameTag) : (p.setFrame n t).invals = p.invals := rfl
@[simp] theorem Pkg.setFrame_capexh (p : Pkg) (n : Nat) (t : FrameTag) : (p.setFrame n t).capexh = p.capexh := rfl
@[simp] theorem Pkg.setFrame_slices (p : Pkg) (n : Nat) (t : FrameTag) : (p.setFrame n t).slices = p.slices := rfl
@[simp] theorem Pkg.setFrame_dirs (p : Pkg) (n : Nat) (t : FrameTag) : (p.setFrame n t).dirs = p.dirs := rfl
@[simp] theorem Pkg.setFrame_injected (p : Pkg) (n : Nat) (t : FrameTag) : (p.setFrame n t).injected = p.injected := rfl
@[simp] theorem Pkg.setFrame_ports (p : Pkg) (n : Nat) (t : FrameTag) : (p.setFrame n t).ports = p.ports := rfl
@[simp] theorem Pkg.setFrame_routersDown (p : Pkg) (n : Nat) (t : FrameTag) : (p.setFrame n t).routersDown = p.routersDown := rfl
@[simp] theorem Pkg.setFrame_signals (p : Pkg) (n : Nat) (t : FrameTag) : (p.setFrame n t).signals = p.signals := rfl
@[simp] theorem Pkg.setFrame_heldFor (p : Pkg) (n : Nat) (t : FrameTag) : (p.setFrame n t).heldFor = p.heldFor := rfl
@[simp] theorem Pkg.setFrame_served (p : Pkg) (n : Nat) (t : FrameTag) : (p.setFrame n t).served = p.served := rfl
@[simp] theorem Pkg.setFrame_erred (p : Pkg) (n : Nat) (t : FrameTag) : (p.setFrame n t).erred = p.erred := rfl

@[simp] theorem Pkg.count_present (p : Pkg) (c : Ctr) (i n : Nat) : (p.count c i n).present = p.present := rfl
@[simp] theorem Pkg.count_lost (p : Pkg) (c : Ctr) (i n : Nat) : (p.count c i n).lost = p.lost := rfl
@[simp] theorem Pkg.count_boot (p : Pkg) (c : Ctr) (i n : Nat) : (p.count c i n).boot = p.boot := rfl
@[simp] theorem Pkg.count_bars (p : Pkg) (c : Ctr) (i n : Nat) : (p.count c i n).bars = p.bars := rfl
@[simp] theorem Pkg.count_ctl (p : Pkg) (c : Ctr) (i n : Nat) : (p.count c i n).ctl = p.ctl := rfl
@[simp] theorem Pkg.count_hostQ (p : Pkg) (c : Ctr) (i n : Nat) : (p.count c i n).hostQ = p.hostQ := rfl
@[simp] theorem Pkg.count_hostSeen (p : Pkg) (c : Ctr) (i n : Nat) : (p.count c i n).hostSeen = p.hostSeen := rfl
@[simp] theorem Pkg.count_vfbind (p : Pkg) (c : Ctr) (i n : Nat) : (p.count c i n).vfbind = p.vfbind := rfl
@[simp] theorem Pkg.count_mbox (p : Pkg) (c : Ctr) (i n : Nat) : (p.count c i n).mbox = p.mbox := rfl
@[simp] theorem Pkg.count_cntsel (p : Pkg) (c : Ctr) (i n : Nat) : (p.count c i n).cntsel = p.cntsel := rfl
@[simp] theorem Pkg.count_series (p : Pkg) (c : Ctr) (i n : Nat) : (p.count c i n).series = p.series := rfl
@[simp] theorem Pkg.count_timebase (p : Pkg) (c : Ctr) (i n : Nat) : (p.count c i n).timebase = p.timebase := rfl
@[simp] theorem Pkg.count_frac (p : Pkg) (c : Ctr) (i n : Nat) : (p.count c i n).frac = p.frac := rfl
@[simp] theorem Pkg.count_slew (p : Pkg) (c : Ctr) (i n : Nat) : (p.count c i n).slew = p.slew := rfl
@[simp] theorem Pkg.count_holdover (p : Pkg) (c : Ctr) (i n : Nat) : (p.count c i n).holdover = p.holdover := rfl
@[simp] theorem Pkg.count_cyc (p : Pkg) (c : Ctr) (i n : Nat) : (p.count c i n).cyc = p.cyc := rfl
@[simp] theorem Pkg.count_blocks (p : Pkg) (c : Ctr) (i n : Nat) : (p.count c i n).blocks = p.blocks := rfl
@[simp] theorem Pkg.count_launches (p : Pkg) (c : Ctr) (i n : Nat) : (p.count c i n).launches = p.launches := rfl
@[simp] theorem Pkg.count_cores (p : Pkg) (c : Ctr) (i n : Nat) : (p.count c i n).cores = p.cores := rfl
@[simp] theorem Pkg.count_clusters (p : Pkg) (c : Ctr) (i n : Nat) : (p.count c i n).clusters = p.clusters := rfl
@[simp] theorem Pkg.count_dies (p : Pkg) (c : Ctr) (i n : Nat) : (p.count c i n).dies = p.dies := rfl
@[simp] theorem Pkg.count_chains (p : Pkg) (c : Ctr) (i n : Nat) : (p.count c i n).chains = p.chains := rfl
@[simp] theorem Pkg.count_faults (p : Pkg) (c : Ctr) (i n : Nat) : (p.count c i n).faults = p.faults := rfl
@[simp] theorem Pkg.count_fqs (p : Pkg) (c : Ctr) (i n : Nat) : (p.count c i n).fqs = p.fqs := rfl
@[simp] theorem Pkg.count_nextFault (p : Pkg) (c : Ctr) (i n : Nat) : (p.count c i n).nextFault = p.nextFault := rfl
@[simp] theorem Pkg.count_invals (p : Pkg) (c : Ctr) (i n : Nat) : (p.count c i n).invals = p.invals := rfl
@[simp] theorem Pkg.count_capexh (p : Pkg) (c : Ctr) (i n : Nat) : (p.count c i n).capexh = p.capexh := rfl
@[simp] theorem Pkg.count_slices (p : Pkg) (c : Ctr) (i n : Nat) : (p.count c i n).slices = p.slices := rfl
@[simp] theorem Pkg.count_frames (p : Pkg) (c : Ctr) (i n : Nat) : (p.count c i n).frames = p.frames := rfl
@[simp] theorem Pkg.count_dirs (p : Pkg) (c : Ctr) (i n : Nat) : (p.count c i n).dirs = p.dirs := rfl
@[simp] theorem Pkg.count_injected (p : Pkg) (c : Ctr) (i n : Nat) : (p.count c i n).injected = p.injected := rfl
@[simp] theorem Pkg.count_ports (p : Pkg) (c : Ctr) (i n : Nat) : (p.count c i n).ports = p.ports := rfl
@[simp] theorem Pkg.count_routersDown (p : Pkg) (c : Ctr) (i n : Nat) : (p.count c i n).routersDown = p.routersDown := rfl
@[simp] theorem Pkg.count_signals (p : Pkg) (c : Ctr) (i n : Nat) : (p.count c i n).signals = p.signals := rfl
@[simp] theorem Pkg.count_heldFor (p : Pkg) (c : Ctr) (i n : Nat) : (p.count c i n).heldFor = p.heldFor := rfl
@[simp] theorem Pkg.count_served (p : Pkg) (c : Ctr) (i n : Nat) : (p.count c i n).served = p.served := rfl
@[simp] theorem Pkg.count_erred (p : Pkg) (c : Ctr) (i n : Nat) : (p.count c i n).erred = p.erred := rfl

end Sys2Proof.Machine
end

