-- ==== Sys2Proof/Laws/Ops.lean ====
section
/-! SUPPORT. What the shared operations do, said once: finding and changing the issuing thread, registers, predicates, the judgement of
operands, memory of bytes. -/

namespace Sys2Proof.Machine

/-! ## Groups and threads -/

theorem State.group?_modGroup (s : State) (u : Nat) (f : Group → Group) (x : Nat) :
    (s.modGroup u f).group? x = if x = u then (s.group? u).map f else s.group? x :=
  SMap.find?_modify s.groups x u f

theorem State.pkg?_modPkg (s : State) (p : Nat) (f : Pkg → Pkg) (x : Nat) :
    (s.modPkg p f).pkg? x = if x = p then (s.pkg? p).map f else s.pkg? x :=
  SMap.find?_modify s.pkgs x p f

theorem State.item?_setItem (s : State) (y : Nat) (i : Item) (x : Nat) :
    (s.setItem y i).item? x = if x = y then (s.item? y).map (fun _ => i) else s.item? x :=
  SMap.find?_modify s.items x y _

theorem State.item?_dropItem (s : State) (y x : Nat) : (s.dropItem y).item? x = if x = y then none else s.item? x :=
  SMap.find?_del s.items x y

/-- A change of a thread looks only at that thread. -/
theorem State.modThread_congr {s : State} {k : TKey} {g : Group} {t : Thread} {f h : Thread → Thread}
    (hg : s.group? k.uid = some g) (ht : g.threads[k.tidx]? = some t) (e : f t = h t) : s.modThread k f = s.modThread k h := by
  simp only [State.modThread, State.modGroup]
  congr 1
  refine SMap.modify_congr (fun v hv => ?_)
  have hv : v = g := by simp only [State.group?] at hg; simp_all
  subst hv
  simp only [Group.modThread]
  congr 1
  apply List.ext_getElem?
  intro i
  simp only [List.getElem?_modify]
  split <;> simp_all

theorem State.modThread_modThread (s : State) (k : TKey) (f h : Thread → Thread) :
    (s.modThread k f).modThread k h = s.modThread k (fun t => h (f t)) := by
  simp only [State.modThread, State.modGroup, SMap.modify_modify, Group.modThread]
  congr 1
  refine SMap.modify_congr (fun v _ => ?_)
  congr 1
  apply List.ext_getElem?
  intro i
  simp only [List.getElem?_modify]
  cases v.threads[i]? <;> simp
  split <;> simp_all

theorem State.group?_modThread {s : State} {k : TKey} {g : Group} {t : Thread} (hg : s.group? k.uid = some g)
    (ht : g.threads[k.tidx]? = some t) (f : Thread → Thread) :
    (s.modThread k f).group? k.uid = some { g with threads := g.threads.set k.tidx (f t) } := by
  simp only [State.modThread, State.group?_modGroup, hg, if_true, Option.map_some, Group.modThread]
  congr 2
  apply List.ext_getElem?
  intro i
  simp only [List.getElem?_modify, List.getElem?_set]
  split
  · subst_vars
    have := (List.getElem?_eq_some_iff.1 ht).1
    simp_all
  · simp

theorem State.group?_modThread_ne (s : State) (k : TKey) (f : Thread → Thread) {x : Nat} (h : x ≠ k.uid) :
    (s.modThread k f).group? x = s.group? x := by
  simp [State.modThread, State.group?_modGroup, h]

theorem State.thread?_modThread (s : State) (k : TKey) (f : Thread → Thread) (j : TKey) :
    (s.modThread k f).thread? j = if j = k then (s.thread? k).map f else s.thread? j := by
  obtain ⟨ju, jt⟩ := j
  obtain ⟨ku, kt⟩ := k
  simp only [State.thread?, State.modThread, State.group?_modGroup, TKey.mk.injEq]
  by_cases hu : ju = ku
  · subst hu
    simp only [if_true, Group.modThread, true_and]
    cases s.group? ju with
    | none => simp
    | some g =>
      simp only [Option.map_some, Option.bind_some, List.getElem?_modify]
      by_cases hj : jt = kt
      · subst hj; simp
      · simp [hj, Ne.symm hj]
  · simp [hu]

theorem State.Issuing.thread {s : State} {k : TKey} {g : Group} {t : Thread} (h : s.Issuing k g t) : s.thread? k = some t := by
  simp [State.thread?, h.2.1, h.2.2]

/-! ## Running a meaning for the issuing thread -/

theorem withThread_issuing {s : State} {k : TKey} {g : Group} {t : Thread} (h : s.Issuing k g t) (f : TKey → Group → Thread → State) :
    withThread s f = .next (f k g t) := by
  simp [withThread, h.1, h.2.1, h.2.2]

theorem judged_ready {s : State} {k : TKey} {g : Group} {t : Thread} {sp : Spans} (r : OperandsReady g t sp) (body : State) :
    judged s k g t sp body = body := by
  simp [judged, r.1, r.2]

theorem judged_outside {s : State} {k : TKey} {g : Group} {t : Thread} {sp : Spans} (r : inWindow g t sp = false) (body : State) :
    judged s k g t sp body = s.allotmentFault k t := by
  simp [judged, r]

theorem judged_pending {s : State} {k : TKey} {g : Group} {t : Thread} {sp : Spans} (r : inWindow g t sp = true) {x : Nat}
    {xs : List Nat} (h : pendingOf t sp = x :: xs) (body : State) : judged s k g t sp body = s.stay k (.operand (x :: xs)) := by
  simp [judged, r, h]

theorem ungoverned_ready {s : State} {k : TKey} {g : Group} {t : Thread} {sp : Spans} (h : s.Issuing k g t) (r : OperandsReady g t sp)
    (f : TKey → Group → Thread → State) : ungoverned s sp f = .next (f k g t) := by
  simp [ungoverned, withThread_issuing h, judged_ready r]

theorem governed_ready {s : State} {k : TKey} {g : Group} {t : Thread} {sp : Spans} (h : s.Issuing k g t) (a : t.active = true)
    (r : OperandsReady g t sp) (f : TKey → Group → Thread → State) : governed s sp f = .next (f k g t) := by
  simp [governed, ungoverned_ready h r, a]

theorem governed_inactive {s : State} {k : TKey} {g : Group} {t : Thread} {sp : Spans} (h : s.Issuing k g t) (a : t.active = false)
    (r : OperandsReady g t sp) (f : TKey → Group → Thread → State) : governed s sp f = .next (s.retire k id) := by
  simp [governed, ungoverned_ready h r, a]

theorem operandsReady_nil (g : Group) (t : Thread) : OperandsReady g t [] := by
  refine ⟨?_, rfl⟩
  unfold inWindow
  cases t.iterates <;> rfl

theorem State.retire_congr {s : State} {k : TKey} {g : Group} {t : Thread} {f h : Thread → Thread} (H : s.Issuing k g t)
    (e : f t = h t) : s.retire k f = s.retire k h :=
  State.modThread_congr H.2.1 H.2.2 (by simp [e])

/-! ## Registers, predicates, tags -/

@[simp] theorem insertNat_mem (l : List Nat) (j x : Nat) : x ∈ insertNat l j ↔ x = j ∨ x ∈ l := by
  induction l with
  | nil => simp [insertNat]
  | cons k m ih =>
    simp only [insertNat]
    split
    · subst_vars; simp
    · split
      · simp
      · simp [ih, or_left_comm]

@[simp] theorem eraseNat_mem (l : List Nat) (j x : Nat) : x ∈ eraseNat l j ↔ x ∈ l ∧ x ≠ j := by
  simp [eraseNat]

theorem Thread.rdAbs_wrAbs (t : Thread) (r : Nat) (v : Word) (x : Nat) : (t.wrAbs r v).rdAbs x = if x = r then v else t.rdAbs x :=
  SMap.get_set t.regs 0 x r v

theorem Thread.tagAbs_wrAbs (t : Thread) (r : Nat) (v : Word) (x : Nat) :
    (t.wrAbs r v).tagAbs x = if x / 2 = r / 2 then false else t.tagAbs x := by
  have h : x / 2 * 2 = r / 2 * 2 ↔ x / 2 = r / 2 := by omega
  simp only [Thread.tagAbs, Thread.wrAbs, eraseNat_mem, ne_eq, h]
  by_cases e : x / 2 = r / 2 <;> simp [e]

theorem Thread.rdP_wrP (t : Thread) (n : Nat) (v : BitVec 8) (x : Nat) : (t.wrP n v).rdP x = if x = n then v else t.rdP x :=
  SMap.get_set t.preds 0 x n v

theorem Thread.rdH_wrH (t : Thread) (n op x : Nat) : (t.wrH n op).rdH x = if x = n then op else t.rdH x :=
  SMap.get_set t.handles 0 x n op

/-! ## Bytes -/

theorem memBytes_length (m : SMap Byte) (a n : Nat) : (memBytes m a n).length = n := by
  induction n generalizing a with
  | zero => rfl
  | succ n ih => simp [memBytes, ih]

/-- A write changes the bytes it covers and no other. -/
theorem get_memWrite (m : SMap Byte) (a : Nat) (bs : List Byte) (x : Nat) :
    SMap.get (memWrite m a bs) 0 x = if a ≤ x ∧ x < a + bs.length then bs.getD (x - a) 0 else SMap.get m 0 x := by
  induction bs generalizing m a with
  | nil => simp [memWrite] <;> omega
  | cons b bs ih =>
    simp only [memWrite, ih, SMap.get_set, List.length_cons]
    by_cases h : x = a
    · subst h
      rw [if_neg (by omega), if_pos rfl, if_pos (by omega)]
      simp
    · by_cases h1 : a ≤ x ∧ x < a + (bs.length + 1)
      · obtain ⟨d, rfl⟩ : ∃ d, x = a + 1 + d := ⟨x - (a + 1), by omega⟩
        rw [if_pos (by omega), if_pos (by omega), show a + 1 + d - a = d + 1 by omega, show a + 1 + d - (a + 1) = d by omega]
        simp
      · rw [if_neg (by omega), if_neg h, if_neg h1]

theorem memBytes_congr {m m' : SMap Byte} {a n : Nat} (h : ∀ x, a ≤ x → x < a + n → SMap.get m 0 x = SMap.get m' 0 x) :
    memBytes m a n = memBytes m' a n := by
  induction n generalizing a with
  | zero => rfl
  | succ n ih =>
    simp only [memBytes]
    rw [h a (by omega) (by omega), ih (fun x h1 h2 => h x (by omega) (by omega))]

/-- Reading back what has been written. -/
theorem memBytes_memWrite (m : SMap Byte) (a : Nat) (bs : List Byte) : memBytes (memWrite m a bs) a bs.length = bs := by
  induction bs generalizing m a with
  | nil => rfl
  | cons b bs ih =>
    simp only [List.length_cons, memBytes, memWrite, ih]
    rw [get_memWrite, if_neg (by omega), SMap.get_set, if_pos rfl]

/-- A write leaves every other byte as it was. -/
theorem memBytes_memWrite_ne (m : SMap Byte) (a n c : Nat) (bs : List Byte) (h : c + n ≤ a ∨ a + bs.length ≤ c) :
    memBytes (memWrite m a bs) c n = memBytes m c n :=
  memBytes_congr (fun x h1 h2 => by rw [get_memWrite, if_neg (by omega)])

theorem leBytes_length (n v : Nat) : (leBytes n v).length = n := by
  induction n generalizing v with
  | zero => rfl
  | succ n ih => simp [leBytes, ih]

theorem leNat_leBytes (n v : Nat) : leNat (leBytes n v) = v % 256 ^ n := by
  induction n generalizing v with
  | zero => simp [leBytes, leNat, Nat.mod_one]
  | succ n ih =>
    simp only [leBytes, leNat, ih, BitVec.toNat_ofNat]
    rw [show 256 ^ (n + 1) = 256 * 256 ^ n from by rw [Nat.pow_succ, Nat.mul_comm], Nat.mod_mul]

/-- A memory write keeps the canonical form. -/
theorem memWrite_wf {m : SMap Byte} (h : SMap.wf m 0 = true) (a : Nat) (bs : List Byte) : SMap.wf (memWrite m a bs) 0 = true := by
  induction bs generalizing m a with
  | nil => exact h
  | cons b bs ih => exact ih (SMap.wf_set h a b) _

theorem State.MemWf.gput {s : State} (h : s.MemWf) (a : Nat) (bs : List Byte) : (s.gput a bs).MemWf :=
  ⟨memWrite_wf h.1 a bs, h.2.1, h.2.2⟩

theorem State.MemWf.hput {s : State} (h : s.MemWf) (p a : Nat) (bs : List Byte) : (s.hput p a bs).MemWf :=
  ⟨h.1, memWrite_wf h.2.1 _ bs, h.2.2⟩

theorem State.MemWf.modMeta {s : State} (h : s.MemWf) (a : Nat) (f : LineMeta → LineMeta) : (s.modMeta a f).MemWf :=
  ⟨h.1, h.2.1, SMap.wf_set h.2.2 _ _⟩

end Sys2Proof.Machine
end

