-- ==== Sys2Proof/Tests/Slice0.lean ====
section
/-! SUPPORT. Tests: words written out from the encoding tables, ill-formed terms that the checks refuse, single steps on
small states, and for every statement about states a state that meets its hypotheses. -/

namespace Sys2Proof.Tests

open Sys2Proof Sys2Proof.Machine

/-! ## Encodings: words written out from the tables of R294 to R299, every constructor of an instruction word -/

/-- A word and the instruction that the tables give it. -/
def agree (rows : List (Nat × Instr)) : Bool := rows.all (fun e => decide (decodeTableWord 32 e.1 = some e.2))

theorem test_decode_major1_1 : agree [
  (0b000001_00000_0000101_0000110_0000111, .iadd 5 6 7),
  (0b000001_00001_0000101_0000110_0000111, .isub 5 6 7),
  (0b000001_00010_0000101_0000110_0000111, .imul 5 6 7),
  (0b000001_00011_0000101_0000110_0000111, .imulhS32 5 6 7),
  (0b000001_00100_0000101_0000110_0000111, .imulhZ32 5 6 7),
  (0b000001_00101_0000101_0000110_0000111, .imad 5 6 7),
  (0b000001_00110_0000101_0000110_0000111, .idiv .s 5 6 7),
  (0b000001_00111_0000101_0000110_0000111, .idiv .z 5 6 7),
  (0b000001_01000_0000101_0000110_0000111, .irem .s 5 6 7),
  (0b000001_01001_0000101_0000110_0000111, .irem .z 5 6 7),
  (0b000001_01010_0000101_0000110_0000111, .imin .s 5 6 7),
  (0b000001_01011_0000101_0000110_0000111, .imin .z 5 6 7),
  (0b000001_01100_0000101_0000110_0000111, .imax .s 5 6 7),
  (0b000001_01101_0000101_0000110_0000111, .imax .z 5 6 7),
  (0b000001_10000_1111111_0000001_1000000, .and 127 1 64),
  (0b000001_10001_1111111_0000001_1000000, .andn 127 1 64),
  (0b000001_10010_1111111_0000001_1000000, .or 127 1 64),
  (0b000001_10011_1111111_0000001_1000000, .xor 127 1 64),
  (0b000001_10100_1111111_0000001_1000000, .shl 127 1 64),
  (0b000001_10101_1111111_0000001_1000000, .shr 127 1 64),
  (0b000001_10110_1111111_0000001_1000000, .sar 127 1 64),
  (0b000001_10111_1111111_0000001_1000000, .rot 127 1 64),
  (0b000001_01110_0001001_0100001_0000000, .iabs 9 33),
  (0b000001_01111_0001001_0100001_0000000, .ineg 9 33)] = true := by decide

theorem test_decode_major1_2 : agree [
  (0b000001_11000_0001001_0100001_0000000, .clz 9 33),
  (0b000001_11001_0001001_0100001_0000000, .popc 9 33),
  (0b000001_11010_0001001_0100001_0000000, .brev 9 33)] = true := by decide

theorem test_decode_major2 : agree [
  (0b000010_00000_0000100_0000110_1111110, .iadd64 4 6 126),
  (0b000010_00001_0000100_0000110_1111110, .isub64 4 6 126),
  (0b000010_00010_0000100_0000110_1111110, .imul64 4 6 126),
  (0b000010_00101_0000100_0000110_1111110, .imad64 4 6 126),
  (0b000010_01010_0000100_0000110_1111110, .imin64 .s 4 6 126),
  (0b000010_01011_0000100_0000110_1111110, .imin64 .z 4 6 126),
  (0b000010_01100_0000100_0000110_1111110, .imax64 .s 4 6 126),
  (0b000010_01101_0000100_0000110_1111110, .imax64 .z 4 6 126),
  (0b000010_10000_0000100_0000110_1111110, .and64 4 6 126),
  (0b000010_10001_0000100_0000110_1111110, .andn64 4 6 126),
  (0b000010_10010_0000100_0000110_1111110, .or64 4 6 126),
  (0b000010_10011_0000100_0000110_1111110, .xor64 4 6 126),
  (0b000010_01110_0001000_0000010_0000000, .iabs64 8 2),
  (0b000010_01111_0001000_0000010_0000000, .ineg64 8 2),
  (0b000010_10100_0001000_0000010_0000011, .shl64 8 2 3),
  (0b000010_10101_0001000_0000010_0000011, .shr64 8 2 3),
  (0b000010_10110_0001000_0000010_0000011, .sar64 8 2 3),
  (0b000010_10111_0001000_0000010_0000011, .rot64 8 2 3)] = true := by decide

theorem test_decode_compare : agree [
  (0b000011_00000_0001101_0000101_0000111, .iset .w32 .eq 13 5 7),
  (0b000011_00110_0000010_0000110_0001000, .iset .w64 .eq 2 6 8),
  (0b000011_00001_0001101_0000101_0000111, .iset .w32 .ne 13 5 7),
  (0b000011_00111_0000010_0000110_0001000, .iset .w64 .ne 2 6 8),
  (0b000011_00010_0001101_0000101_0000111, .iset .w32 .ltS 13 5 7),
  (0b000011_01000_0000010_0000110_0001000, .iset .w64 .ltS 2 6 8),
  (0b000011_00011_0001101_0000101_0000111, .iset .w32 .leS 13 5 7),
  (0b000011_01001_0000010_0000110_0001000, .iset .w64 .leS 2 6 8),
  (0b000011_00100_0001101_0000101_0000111, .iset .w32 .ltZ 13 5 7),
  (0b000011_01010_0000010_0000110_0001000, .iset .w64 .ltZ 2 6 8),
  (0b000011_00101_0001101_0000101_0000111, .iset .w32 .leZ 13 5 7),
  (0b000011_01011_0000010_0000110_0001000, .iset .w64 .leZ 2 6 8),
  (0b000100_00011_0000001_0000010_0001001, .isel 3 1 2 9),
  (0b000101_0000011_0000100_111111110000, .iaddImm 3 4 (BitVec.ofInt 12 (-16))),
  (0b000110_0001010_0000100_011111111111, .lea 10 4 2047)] = true := by decide

theorem test_decode_float : agree [
  (0b000111_00000_0000101_0000110_0000111, .fadd 5 6 7),
  (0b000111_00001_0000101_0000110_0000111, .fsub 5 6 7),
  (0b000111_00010_0000101_0000110_0000111, .fmul 5 6 7),
  (0b000111_00011_0000101_0000110_0000111, .ffma 5 6 7),
  (0b000111_00100_0000101_0000110_0000111, .fmin 5 6 7),
  (0b000111_00101_0000101_0000110_0000111, .fmax 5 6 7),
  (0b000111_00110_0000101_0000110_0000000, .frcp 5 6),
  (0b000111_00111_0000101_0000110_0000000, .frsq 5 6),
  (0b000111_01000_0000101_0000110_0000000, .fsqrt 5 6),
  (0b000111_01001_0000101_0000110_0000000, .fexp2 5 6),
  (0b000111_01010_0000101_0000110_0000000, .flog2 5 6),
  (0b000111_01011_0000101_0000110_0000000, .fsin 5 6),
  (0b000111_01100_0000101_0000110_0000000, .fcos 5 6),
  (0b000111_01101_0000101_0000110_0000000, .ftanh 5 6),
  (0b001000_00000_0000011_0000110_0000111, .fcmp .eq 3 6 7),
  (0b001000_00001_0000011_0000110_0000111, .fcmp .ne 3 6 7),
  (0b001000_00010_0000011_0000110_0000111, .fcmp .lt 3 6 7),
  (0b001000_00011_0000011_0000110_0000111, .fcmp .le 3 6 7),
  (0b001000_00100_0000011_0000110_0000111, .fcmp .un 3 6 7),
  (0b001001_01000_0000001_0000010_0001001, .cvt .f32 .f16 1 2),
  (0b001001_00011_0000100_0001001_0000010, .cvt .s64 .s32 4 9),
  (0b001010_01011_0000110_0000111_1001000, .cvtd .e4m3 .f32 .nan 6 7),
  (0b001010_10010_0000110_0000111_1101000, .cvtd .b4 .f32 .trap 6 7)] = true := by decide

theorem test_decode_packed_1 : agree [
  (0b001011_00000_0000101_0000110_0000111, .vaddInt .s8x4 5 6 7),
  (0b001011_00001_0000101_0000110_0000111, .vaddInt .s16x2 5 6 7),
  (0b001011_00010_0000101_0000110_0000111, .vsubInt .s8x4 5 6 7),
  (0b001011_00011_0000101_0000110_0000111, .vsubInt .s16x2 5 6 7),
  (0b001011_00100_0000101_0000110_0000111, .vmulInt .s8x4 5 6 7),
  (0b001011_00101_0000101_0000110_0000111, .vmulInt .s16x2 5 6 7),
  (0b001011_00110_0000101_0000110_0000111, .vminInt .s8x4 5 6 7),
  (0b001011_00111_0000101_0000110_0000111, .vminInt .s16x2 5 6 7),
  (0b001011_01000_0000101_0000110_0000111, .vmaxInt .s8x4 5 6 7),
  (0b001011_01001_0000101_0000110_0000111, .vmaxInt .s16x2 5 6 7),
  (0b001011_01010_0000101_0000110_0000111, .vdot4 5 6 7),
  (0b001100_00000_0000101_0000110_0000111, .vaddFloat .f16x2 5 6 7),
  (0b001100_00001_0000101_0000110_0000111, .vaddFloat .bf16x2 5 6 7),
  (0b001100_00010_0000101_0000110_0000111, .vsubFloat .f16x2 5 6 7),
  (0b001100_00011_0000101_0000110_0000111, .vsubFloat .bf16x2 5 6 7),
  (0b001100_00100_0000101_0000110_0000111, .vmulFloat .f16x2 5 6 7),
  (0b001100_00101_0000101_0000110_0000111, .vmulFloat .bf16x2 5 6 7),
  (0b001100_00110_0000101_0000110_0000111, .vminFloat .f16x2 5 6 7),
  (0b001100_00111_0000101_0000110_0000111, .vminFloat .bf16x2 5 6 7),
  (0b001100_01000_0000101_0000110_0000111, .vmaxFloat .f16x2 5 6 7),
  (0b001100_01001_0000101_0000110_0000111, .vmaxFloat .bf16x2 5 6 7),
  (0b001100_01010_0000101_0000110_0000111, .vfma .f16x2 5 6 7),
  (0b001100_01011_0000101_0000110_0000111, .vfma .bf16x2 5 6 7),
  (0b001101_00110_0000101_0000110_0000111, .vsel 6 5 6 7)] = true := by decide

theorem test_decode_packed_2 : agree [
  (0b001101_01000_0000101_0000110_0000111, .vpack .s8x4 5 6 7),
  (0b001101_01001_0000101_0000110_0000111, .vpack .s16x2 5 6 7),
  (0b001101_01010_0000101_0000110_0000111, .vunpk .s8x4 5 6 7),
  (0b001101_01011_0000101_0000110_0000111, .vunpk .s16x2 5 6 7)] = true := by decide

theorem test_decode_predicates : agree [
  (0b001110_00000_0011_1100_1111_0000000_00, .pand 3 12 15),
  (0b001110_00001_0011_1100_1111_0000000_00, .por 3 12 15),
  (0b001110_00010_0011_1100_1111_0000000_00, .pxor 3 12 15),
  (0b001110_00011_0011_1100_0000_0000000_00, .pnot 3 12),
  (0b001110_00100_0011_1100_0000_0000000_00, .pmovPred 3 12),
  (0b001110_00101_0011_0000_0000_1100011_00, .pmovFromV 3 99),
  (0b001110_00110_0000_1100_0000_1100011_00, .pmovToV 12 99)] = true := by decide

theorem test_decode_memory_1 : agree [
  (0b010000_000_0000110_0001000_111111111, .ld .s8 6 8 (BitVec.ofInt 9 (-1))),
  (0b010010_000_0000110_0001001_011111111, .lds .s8 6 9 255),
  (0b010000_001_0000110_0001000_111111111, .ld .s16 6 8 (BitVec.ofInt 9 (-1))),
  (0b010010_001_0000110_0001001_011111111, .lds .s16 6 9 255),
  (0b010000_010_0000110_0001000_111111111, .ld .s32 6 8 (BitVec.ofInt 9 (-1))),
  (0b010010_010_0000110_0001001_011111111, .lds .s32 6 9 255),
  (0b010000_011_0000110_0001000_111111111, .ld .d64 6 8 (BitVec.ofInt 9 (-1))),
  (0b010010_011_0000110_0001001_011111111, .lds .d64 6 9 255),
  (0b010000_100_0000110_0001000_111111111, .ld .z8 6 8 (BitVec.ofInt 9 (-1))),
  (0b010010_100_0000110_0001001_011111111, .lds .z8 6 9 255),
  (0b010000_101_0000110_0001000_111111111, .ld .z16 6 8 (BitVec.ofInt 9 (-1))),
  (0b010010_101_0000110_0001001_011111111, .lds .z16 6 9 255),
  (0b010000_110_0000110_0001000_111111111, .ld .z32 6 8 (BitVec.ofInt 9 (-1))),
  (0b010010_110_0000110_0001001_011111111, .lds .z32 6 9 255),
  (0b010000_111_0000110_0001000_000000011, .ldref 6 8 3),
  (0b010001_000_0000110_0001000_100000000, .st .b1 6 8 (BitVec.ofInt 9 (-256))),
  (0b010011_000_0000110_0001001_000000001, .sts .b1 6 9 1),
  (0b010001_001_0000110_0001000_100000000, .st .b2 6 8 (BitVec.ofInt 9 (-256))),
  (0b010011_001_0000110_0001001_000000001, .sts .b2 6 9 1),
  (0b010001_010_0000110_0001000_100000000, .st .b4 6 8 (BitVec.ofInt 9 (-256))),
  (0b010011_010_0000110_0001001_000000001, .sts .b4 6 9 1),
  (0b010001_011_0000110_0001000_100000000, .st .b8 6 8 (BitVec.ofInt 9 (-256))),
  (0b010011_011_0000110_0001001_000000001, .sts .b8 6 9 1),
  (0b010001_100_0000110_0001000_000000011, .stref 6 8 3)] = true := by decide

theorem test_decode_memory_2 : agree [
  (0b010100_000_0000110_0001001_000000010, .ldpv .w32 6 9 2),
  (0b010100_001_0000110_0001001_000000010, .ldpv .w64 6 9 2),
  (0b010100_010_0000110_0001001_000000010, .stpv .w32 6 9 2),
  (0b010100_011_0000110_0001001_000000010, .stpv .w64 6 9 2)] = true := by decide

theorem test_decode_ordered_1 : agree [
  (0b010101_00000_0000110_0001000_0110000, .ldAcq .w32 6 8 .pod),
  (0b010101_00001_0000110_0001000_0110000, .ldAcq .w64 6 8 .pod),
  (0b010101_00010_0000110_0001000_0110000, .ldrefAcq 6 8 .pod),
  (0b010101_00011_0000110_0001000_0110000, .stRel32 6 8 .pod),
  (0b010101_00100_0000110_0001000_0110000, .stRel64 6 8 .pod),
  (0b010101_00101_0000110_0001000_0110000, .strefRel 6 8 .pod),
  (0b010101_00110_0000110_0001000_0110000, .ldsAcq .w32 6 8 .pod),
  (0b010101_00111_0000110_0001000_0110000, .ldsAcq .w64 6 8 .pod),
  (0b010101_01000_0000110_0001000_0110000, .stsRel .w32 6 8 .pod),
  (0b010101_01001_0000110_0001000_0110000, .stsRel .w64 6 8 .pod),
  (0b010110_00000_0001000_0000100_1001000, .atom .add32 8 4 .rel .pkg false),
  (0b010110_00001_0001000_0000100_1001000, .atom .add64 8 4 .rel .pkg false),
  (0b010110_00010_0001000_0000100_1001000, .atom .addF32 8 4 .rel .pkg false),
  (0b010110_00011_0001000_0000100_1001000, .atom .minS32 8 4 .rel .pkg false),
  (0b010110_00100_0001000_0000100_1001000, .atom .minZ32 8 4 .rel .pkg false),
  (0b010110_00101_0001000_0000100_1001000, .atom .minS64 8 4 .rel .pkg false),
  (0b010110_00110_0001000_0000100_1001000, .atom .minZ64 8 4 .rel .pkg false),
  (0b010110_00111_0001000_0000100_1001000, .atom .minF32 8 4 .rel .pkg false),
  (0b010110_01000_0001000_0000100_1001000, .atom .maxS32 8 4 .rel .pkg false),
  (0b010110_01001_0001000_0000100_1001000, .atom .maxZ32 8 4 .rel .pkg false),
  (0b010110_01010_0001000_0000100_1001000, .atom .maxS64 8 4 .rel .pkg false),
  (0b010110_01011_0001000_0000100_1001000, .atom .maxZ64 8 4 .rel .pkg false),
  (0b010110_01100_0001000_0000100_1001000, .atom .maxF32 8 4 .rel .pkg false),
  (0b010110_01101_0001000_0000100_1001000, .atom .and32 8 4 .rel .pkg false)] = true := by decide

theorem test_decode_ordered_2 : agree [
  (0b010110_01110_0001000_0000100_1001000, .atom .or32 8 4 .rel .pkg false),
  (0b010110_01111_0001000_0000100_1001000, .atom .xor32 8 4 .rel .pkg false),
  (0b010110_10000_0001000_0000100_1001000, .atom .xchg32 8 4 .rel .pkg false),
  (0b010110_10001_0001000_0000100_1001000, .atom .xchg64 8 4 .rel .pkg false),
  (0b010110_10010_0001000_0000100_1001000, .atom .cas32 8 4 .rel .pkg false),
  (0b010110_10011_0001000_0000100_1001000, .atom .cas64 8 4 .rel .pkg false),
  (0b010110_00000_0001001_0000100_1001010, .atom .add32 9 4 .rel .pkg true),
  (0b010111_00000_0001000_0000100_1100000, .atoms .add32 8 4 .ar .grp false),
  (0b010111_00010_0001000_0000100_1100000, .atoms .addF32 8 4 .ar .grp false),
  (0b010111_00011_0001000_0000100_1100000, .atoms .minS32 8 4 .ar .grp false),
  (0b010111_01000_0001000_0000100_1100000, .atoms .maxS32 8 4 .ar .grp false),
  (0b010111_01101_0001000_0000100_1100000, .atoms .and32 8 4 .ar .grp false),
  (0b010111_01110_0001000_0000100_1100000, .atoms .or32 8 4 .ar .grp false),
  (0b010111_01111_0001000_0000100_1100000, .atoms .xor32 8 4 .ar .grp false),
  (0b010111_10000_0001000_0000100_1100000, .atoms .xchg32 8 4 .ar .grp false),
  (0b010111_10010_0001000_0000100_1100000, .atoms .cas32 8 4 .ar .grp false),
  (0b011000_000_0111111_0001000_000000001, .kld 63 8 1),
  (0b011000_001_0000101_0001000_000000000, .kst 5 8 0),
  (0b011001_00000_0000010_0000100_0000111, .oinit 2 4 7),
  (0b011001_00001_0000011_0000100_0001001, .launch 3 4 9),
  (0b011001_00010_0000000_0000100_0000000, .pref 4),
  (0b011001_00011_0000000_0000100_0000111, .wbr 4 7),
  (0b011001_00100_0000000_0000100_0000111, .invr 4 7)] = true := by decide

theorem test_decode_engines_1 : agree [
  (0b011100_0011_0000_111100_0000000_00000, .cpt 3 60),
  (0b011100_0011_0001_111100_0000000_00000, .cps 3 60),
  (0b011100_0011_0010_111100_0001001_00000, .cpg 3 60 9),
  (0b011100_0011_0011_111100_0001001_00000, .cpsc 3 60 9),
  (0b011100_0011_0100_111100_0001001_00000, .cpb 3 60 9),
  (0b011100_0011_0101_111100_0001001_00000, .cpz 3 60 9),
  (0b011100_0011_0110_111100_0001001_00000, .cpr 3 60 9),
  (0b011101_1111_0000_111000_0000000_00010, .mma 15 56 2),
  (0b011101_1111_0011_111000_0000000_00010, .mst 15 56 2),
  (0b011101_1111_0100_111000_0000000_00010, .mlda 15 56 2),
  (0b011101_1111_0001_111000_1001101_00010, .mmas 15 56 77 2),
  (0b011101_1111_0010_000000_0000000_00011, .mz 15 3),
  (0b011101_1111_0101_111110_0000000_01001, .scacc 15 62 2 1),
  (0b011110_0001_0000_001000_0000000_00000, .scn 1 8),
  (0b011110_0001_0001_000000_0001100_00011, .scop 1 12 3),
  (0b011111_0100_0001_000000_0010000_00000, .pub 4 .clu 16),
  (0b011111_0100_0010_000000_0010000_00000, .pub 4 .pkg 16),
  (0b011111_0100_0011_000000_0010000_00000, .pub 4 .pod 16),
  (0b011111_0100_0100_000000_0010000_00000, .pub 4 .sys 16),
  (0b100000_0111_0000_000000_0000000_00000, .hwait 7),
  (0b100000_0111_0001_000000_0000000_01001, .htest 7 9),
  (0b100000_0111_0010_000000_0000000_00000, .hcan 7),
  (0b100000_0111_0011_000000_0000000_01011, .hmov 7 11),
  (0b100000_0111_0100_000000_0010101_00000, .hst 7 21)] = true := by decide

theorem test_decode_engines_2 : agree [
  (0b100000_0111_0101_000000_0010101_00000, .hld 7 21),
  (0b100001_00000_0000000_0010101_0010110, .swarm 21 22),
  (0b100001_00001_0000000_0010101_0010110, .swadd 21 22),
  (0b100001_00010_0000000_0010101_0010110, .swait 21 22),
  (0b100001_00011_0000000_0010101_0000000, .rjoin 21)] = true := by decide

theorem test_decode_control_1 : agree [
  (0b100100_000_0010101_1111111111111110, .brz 21 (BitVec.ofInt 16 (-2))),
  (0b100100_001_0010101_1111111111111110, .bnz 21 (BitVec.ofInt 16 (-2))),
  (0b100100_010_0001110_0000000000000010, .brp 14 2),
  (0b100100_011_0000000_1000000000000000, .jmp (BitVec.ofInt 16 (-32768))),
  (0b100100_100_0000000_0000000000000111, .call 7),
  (0b100101_00000_0000000_0011110_0000000, .br 30),
  (0b100101_00001_0000000_0011110_0000000, .callReg 30),
  (0b100110_00000_000000000000000000000, .nop),
  (0b100110_00001_000000000000000000000, .exit),
  (0b100110_00010_000000000000000000000, .yield),
  (0b100110_00011_000000000000000000000, .rsync),
  (0b100110_00100_000000000000000000000, .rleave),
  (0b100110_00101_000000000000000000000, .tret),
  (0b100110_00111_000000000000000000000, .bkpt),
  (0b100110_01000_000000000000000000000, .halt),
  (0b100110_01010_000000000000000000000, .bar),
  (0b100110_01111_000000000000000000000, .ret),
  (0b100110_00110_000001011111011101111, .trap 0xBEEF),
  (0b100110_01001_000000000000000001101, .fence .pod .acq),
  (0b100110_01001_000000000000000000011, .fence .grp .ar),
  (0b100110_01001_000000000000000010010, .fence .sys .rel),
  (0b100110_01011_000000000000001100011, .tmark 99),
  (0b100110_01100_000000000000000000110, .prio 6),
  (0b100110_01101_011011011111111111111, .rep 1 2 3 16383)] = true := by decide

theorem test_decode_control_2 : agree [
  (0b100110_01101_110000100000001001101, .repReg 3 0 0 77),
  (0b100110_01110_000000000000111111000, .winb 504),
  (0b100111_0000001_0000010_000011111111, .waitc 1 2 3 63)] = true := by decide

theorem test_decode_moves_1 : agree [
  (0b101000_0000110_1000000000000000000, .movi 6 (BitVec.ofInt 19 (-262144))),
  (0b101001_0000110_0011111110000000000, .movh 6 0x1FC00),
  (0b101010_00000_0000101_0000111_0000000, .mov 5 7),
  (0b101010_00001_0001000_0001010_0000000, .mov64 8 10),
  (0b101010_00010_0000100_0111111_0000000, .kmovFromK 4 63),
  (0b101010_00011_0111111_0000100_0000000, .kmovToK 63 4),
  (0b101010_00100_0000010_0000000_0000000, .srd 2 .tidx),
  (0b101010_00100_0000010_0000001_0000000, .srd 2 .crew),
  (0b101010_00100_0000010_0000010_0000000, .srd 2 .gidx),
  (0b101010_00100_0000010_0000011_0000000, .srd 2 .gsize),
  (0b101010_00100_0000010_0000100_0000000, .srd 2 .ngrp),
  (0b101010_00100_0000010_0000101_0000000, .srd 2 .pbase),
  (0b101010_00100_0000010_0000110_0000000, .srd 2 .slim),
  (0b101010_00100_0000010_0000111_0000000, .srd 2 .scrb),
  (0b101010_00100_0000010_0001000_0000000, .srd 2 .wbase),
  (0b101010_00100_0000010_0001001_0000000, .srd 2 .repc),
  (0b101010_00100_0000010_0001010_0000000, .srd 2 .prio),
  (0b101010_00100_0000010_0001011_0000000, .srd 2 .fmode),
  (0b101010_00100_0000010_0001100_0000000, .srd 2 .fflags),
  (0b101010_00100_0000010_0001101_0000000, .srd 2 .mprg),
  (0b101010_00100_0000010_0001110_0000000, .srd 2 .trapc),
  (0b101010_00100_0000010_0001111_0000000, .srd 2 .trappc),
  (0b101010_00100_0000010_0010000_0000000, .srd 2 .trapva),
  (0b101010_00100_0000010_0010001_0000000, .srd 2 .trapdepth)] = true := by decide

theorem test_decode_moves_2 : agree [
  (0b101010_00100_0000010_0010010_0000000, .srd 2 .tblo),
  (0b101010_00100_0000010_0010011_0000000, .srd 2 .tbhi),
  (0b101010_00100_0000010_0010100_0000000, .srd 2 .cyc),
  (0b101010_00100_0000010_0010101_0000000, .srd 2 .seed),
  (0b101010_00101_0001000_0000010_0000000, .swr .wbase 2),
  (0b101010_00101_0001010_0000010_0000000, .swr .prio 2),
  (0b101010_00101_0001011_0000010_0000000, .swr .fmode 2),
  (0b101010_00101_0001100_0000010_0000000, .swr .fflags 2),
  (0b101010_00101_0001110_0000010_0000000, .swr .trapc 2),
  (0b101010_00101_0001111_0000010_0000000, .swr .trappc 2),
  (0b101010_00101_0010000_0000010_0000000, .swr .trapva 2),
  (0b101010_00101_0010101_0000010_0000000, .swr .seed 2),
  (0b101011_00000_0000101_0000110_0000111, .bfx .s 5 6 7),
  (0b101011_00001_0000101_0000110_0000111, .bfx .z 5 6 7),
  (0b101011_00010_0000101_0000110_0000111, .bfi 5 6 7)] = true := by decide

theorem test_decode_lanes_1 : agree [
  (0b101100_00000_0000101_0000111_0001001, .xshf .w32 5 7 9),
  (0b101100_00001_0000110_0001000_0001001, .xshf .w64 6 8 9),
  (0b101100_00010_0000101_0001110_0000000, .xbal 5 14),
  (0b101100_00011_0000011_0001110_0000000, .xvote .all 3 14),
  (0b101100_00100_0000011_0001110_0000000, .xvote .any 3 14),
  (0b101100_00101_0000011_0001110_0000000, .xvote .eq 3 14),
  (0b101100_00110_0000101_0000111_0000000, .xidx 5 7),
  (0b101100_01000_0000101_0000111_0000000, .xred .add 5 7),
  (0b101100_01001_0000101_0000111_0000000, .xred .minS 5 7),
  (0b101100_01010_0000101_0000111_0000000, .xred .maxS 5 7),
  (0b101100_01011_0000101_0000111_0000000, .xred .minZ 5 7),
  (0b101100_01100_0000101_0000111_0000000, .xred .maxZ 5 7),
  (0b101100_01101_0000101_0000111_0000000, .xred .and 5 7),
  (0b101100_01110_0000101_0000111_0000000, .xred .or 5 7),
  (0b101100_01111_0000101_0000111_0000000, .xred .xor 5 7),
  (0b101100_10000_0000101_0000111_0000000, .xred .addF 5 7),
  (0b101100_10001_0000101_0000111_0000000, .xred .minF 5 7),
  (0b101100_10010_0000101_0000111_0000000, .xred .maxF 5 7),
  (0b101100_10011_0000101_0000111_0000000, .xscan .add 5 7),
  (0b101100_10100_0000101_0000111_0000000, .xscan .minS 5 7),
  (0b101100_10101_0000101_0000111_0000000, .xscan .maxS 5 7),
  (0b101100_10110_0000101_0000111_0000000, .xscan .minZ 5 7),
  (0b101100_10111_0000101_0000111_0000000, .xscan .maxZ 5 7),
  (0b101100_11000_0000101_0000111_0000000, .xscan .addF 5 7)] = true := by decide

theorem test_decode_lanes_2 : agree [
  (0b101100_11001_0000101_0000111_0000000, .xscan .minF 5 7),
  (0b101100_11010_0000101_0000111_0000000, .xscan .maxF 5 7)] = true := by decide
/-! ## Reserved encodings and ill-formed terms -/

/-- Words that no instruction has (R294 to R300): the all-zero word, an unassigned major and function code, a field that must be
zero, an odd pair, a reserved scope, order 0 of FENCE, NORET with XCHG, a stray source kind, an unknown special register. -/
theorem test_reserved_words : [0, 0b001111_00000_0000001_0000010_0000011, 0b000001_11011_0000001_0000010_0000011,
    0b000001_01110_0000001_0000010_0000011, 0b000010_00000_0000001_0000010_0000100, 0b010101_00000_0000001_0000010_1010000,
    0b100110_01001_000000000000000001000, 0b010110_10000_0000001_0000010_0000010, 0b001001_01000_0000001_0000010_0010111,
    0b101010_00100_0000001_0010110_0000000, 0b100110_00000_000000000000000000001].all
      (fun w => (decodeTableWord 32 w).isNone) = true := by decide

/-- For each check of the field rules of the instruction words, a term that it refuses. -/
theorem test_ill_formed_words : [Instr.iadd 128 0 0, .iadd64 1 2 4, .iset .w32 .eq 16 0 0, .iset .w64 .eq 0 1 2, .isel 8 1 2 3,
    .fcmp .eq 16 0 0, .cvt .e4m3 .f32 1 2, .cvt .s64 .s32 1 2, .cvtd .z64 .f32 .sat 3 2, .vsel 8 1 2 3, .pand 16 0 0,
    .pmovFromV 0 128, .ld .d64 1 2 0, .ld .s32 1 3 0, .st .b8 1 2 0, .stpv .w64 1 2 0, .ldAcq .w32 1 3 .sys, .atom .cas64 6 2 .rlx .grp false,
    .atom .cas32 3 2 .rlx .grp false, .atom .xchg32 3 2 .rlx .grp true, .atoms .add64 2 4 .rlx .grp false, .atoms .add32 2 3 .rlx .grp false, .kld 64 2 0, .launch 1 2 16,
    .cpt 16 0, .cpt 0 64, .mma 0 0 4, .scacc 0 0 4 0, .scop 0 1 4, .pub 0 .grp 2, .htest 0 16, .brp 16 0, .rep 4 0 0 1, .rep 0 0 0 16384,
    .repReg 0 0 0 128, .winb 512, .waitc 64 0 0 0, .kmovFromK 1 0, .kmovToK 64 2, .srd 1 .cyc, .swr .tidx 1, .swr .trapva 1,
    .xshf .w64 1 2 3, .xvote .all 16 0, .xscan .xor 1 2].all (fun i => !i.wf) = true := by decide

/-- The same for the rows that no word encodes: a package, a function, a core, a queue, a die, a port, a slot or a size that the
part does not have. -/
theorem test_ill_formed_steps : [Instr.refresh 4096 0, .refresh 0 65, .registerWrite 0 0 0 8 3 0, .queueTailDoorbell 0 0 0 5 0,
    .breakpointSlotWrite 0 0 64 0 0, .watchpointSlotWrite 0 0 0 4 0, .bundlingRound 0 384, .recordTake 0 0 16, .groupPlace 0 8,
    .clusterModeChange 0 48 true, .clusterReport 0 48 1, .holderReport 0 0 3, .linkFailure 0 24, .walkStart 0 8, .powerGood 4096].all
      (fun i => !i.wf) = true := by decide

/-- Each of these terms with the fault mended is well-formed. -/
theorem test_well_formed : [Instr.iadd 127 0 0, .iadd64 0 2 126, .cvt .s64 .s32 2 3, .atom .cas64 4 2 .rlx .grp false, .winb 511,
    .rep 3 3 3 16383, .waitc 63 63 63 63, .refresh 4095 64, .bundlingRound 4095 383, .linkFailure 0 23].all (fun i => i.wf) = true := by decide

/-! ## Small states -/

/-- The one thread of the loaded program. -/
def k0 : TKey := ⟨1, 0⟩

/-- A word whose loaded program has a crew of the role: 0 COPY (a CPT), 1 MATRIX (a NOP), 2 VECTOR (an SCN). -/
def roleWord (r : Nat) : Nat :=
  if r = 0 then 0b011100_0000_0000_000000_0000000_00000
  else if r = 2 then 0b011110_0000_0000_000000_0000000_00000 else 0b100110_00000_000000000000000000000

/-- A thread that has just started at 0x10000, with registers. -/
def thr (regs : List (Nat × Word)) : Thread := { Thread.start 0x10000 ⟨0, 0, 0⟩ 0 with regs := regs }

/-- The same thread, inactive. -/
def off (t : Thread) : Thread := { t with preds := [] }

/-- The group of the loaded program, of one thread. -/
def grp (role : Nat) (t : Thread) : Group :=
  { ((State.reset.withFetchWord 32 (roleWord role)).group? 1).getD (Group.start 0 0 0 0 0 0 (loadRec 0)) with threads := [t] }

/-- The loaded machine with the group `g`, whose thread 0 is issuing. -/
def stand (g : Group) : State :=
  { State.reset.withFetchWord 32 (roleWord 1) with cur := some k0, groups := [(1, g)] }

/-- The state after, or the reset state where there is none. -/
def nextOf (o : Host.Outcome State Fault Refusal) : State := match o with | .next s => s | _ => State.reset

theorem next_of {o : Host.Outcome State Fault Refusal} (h : (match o with | .next _ => true | _ => false) = true) : ∃ u, o = .next u := by
  cases o <;> simp_all

theorem snd_of {α β : Type} {x : α × β} {b : β} (h : x.2 = b) : ∃ a, x = (a, b) := ⟨x.1, by rw [← h]⟩

/-- A thread of a state. -/
def thrOf (s : State) (k : TKey) : Thread := (s.thread? k).getD (thr [])

/-- The group of a state. -/
def grpOf (s : State) : Group := (s.group? 1).getD (grp 1 (thr []))

theorem stand_issuing (g : Group) (t : Thread) (h : g.threads[0]? = some t) : (stand g).Issuing k0 g t := ⟨rfl, rfl, h⟩

/-- A group of 33 threads: a whole crew and one thread more. -/
def crew (t : Thread) (others : Nat → Thread) : Group :=
  { grp 1 t with threads := t :: (List.range 31).map (fun n => others (n + 1)) }

/-- The fields lie in the window and nothing they name is pending. -/
def ops (g : Group) (t : Thread) (sp : Spans) : Bool := inWindow g t sp && decide (pendingOf t sp = [])

theorem ops_ready {g : Group} {t : Thread} {sp : Spans} (h : ops g t sp = true) : OperandsReady g t sp := by
  simpa [ops, OperandsReady] using h

/-- A state whose L1s list no line, that has no write-back in flight, no page with line codes and no dirty proxy. -/
def bare (s : State) : Bool :=
  s.pkgs.all (fun e => e.2.cores.all (fun c => c.2.l1.isEmpty) && e.2.slices.all (fun l => decide (l.kind = 1 → l.dirty = 0))) &&
    s.wbs.isEmpty && s.pageCmp.isEmpty

theorem uncached_of {s : State} (h : bare s = true) : s.Uncached := by
  simp only [bare, Bool.and_eq_true, List.all_eq_true, List.isEmpty_iff, decide_eq_true_eq] at h
  obtain ⟨⟨h, hw⟩, hc⟩ := h
  refine ⟨fun m p d ga => ?_, hw, fun g c hg => by simp [hc, SMap.find?] at hg, fun q p hp => (h _ hp).2⟩
  replace h := fun e he => (h e he).1
  simp only [State.holders, List.flatMap_eq_nil_iff, List.filterMap_eq_nil_iff]
  intro e he c hc
  simp [Core.l1Line, h e he c hc]

/-! ## Hypotheses met: registers, arithmetic, moves -/

/-- A thread at 0x10000 with a value in v5, v6, v7. -/
def t5 : Thread := thr [(5, 0x80000000), (6, 0xFFFFFFFF), (7, 3)]

/-- RegisterWriteAndRetirement, FormsCompleteFrame, IntegerForms, BitForms, BitFields, CompareSelectAddress, FloatForms,
ComparesAndConversions, Moves: an active thread issues, with operands at the edges of the window. -/
theorem test_meets_forms : (stand (grp 1 t5)).Issuing k0 (grp 1 t5) t5 ∧ t5.active = true ∧
    OperandsReady (grp 1 t5) t5 (threeRegs 1 127 0 127) ∧ OperandsReady (grp 1 t5) t5 (threeRegs 2 126 0 126) ∧
    OperandsReady (grp 1 t5) t5 [(126, 2), (0, 2), (127, 1)] ∧ OperandsReady (grp 1 t5) t5 [] :=
  ⟨stand_issuing _ _ rfl, rfl, ops_ready (by decide), ops_ready (by decide), ops_ready (by decide), ops_ready (by decide)⟩

/-- FormsJudged: a field outside the window of a small allotment; a pending register; an inactive thread; no active sub-element. -/
theorem test_meets_FormsJudged :
    (∃ F, formOf? (.iadd 5 6 127) = some F ∧ inWindow { grp 1 t5 with lr := { loadRec 0 with regs8 := 1 } } t5 F.regs = false) ∧
    (∃ F, formOf? (.iadd 5 6 7) = some F ∧ inWindow (grp 1 t5) { t5 with pend := [6] } F.regs = true ∧
      pendingOf { t5 with pend := [6] } F.regs = [6]) ∧
    (∃ F, formOf? (.iadd 5 6 7) = some F ∧ F.governed = true ∧ (off t5).active = false ∧ OperandsReady (grp 1 (off t5)) (off t5) F.regs) ∧
    (∃ F, packedOf? (.vaddInt .s8x4 5 6 7) = some (F, 8, 4) ∧ (∀ j, j < 4 → govBit ((off t5).rdP 0) 8 j = false) ∧
      OperandsReady (grp 1 (off t5)) (off t5) F.regs) :=
  ⟨⟨_, rfl, by decide⟩, ⟨_, rfl, by decide, by decide⟩, ⟨_, rfl, rfl, rfl, ops_ready (by decide)⟩,
   ⟨_, rfl, by decide, ops_ready (by decide)⟩⟩

/-- Division: a divisor of zero, one that is not, and the most negative dividend with the divisor -1. -/
theorem test_meets_Division : (t5.active = true ∧ t5.rd 4 = 0) ∧ (t5.active = true ∧ t5.rd 7 ≠ 0) ∧
    (t5.active = true ∧ t5.rd 5 = 0x80000000 ∧ t5.rd 6 = 0xFFFFFFFF) ∧ OperandsReady (grp 1 t5) t5 (threeRegs 1 5 6 7) := by
  refine ⟨by decide, by decide, by decide, ops_ready (by decide)⟩

/-- PackedForms: a thread some of whose bytes and halves are active, and one in which no half is, though a byte is. -/
theorem test_meets_PackedForms : (∃ j, j < 32 / 8 ∧ govBit ({ t5 with preds := [(0, 8)] }.rdP 0) 8 j = true) ∧
    (∃ j, j < 32 / 16 ∧ govBit (t5.rdP 0) 16 j = true) ∧ ((t5.rdP 0).getLsbD 0 = true ∨ (t5.rdP 0).getLsbD 2 = true) ∧
    ¬ ∃ j, j < 2 ∧ ({ t5 with preds := [(0, 8)] }.rdP 0).getLsbD (2 * j) = true := by
  refine ⟨⟨3, by decide⟩, ⟨0, by decide⟩, by decide, ?_⟩
  rintro ⟨j, hj, h⟩
  match j, hj with
  | 0, _ => exact absurd h (by decide)
  | 1, _ => exact absurd h (by decide)

/-- Moves: a uniform register under way, one that is not; SpecialRegisters: a captured TBHI, an RM of 4 and of 5, a base in and
out of the allotment. -/
theorem test_meets_Moves_SpecialRegisters : 3 ∈ ({ t5 with kpend := [3] } : Thread).kpend ∧ 2 ∉ ({ t5 with kpend := [3] } : Thread).kpend ∧
    ({ t5 with tbhi := some 9 } : Thread).tbhi = some 9 ∧ t5.tbhi = none ∧
    (t5.rd 6).toNat % 8 = 7 ∧ (t5.rd 7).toNat % 8 < 5 ∧
    (0 % 8 = 0 ∧ 0 + (grp 1 t5).lr.window ≤ (grp 1 t5).lr.allot) ∧ (4 % 8 ≠ 0 ∨ (grp 1 t5).lr.allot < 4 + (grp 1 t5).lr.window) ∧
    (8 % 8 = 0 ∧ (grp 1 t5).lr.allot < 8 + (grp 1 t5).lr.window) := by decide

/-- Results by hand from the rules: a sum wraps (R349), the division of R348, a shift by 32 (R369), the rounding of 1 + 2^-24 to
even (R100), the sum of unlike zeros (R331), a byte product of signs that differ (R392). -/
theorem test_results :
    (thrOf (nextOf (exec (.iadd 9 6 7) (stand (grp 1 t5)))) k0).rd 9 = 2 ∧
    (thrOf (nextOf (exec (.idiv .s 9 5 6) (stand (grp 1 t5)))) k0).rd 9 = 0x80000000 ∧
    (thrOf (nextOf (exec (.irem .s 9 7 4) (stand (grp 1 t5)))) k0).rd 9 = 3 ∧
    (thrOf (nextOf (exec (.shl 9 7 8) (stand (grp 1 (thr [(7, 3), (8, 32)]))))) k0).rd 9 = 0 ∧
    (thrOf (nextOf (exec (.fadd 9 7 8) (stand (grp 1 (thr [(7, 0x3F800000), (8, 0x33800000)]))))) k0).rd 9 = 0x3F800000 ∧
    (thrOf (nextOf (exec (.fadd 9 7 8) (stand (grp 1 (thr [(7, 0), (8, 0x80000000)]))))) k0).rd 9 = 0 ∧
    (thrOf (nextOf (exec (.vmulInt .s8x4 9 7 8) (stand (grp 1 (thr [(7, 0xFF), (8, 3)]))))) k0).rd 9 = 0xFD ∧
    (thrOf (nextOf (exec (.iadd 9 6 7) (stand (grp 1 t5)))) k0).pc = 0x10004 := by decide

/-! ## Hypotheses met: lanes, control flow, traps, the end of a thread -/

/-- A crew whose other threads are parked at `i`, each with its number in v7, and thread 0 about to issue it. -/
def parked (i : Instr) : Group := crew t5 (fun n => { thr [(7, BitVec.ofNat 32 n)] with park := some i, exited := decide (n = 9) })

/-- CrossLane: a member that has neither parked nor exited; a member that XIDX names; every other member exited or parked at the
same instruction. -/
theorem test_meets_CrossLane :
    (∃ n u, (crew t5 (fun _ => t5)).threads[n]? = some u ∧ n / 32 = k0.tidx / 32 ∧ n ≠ k0.tidx ∧ u.exited = false ∧ u.park = none) ∧
    (∃ m, (crew t5 (fun _ => t5)).threads[k0.tidx / 32 * 32 + (t5.rd 6).toNat % 32]? = some m) ∧
    (parked (.xbal 3 2)).threads.tail.all (fun u => u.exited || (decide (u.park = some (.xbal 3 2)) && decide (u.pc = t5.pc))) = true ∧
    (stand (parked (.xbal 3 2))).Issuing k0 (parked (.xbal 3 2)) t5 ∧ OperandsReady (parked (.xbal 3 2)) t5 (threeRegs 1 3 7 8) :=
  ⟨⟨31, t5, by decide⟩, ⟨t5, by decide⟩, by decide, stand_issuing _ _ rfl, ops_ready (by decide)⟩

/-- XRED and XSCAN over the 31 members that have not exited: thread 1 of the crew gets 1 + … + 31 - 9 + 3, and its own prefix. -/
theorem test_crew_sum :
    (thrOf (nextOf (exec (.xred .add 3 7) (stand (parked (.xred .add 3 7))))) ⟨1, 1⟩).rd 3 = 490 ∧
    (thrOf (nextOf (exec (.xscan .add 3 7) (stand (parked (.xscan .add 3 7))))) ⟨1, 10⟩).rd 3 = 49 ∧
    (thrOf (nextOf (exec (.xscan .add 3 7) (stand (parked (.xscan .add 3 7))))) ⟨1, 9⟩).rd 3 = 0 := by decide

/-- A thread with an even target pair in v8, v9 and an odd one in v10, v11. -/
def tb : Thread := thr [(8, 0x40), (10, 0x42)]

/-- Branches: a zero and a nonzero register, a set and a clear predicate, an aligned target and one that is not. -/
theorem test_meets_Branches : tb.rd 7 = 0 ∧ tb.rd 8 ≠ 0 ∧ (tb.rdP 0).getLsbD 0 = true ∧ (tb.rdP 1).getLsbD 0 = false ∧
    (tb.rd64 8).toNat % 4 = 0 ∧ (tb.rd64 10).toNat % 4 ≠ 0 ∧ ops (grp 1 tb) tb [(8, 2), (10, 2), (127, 1)] = true := by decide

/-- A thread with a full return stack, `n` spills. -/
def full (n : Nat) : Thread := { tb with rs := [4, 8, 12, 16, 20, 24, 28, 32], spills := n }

/-- CallsAndReturns: a stack with room, a full one with and without a spill slot left (64 private words, SLIM 32), an empty one with
a spill and without, an entry to return to. -/
theorem test_meets_CallsAndReturns : tb.rs.length < 8 ∧ tb.pc.toNat % 4 = 0 ∧ 8 ≤ (full 0).rs.length ∧
    ((grp 1 tb).lr.slimw : Int) ≤ ((grp 1 tb).lr.privw : Int) - 2 * (full 15).spills - 2 ∧
    ((grp 1 tb).lr.privw : Int) - 2 * (full 16).spills - 2 < (grp 1 tb).lr.slimw ∧
    ({ tb with spills := 1 }.rs = [] ∧ 0 < { tb with spills := 1 }.spills) ∧ (tb.rs = [] ∧ tb.spills = 0) ∧
    (full 0).rs.getLast? = some 32 ∧ (32 : DWord).toNat % 4 = 0 := by decide

/-- IADD v5, v6, v7; EXIT; IADD.S64 v4, v6, v8. -/
def iaddW : Word := 0b000001_00000_0000101_0000110_0000111
def exitW : Word := 0b100110_00001_000000000000000000000
def iadd64W : Word := 0b000010_00000_0000100_0000110_0001000

/-- The state in which the word after a REP at 0x10000 is `w`. -/
def followedBy (w : Word) : State := { stand (grp 1 t5) with gmem := memWrite [] 0x10004 (leBytes 4 w.toNat) }

/-- Repetition: the follower is fetched; a REP is reached for the first time, and again. -/
theorem test_meets_Repetition :
    (∃ s', (followedBy iaddW).fetchWord k0 (grp 1 t5) t5 (t5.pc + 4) = (s', .word iaddW)) ∧
    (∃ s', (followedBy exitW).fetchWord k0 (grp 1 t5) t5 (t5.pc + 4) = (s', .word exitW)) ∧
    (∀ r, t5.rep = some r → r.at_ ≠ t5.pc) ∧ (∀ r, { t5 with rep := some ⟨t5.pc, iaddW, 0, 2, 1, 1, 1⟩ }.rep = some r → r.at_ = t5.pc) := by
  refine ⟨snd_of (by decide +kernel), snd_of (by decide +kernel), ?_, ?_⟩ <;> intro r h <;> cases h <;> rfl

/-- Repetition: followers allowed and not; iterations inside and outside the allotment, and an odd field of a pair; counts of zero and
not, which complete. -/
theorem test_meets_Repetition_fields :
    followerOf 1 1 1 iaddW = some (.iadd 5 6 7) ∧ followerOf 1 1 1 exitW = none ∧ followerOf 1 0 0 iadd64W = some (.iadd64 4 6 8) ∧
    (∀ f ∈ [5 + 120 * 1, 6 + 120 * 1, 7 + 120 * 1], t5.wbase + f < (grp 1 t5).lr.allot) ∧
    (∃ f ∈ [5 + 121 * 1, 6 + 121 * 1, 7 + 121 * 1], (grp 1 t5).lr.allot ≤ t5.wbase + f) ∧ (4 + 1 * 1) % 2 = 1 ∧
    t5.rd 7 ≠ 0 ∧ t5.rd 8 = 0 ∧ (thrOf (nextOf (exec (.rep 1 1 1 3) (followedBy iaddW))) k0).repc = 3 ∧
    (thrOf (nextOf (exec (.repReg 1 1 1 8) (followedBy iaddW))) k0).pc = 0x10008 := by decide +kernel

/-- A thread between two iterations of a repetition, and one after its last. -/
theorem test_meets_afterIteration :
    let r : Rep := ⟨0x10000, iaddW, 0, 2, 1, 1, 1⟩
    let t := { t5 with rep := some r, pc := r.at_ + 8 }
    (stand (grp 1 t)).thread? k0 = some t ∧ t.rep = some r ∧ t.pc = r.at_ + 8 ∧ t.depth = 0 ∧ r.i + 1 < r.n ∧
      ((thrOf ((stand (grp 1 t)).afterIteration k0 r 0) k0).pc = 0x10004) := by decide

/-- The loaded machine with a debugger attached to its region through the physical function, and every debug permission. -/
def debugged (t : Thread) : State :=
  (stand (grp 1 t)).modPkg 0 (fun p => { p with
    blocks := [(0x1000, { loadBlock with dbgperm := 0xFF })], mbox := [(0, { Mbox.init with att := true, attReg := 1 })] })

/-- Traps: a leaf with a handler at depth 0 and at depth 1; one without, and depth 2; TRET at each depth; a debugger with
permission, and none. -/
theorem test_meets_Traps : ((stand (grp 1 t5)).effTrapvec 0 0x1000 = 0x10100 ∧ t5.depth < 2 ∧ { t5 with depth := 1 }.depth = 1 ∧
    2 ≤ { t5 with depth := 2 }.depth ∧ ((stand (grp 1 t5)).effDbg 0 0x1000).getLsbD 7 = false ∧
    ((stand (grp 1 t5)).modPkg 0 (fun p => { p with blocks := [(0x1000, { loadBlock with trapvec := 0 })] })).effTrapvec 0 0x1000 = 0 ∧
    (debugged t5).attachFor 0 0x1000 ≠ none ∧ ((debugged t5).effDbg 0 0x1000).getLsbD 2 = true ∧
    ((debugged t5).effDbg 0 0x1000).getLsbD 0 = true ∧ (stand (grp 1 t5)).attachFor 0 0x1000 = none) ∧
    (∃ h, (debugged t5).group? k0.uid = some h ∧ h.stop = none) := by
  exact ⟨by decide, _, rfl, rfl⟩

/-- TRAPVEC is entered with the cause, the address after TRAP and depth 1 (R86, R390). -/
theorem test_trap :
    let t := thrOf (nextOf (exec (.trap 7) (stand (grp 1 t5)))) k0
    t.pc = 0x10100 ∧ t.trapc = 0x0C ∧ t.trappc = 0x10004 ∧ t.trapva = 0 ∧ t.depth = 1 ∧
    (thrOf (nextOf (exec .tret (stand (grp 1 t)))) k0).pc = 0x10004 := by decide

/-- BarrierAndFence: a group of one share; every other thread arrived or exited; one that has not; a completed generation; an
access of the bank in flight before a release fence; a log that is not empty. -/
theorem test_meets_BarrierAndFence :
    let g := crew t5 (fun n => { t5 with exited := decide (n % 2 = 0), wait := if n % 2 = 0 then .none else .bar 0 })
    let a := (stand g).newAccess k0 g t5 .st 4 0x10000
    let s := { stand g with items := [(9, .access { a with stage := .ready })] }
    g.shares.length ≤ 1 ∧ g.issues = true ∧ (g.threads.all (fun u => u.iterates.isNone)) = true ∧ t5.wait = .none ∧ t5.exited = false ∧ t5.log = [] ∧ (stand g).accOf k0 = [] ∧
    (g.threads.tail.all (fun u => u.exited || decide (u.wait = .bar g.barGen))) = true ∧
    (crew t5 (fun _ => t5)).threads[1]? = some t5 ∧ t5.wait ≠ .bar (crew t5 (fun _ => t5)).barGen ∧
    { t5 with wait := .bar 3 }.wait = .bar 3 ∧ 3 ≠ g.barGen ∧ (s.accOf k0).map (fun e => (e.1, e.2.stage, e.2.kind)) = [(9, .ready, .st)] ∧
    (stand g).logEmpty k0 { t5 with outst := [⟨.store, 9, false⟩] } = true ∧ s.logEmpty k0 t5 = true ∧
    (stand g).logEmpty k0 { t5 with log := [⟨0, 1, 1, 0, 0, 0, 0, 0, 0, 0, 0, 0, 9, 0⟩] } = false := by decide

/-- ExitCountersAndMarks: an empty log and one that is not; 63 operations under way; a limit met and one passed. -/
theorem test_meets_ExitCountersAndMarks :
    let t := { t5 with outst := (List.range 63).map (fun n => ⟨.load, n, false⟩) }
    t.outst.length ≤ 63 ∧ t.cnt .load = 63 ∧ (62 < t.cnt .load) ∧ t.cnt .store ≤ 0 ∧
    (stand (grp 1 t)).logEmpty k0 t = true ∧ ((stand (grp 1 t5)).effDbg 0 0x1000).getLsbD 7 = false ∧
    (nextOf (exec .exit (stand (grp 1 t5)))).groups ≠ [] := by decide

/-! ## Hypotheses met: memory -/

/-- The translation of a page that the loaded program has besides its code: 2 objects, 3 attraction memory. -/
def pageTrans (n : Nat) : Trans :=
  { loadTrans with base := n * 65536, ga := n * 65536, mtype := if n = 2 then 1 else 0, w := true, x := false, dirty := true }

/-- A page that package 0 holds as its sole master. -/
def holdPage (p : Pkg) (n : Nat) : Pkg := p.setFrame (pageSet n * 16) { FrameTag.init with gpn := n, state := fsSole, owner := 1 }

/-- The loaded machine with a page of objects at 0x20000 (two of 48 bytes, at 0x20000 private and at 0x20040 published at PKG
scope) and a page of attraction memory at 0x30000, both writable. -/
def world (g : Group) : State :=
  let s := stand g
  let hdr (st sc len : Nat) : List Byte := leBytes 8 (len * 2 ^ 32 + st * 2 ^ 14 + sc * 2 ^ 11)
  let s := { s with gmem := memWrite (memWrite s.gmem 0x20000 (hdr 0 0 48)) 0x20040 (hdr 2 2 48) }
  s.modPkg 0 (fun p => (holdPage (holdPage p 2) 3).modCore 0 (fun k => { k with tlb := k.tlb ++ [(1, pageTrans 2), (1, pageTrans 3)] }))

/-- A thread whose pairs are v4 data with its tag, v8 an aligned address of page 3, v10 a misaligned one, v12 and v14 the objects. -/
def tm : Thread :=
  { thr [(4, 0x20040), (8, 0x30010), (10, 0x30013), (12, 0x20000), (14, 0x20040), (16, 48), (18, 0x30000)] with
    tags := [4, 12, 14] }

/-- LoadsStoresIssue, ObjectsRangesIssue: aligned and misaligned addresses, an empty log and one that is not, ready operands. -/
theorem test_meets_LoadsStoresIssue : (world (grp 1 tm)).Issuing k0 (grp 1 tm) tm ∧ tm.active = true ∧
    OperandsReady (grp 1 tm) tm [(4, 4), (8, 2)] ∧ (tm.rd64 8).toNat % 8 = 0 ∧ (tm.rd64 10).toNat % 2 ≠ 0 ∧
    (world (grp 1 tm)).logEmpty k0 tm = true ∧
    (world (grp 1 tm)).logEmpty k0 { tm with log := [⟨0, 1, 1, 0, 0, 0, 0, 0, 0, 0, 0, 0, 9, 0⟩] } = false :=
  ⟨⟨rfl, rfl, rfl⟩, rfl, ops_ready (by decide), by decide, by decide, by decide, by decide⟩

/-- The STREF of v4 at offset 8 n from the pair vb. -/
def strefAcc (t : Thread) (b n : Nat) : Access :=
  { (world (grp 1 t)).newAccess k0 (grp 1 t) t .stref 8 (t.rd64 b + BitVec.ofNat 64 (8 * n)) with
    data := t.rd64 4, tagd := t.tag 4, vtag := t.tag b, opa := t.rd64 b }

/-- What its checks decide, once it is translated. -/
def strefOf (t : Thread) (b n : Nat) : RefRes :=
  let r := (world (grp 1 t)).xlateAccess (strefAcc t b n)
  (r.1.strefCheck r.2.1).2

/-- ObjectsRangesIssue, STREF: the checks decide to store, a tag trap, an escape trap, a wait for a header that is PUBLISHING; no
walk is due, the translation hits, the pages are here. -/
theorem test_meets_stref : strefOf tm 12 2 = .store ∧ strefOf tm 8 0 = .store ∧ strefOf tm 12 1 = .trap 0x07 ∧
    strefOf { tm with tags := [12] } 12 2 = .trap 0x07 ∧
    (let t := { tm with regs := (thr [(4, 0x20000), (14, 0x20040)]).regs }
     strefOf t 14 2 = .trap 0x06) ∧
    (let r := (world (grp 1 tm)).xlateAccess (strefAcc tm 12 2)
     ({ r.1 with gmem := memWrite r.1.gmem 0x20000 (leBytes 8 (48 * 2 ^ 32 + 2 ^ 14)) }.strefCheck r.2.1).2 = .wait 0x20000) ∧
    (world (grp 1 tm)).heldWalk k0 [0x20010, 0x20000, 0x20040] = none ∧
    (match ((world (grp 1 tm)).xlateAccess (strefAcc tm 12 2)).2.2 with | .done => true | _ => false) = true ∧
    (((world (grp 1 tm)).xlateAccess (strefAcc tm 12 2)).2.1.pages.all (fun e => (world (grp 1 tm)).pageReady 0 e.1.mtype e.1.peer e.2.1 e.2.2)) = true ∧
    tm.cnt .store < 63 ∧ tm.log = [] := by decide +kernel

/-- ObjectsRangesIssue, the others: KLD and KST whose translation hits and no walk has failed, a uniform register under way, OINIT in OBJ
memory and outside it, aligned and not; a LAUNCH of an aligned record; ranges of 0 and of 48 bytes. -/
theorem test_meets_ObjectsRangesIssue :
    let s := world (grp 1 tm)
    let hits (a : Access) : Bool := match (s.xlateAccess a).2.2 with | .done => true | _ => false
    s.failedWalk k0 4 (tm.rd64 8).toNat = none ∧ 5 ∉ tm.kpend ∧
    hits (s.newAccess k0 (grp 1 tm) tm (.kld 5) 8 (tm.rd64 8)) = true ∧
    hits { s.newAccess k0 (grp 1 tm) tm .oinit 8 (tm.rd64 12) with len := 16 + 48, data := 48 } = true ∧
    ((s.xlateAccess { s.newAccess k0 (grp 1 tm) tm .oinit 8 (tm.rd64 12) with len := 16 + 48 }).2.1.trans.all (fun u => decide (u.mtype = 1))) = true ∧
    ((s.xlateAccess { s.newAccess k0 (grp 1 tm) tm .oinit 8 (tm.rd64 8) with len := 16 + 48 }).2.1.trans.any (fun u => decide (u.mtype ≠ 1))) = true ∧
    (tm.rd64 12).toNat < 2 ^ 56 ∧ (tm.rd64 12).toNat % 16 = 0 ∧ (tm.rd 16).toNat % 8 = 0 ∧ (tm.rd64 10).toNat % 16 ≠ 0 ∧
    (tm.rd64 18).toNat % 128 = 0 ∧ (tm.rd64 8).toNat % 128 ≠ 0 ∧ tm.rd 17 = 0 ∧ tm.rd 16 ≠ 0 ∧
    (tm.rd64 8).toNat + (tm.rd 16).toNat ≤ 2 ^ 56 := by decide

/-- AccessIssued: a store below its counter's limit whose translation hits, and a counter at 63. -/
theorem test_meets_AccessIssued :
    let s := world (grp 1 tm)
    let a := s.newAccess k0 (grp 1 tm) tm .st 8 (tm.rd64 8)
    a.thr = k0 ∧ a.kind.cls = some .store ∧ tm.cnt .store < 63 ∧ tm.log = [] ∧
    (match (s.xlateAccess a).2.2 with | .done => true | _ => false) = true ∧ (s.xlateAccess a).1.thread? k0 = some tm ∧
    (s.xlateAccess a).2.1.mtype ≠ 5 ∧ a.kind.plainLoad = false ∧ ((s.xlateAccess a).1.pkgD 0).mbox = [] ∧
    (s.newAccess k0 (grp 1 tm) tm (.ld .s8) 1 (tm.rd64 10)).pieces ≠ [] ∧
    63 ≤ ({ tm with outst := (List.range 63).map (fun n => ⟨.store, n, false⟩) } : Thread).cnt .store := by decide

/-- A thread with scratchpad offsets 0 in v20, 8 in v21, 5 in v22, 524,287 in v23 and 524,280 in v24. -/
def ts : Thread := thr [(4, 0xAABBCCDD), (5, 0x11223344), (21, 8), (22, 5), (23, 524287), (24, 524280)]

/-- ScratchpadAccess: a misaligned offset, one below 0, one past the end of the 524,288 bytes and the last that fits; the share, no
access in flight, no mailbox, counters below 63. -/
theorem test_meets_ScratchpadAccess : (stand (grp 1 ts)).Issuing k0 (grp 1 ts) ts ∧
    ((ts.rd 22).toNat + 4 * (BitVec.toInt (0 : BitVec 9)) : Int) % 4 ≠ 0 ∧ ((ts.rd 20).toNat + 4 * (BitVec.toInt (511 : BitVec 9)) : Int) = -4 ∧
    ((ts.rd 24).toNat + 8 * (BitVec.toInt (1 : BitVec 9)) : Int) % 8 = 0 ∧ (2048 * (grp 1 ts).lr.scrg : Int) < ((ts.rd 24).toNat + 8 : Int) + 8 ∧
    (ts.rd 24).toNat + 8 ≤ 2048 * (grp 1 ts).lr.scrg ∧ (ts.rd 24).toNat % 8 = 0 ∧
    ((grp 1 ts).shares[(grp 1 ts).shareIndex 0]?).isSome = true ∧ (stand (grp 1 ts)).accOf k0 = [] ∧
    ((stand (grp 1 ts)).pkgD 0).mbox = [] ∧ ts.cnt .load < 63 ∧ ts.cnt .store < 63 ∧ ops (grp 1 ts) ts [(4, 4), (24, 1)] = true :=
  ⟨stand_issuing _ _ rfl, by decide⟩

/-- A scratchpad access of `ts`'s thread on its way, as item 9, and whether it may be performed. -/
def storing (kd : AccKind) (n at_ : Nat) : State :=
  let s := stand (grp 1 ts)
  { s with items := [(9, .access { s.newAccess k0 (grp 1 ts) ts kd n (BitVec.ofNat 64 at_) with
      stage := .ready, trans := [scrTrans at_], data := 0x11223344AABBCCDD })] }

/-- ScratchpadAccess, performing: a store and an atomic of the share that may be performed. -/
theorem test_meets_ScratchpadPerformed :
    let ok (s : State) : Bool := match s.access? 9 with
      | some a => decide (a.stage = .ready) && s.mayPerform 9 a && !a.releases && a.closed.isNone && decide (a.va.toNat < 2 ^ 52)
      | none => false
    ok (storing .sts 8 524280) = true ∧ ok (storing (.atoms .add32 false) 4 524280) = true ∧
    ((storing .sts 8 524280).share? 1 0).isSome = true ∧ ((storing .sts 8 524280).pkgD 0).mbox = [] := by decide +kernel

/-- A store of eight bytes at offset 524,280 goes out, and is there once performed, byte by byte, least significant first (R310). -/
theorem test_scratch_store :
    let s := stand (grp 1 ts)
    let u := nextOf (exec (.sts .b8 4 24 0) s)
    u.sbytes 1 0 524280 8 = [0, 0, 0, 0, 0, 0, 0, 0] ∧ Instr.ownershipRequest s.nextId ∈ u.agenda ∧
    (nextOf (exec (.ownershipRequest s.nextId) u)).sbytes 1 0 524280 8 = [0xDD, 0xCC, 0xBB, 0xAA, 0x44, 0x33, 0x22, 0x11] := by
  decide +kernel

/-- PrivateAndRelease: word 0, the last word below SLIM 32, the two words of which the second is at SLIM, a word at SLIM and one below 0. -/
theorem test_meets_PrivateAndRelease : (grp 1 ts).lr.slimw = 32 ∧ ((thr [(21, 31)]).rd 21).toNat + 1 ≤ 32 ∧
    (Width.w64.regs = 2 ∧ (0 : Int) ≤ 31 ∧ (31 : Int) + 1 = (grp 1 ts).lr.slimw) ∧ ((grp 1 ts).lr.slimw : Int) ≤ 32 ∧
    ((ts.rd 20).toNat + BitVec.toInt (511 : BitVec 9) : Int) < 0 ∧ (stand (grp 1 ts)).logEmpty k0 ts = true ∧
    (ts.rd 21).toNat % 8 = 0 ∧ (ts.rd 21).toNat + 8 ≤ 2048 * (grp 1 ts).lr.scrg := by decide

/-! ## Hypotheses met: homes, write-backs, replies -/

/-- An access of `tm`'s thread, as item 9 of the world, translated and in the stage `st`. -/
def flying (kd : AccKind) (n : Nat) (st : Stage) (f : Access → Access) : State :=
  let s := world (grp 1 tm)
  let r := s.xlateAccess { s.newAccess k0 (grp 1 tm) tm kd n (tm.rd64 8) with data := 5, dreg := 4 }
  { r.1 with items := [(9, .access (f { r.2.1 with stage := st }))] }

/-- It may be performed now: nothing before it, not a release, its pages here, its data good. -/
def isDue (s : State) : Bool :=
  match s.access? 9 with
  | some a => s.mayPerform 9 a && !a.releases && a.closed.isNone && !s.consumesBad a &&
    a.pages.all (fun e => s.pageReady a.pkg e.1.mtype e.1.peer e.2.1 e.2.2)
  | none => false

/-- HomeRequests: a load, a store and an atomic that are due; a load of words that the L1 of another core owns; one that was
forwarded; an atomic that an earlier atomic of its thread holds back. -/
theorem test_meets_HomeRequests : isDue (flying (.ld .s32) 4 .ready id) = true ∧ isDue (flying .st 8 .ready id) = true ∧
    isDue (flying (.atom .add32 false) 4 .ready id) = true ∧ isDue (flying (.ld .s32) 4 .forwarded id) = true ∧
    (match (flying (.ld .s32) 4 .ready id).access? 9 with | some a => !(flying (.ld .s32) 4 .ready id).mustForward a | none => false) = true ∧
    (let l := { emptyL1 0x30000 0 false 1 with valid := 0xFFFFFFFF, dirty := 0xFF, owned := 0xFF }
     let s := (flying (.ld .s32) 4 .ready id).modCore 0 1 (fun k => { k with l1 := [l] })
     match s.access? 9 with | some a => s.mustForward a | none => false) = true ∧
    (let s := flying (.atom .add32 false) 4 .ready id
     match s.access? 9 with
     | some a => !{ s with items := (3, .access a) :: s.items }.mayPerform 9 a
     | none => false) = true ∧
    ((flying .st 8 .ready id).group? 1).isSome = true ∧
    ((nextOf (exec (.homeReadRequest 9) (flying (.ld .s32) 4 .ready id))).access? 9).map (·.stage) = some .performed ∧
    ((nextOf (exec (.forwardedRead 9) (flying (.ld .s32) 4 .forwarded id))).access? 9).map (·.stage) = some .performed := by decide +kernel

/-- An atomic at its home adds and answers the old value (R310). -/
theorem test_atomic_at_home :
    let s := nextOf (exec (.atomicAtHome 9) { flying (.atom .add32 false) 4 .ready id with gmem := memWrite [] 0x30010 [7] })
    s.gbytes 0x30010 4 = [12, 0, 0, 0] ∧ (s.access? 9).map (fun a => a.value) = some 7 := by decide +kernel

/-- An agent of the loaded program; a host page and a scratchpad. -/
def agent0 : Agent := { pkg := 0, core := 0, uid := 1, share := 0, chain := 0, tenant := 1, late := false }

/-- ReadBack: eight bytes at the end of a line under policy L1-bypass with no slice line; a host page; the share's scratchpad. -/
theorem test_meets_ReadBack :
    let t := { pageTrans 3 with pol := 1 }
    t.mtype = 0 ∧ t.pol = 1 ∧ (world (grp 1 tm)).pageCmp = [] ∧ (world (grp 1 tm)).cmpDisagrees agent0 t (t.addr 0x30078) = false ∧
    t.addr 0x30078 % 128 + 8 ≤ 128 ∧
    ((world (grp 1 tm)).pkgs.all (fun e => e.2.slices.all (fun l => decide (l.kind ≠ 1)))) = true ∧
    (let h := { pageTrans 3 with mtype := 4 }; h.mtype = 4 ∧ h.side = false ∧ h.addr 0x30078 % 2 ^ 64 + 8 ≤ 2 ^ 64) ∧
    (scrTrans 8).mtype = 5 ∧ ((world (grp 1 tm)).share? 1 0).isSome = true := by decide

/-- LineCodesRoundTrip has no hypothesis; a line of zeros takes code 1 where the CMP allows a code, and none where it is 0 (R123). -/
theorem test_line_codes : lineCode 0 0 = 0 ∧ lineCode 2 0 = 1 ∧ lineCode 2 1 = 2 ∧ lineCode 3 1 = 3 := by decide +kernel

/-- A write-back of words 0 and 1 of the line at 0x30000, all bytes of word 0 and one of word 1. -/
def wb0 : WriteBack :=
  { pkg := 0, core := 1, tags := [(1, 4)], ga := 0x30000, data := 0x1122334455667788, words := 3, mask := 0x8F, passed := 0, dead := 0,
    mtype := 0, chain := 0 }

/-- WriteBacks: a single write-back in flight; an epoch closed with it, and with none in flight; an atomic on its way in the epoch. -/
theorem test_meets_WriteBacks :
    let s := { world (grp 1 tm) with items := [(9, .wb wb0)] }
    let t := s.modCore 0 1 (fun k => { k with closed := [(4, 0)] })
    let a := flying (.atom .add32 false) 4 .ready (fun a => { a with epoch := 4 })
    s.item? 9 = some (.wb wb0) ∧ wb0.mtype = 0 ∧ wb0.ga % 128 = 0 ∧ s.pageCmp = [] ∧ (t.coreOf 0 1).closed = [(4, 0)] ∧ (1, 4) ∈ wb0.tags ∧
    (1, 3) ∉ wb0.tags ∧ ((t.modCore 0 1 (fun k => { k with closed := [(3, 0)] })).coreOf 0 1).closed = [(3, 0)] ∧ (s.pkg? 0).isSome = true ∧
    ((a.modCore 0 0 (fun k => { k with closed := [(4, 0)] })).access? 9).map (fun b => (b.pkg, b.core, b.epoch, b.stage, b.releases)) =
      some (0, 0, 4, .ready, false) ∧ isDue a = true ∧ (wb0.words.getLsbD 0 = true ∧ wb0.dead.getLsbD 0 = false ∧ wb0.mask.getLsbD 3 = true) ∧
    wb0.mask.getLsbD 4 = false := by
  decide +kernel

/-- The bytes of a write-back reach the home, and no other (R166). -/
theorem test_write_back :
    (nextOf (exec (.writeBackArrival 9) { world (grp 1 tm) with items := [(9, .wb wb0)] })).gbytes 0x30000 9 =
      [0x88, 0x77, 0x66, 0x55, 0, 0, 0, 0x11, 0] := by decide +kernel

/-- AccessReply: a performed load of a thread that runs, and of one that has exited. -/
theorem test_meets_AccessReply :
    let s := flying (.ld .s8) 1 .performed (fun a => { a with value := 0x80 })
    (s.access? 9).map (fun a => (a.stage, a.kind)) = some (.performed, .ld .s8) ∧ (s.thread? k0).map (·.exited) = some false ∧
    ((s.modThread k0 (fun t => { t with exited := true })).thread? k0).map (·.exited) = some true ∧
    (thrOf (nextOf (exec (.accessCompletion 9) s)) k0).rd 4 = 0xFFFFFF80 := by decide

/-! ## Hypotheses met: engines -/

/-- The group of the loaded program with uniform registers, in a crew of a role. -/
def kgrp (role : Nat) (t : Thread) (ks : List (Nat × DWord)) : Group :=
  { grp role t with shares := (grp role t).shares.map (fun h => { h with kregs := ks }) }

/-- A descriptor of 2 rows of 64 bytes, 0x30000 in memory, 0x40 in scratchpad, in k8 to k11, with a reserved bit from `r` on; and one
whose rows reach past the share. -/
def copyK (r : DWord) : List (Nat × DWord) :=
  [(8, 0x30000 ||| r), (9, 0x40), (10, 0x0002000040000000), (11, 0x0000004000000040)]
def copyPast : List (Nat × DWord) := [(8, 0x30000), (9, 0x7FFC0), (10, 0x0002000040000000), (11, 0x0000004000000040)]

/-- RoleFaults: a crew of each role, and operands that are ready. -/
theorem test_meets_RoleFaults : (grp 0 t5).lr.role 0 = 0 ∧ (grp 1 t5).lr.role 0 = 1 ∧ (grp 2 t5).lr.role 0 = 2 ∧
    (stand (grp 2 t5)).Issuing k0 (grp 2 t5) t5 ∧ OperandsReady (grp 2 t5) t5 [(7, 1)] ∧
    (thrOf (nextOf (exec (.cpt 1 8) (stand (grp 2 t5)))) k0).trapc = 0x05 :=
  ⟨by decide, by decide, by decide, stand_issuing _ _ rfl, ops_ready (by decide), by decide⟩

/-- EngineCommandsIssue, COPY: a block that passes its checks, with a counter below 63 and a free queue; a reserved bit, rows past the
share, a queue that is full, 63 copies under way. -/
theorem test_meets_EngineCommandsIssue_copy :
    let g := kgrp 0 t5 (copyK 0)
    let d (ks : List (Nat × DWord)) := copyDesc ((kgrp 0 t5 ks).kblock 0 8 4)
    g.lr.role 0 = 0 ∧ t5.kpend = [] ∧ copyCheck .cpt g (d (copyK 0)) 0 = none ∧ (d (copyK 0)).rows = 2 ∧ (d (copyK 0)).rowb = 64 ∧
    copyCheck .cpt g (d (copyK (2 ^ 60))) 0 = some (0x01, 0) ∧ copyCheck .cpt g (d copyPast) 0 = some (0x0D, 0x7FFC0) ∧
    (stand g).queueFull g 1 0 0 = false ∧ (stand g).queueFull g 1 0 3 = false ∧
    ((stand g).modCore 0 0 (fun c => { c with copyQ := List.range 1024 })).queueFull g 1 0 0 = true ∧
    copyCheck .cpr g (d (copyK 0)) 3 = none ∧ copyCheck .cpg g (d (copyK 0)) 6 = some (0x04, 6) ∧ (stand g).ops = [] ∧
    attrType ((stand g).attr 0 0 0x1000 0x30000).2 ≠ 5 ∧
    attrType (((stand g).partWrite 0 0x20008 (leBytes 8 (5 * 2 ^ 59 + 2 ^ 58))).attr 0 0 0x1000 (2 ^ 52)).2 = 5 ∧
    63 ≤ ({ t5 with outst := (List.range 63).map (fun n => ⟨.copy, n, false⟩) } : Thread).cnt .copy := by decide +kernel

/-- A copy command that issues: the handle names the operation, which is counted (R40, R42). -/
theorem test_copy_issues :
    let s := stand (kgrp 0 t5 (copyK 0))
    let u := nextOf (exec (.cpt 3 8) s)
    (thrOf u k0).rdH 3 = s.nextId ∧ (thrOf u k0).cnt .copy = 1 ∧ (u.op? s.nextId).map (fun o => (o.kind, o.st)) = some (.cpt, .queued) ∧
    (thrOf (nextOf (exec (.cpt 3 8) (stand (kgrp 0 t5 copyPast)))) k0).trapva = 0x7FFC0 := by decide +kernel

/-- An MMA of one K-block of E4M3 at 0x30000 and 0x34000, rows of 128 bytes, in k8 to k15; and an odd kind code. -/
def mmaK (kind : DWord) : List (Nat × DWord) :=
  [(8, 0x30000), (9, 0x8000000000 ||| kind), (10, 0x34000), (11, 0x8000000000), (12, 0x0001000000000001)]
/-- A tile at 0x30000, rows of 512 bytes, FP32 (code 7). -/
def tileK : List (Nat × DWord) := [(8, 0x30000), (9, 0x20000000070)]

/-- EngineCommandsIssue, MATRIX: blocks that pass their checks, one with a reserved kind, a start block 0, scales inside the share. -/
theorem test_meets_EngineCommandsIssue_matrix :
    let g := kgrp 1 t5 (mmaK 0)
    let w : Nat := 0x0000010000000000
    g.lr.role 0 = 1 ∧ (stand g).queueFull g 1 0 1 = false ∧ mmaCheck (mmaDesc (g.kblock 0 8 8)) 0 = none ∧
    mmaCheck (mmaDesc ((kgrp 1 t5 (mmaK 15)).kblock 0 8 8)) 0 = some (0x01, 0) ∧ t5.rd 0 = 0 ∧
    tileCheck true (tileDesc true ((kgrp 1 t5 tileK).kblock 0 8 2)) = none ∧
    tileCheck false (tileDesc false ((kgrp 1 t5 tileK).kblock 0 8 2)) = none ∧
    ((kgrp 1 t5 [(8, 0x0000010000000000)]).rdK 0 8).toNat = w ∧
    w / 2 ^ 19 % 2 ^ 13 = 0 ∧ w / 2 ^ 51 = 0 ∧ w % 2 = 0 ∧ w / 2 ^ 32 % 2 = 0 ∧ w % 2 ^ 19 + 128 ≤ 2048 * g.lr.scrg ∧
    w / 2 ^ 32 % 2 ^ 19 + 256 ≤ 2048 * g.lr.scrg ∧ t5.cnt .tile < 63 := by decide

/-- An SCN of 4 steps, 1 channel, operator 2, all values out: input 0x30000, output 0x31000, carry-in code `cin`. -/
def scnK (cin len : DWord) : List (Nat × DWord) :=
  [(8, 0x30000), (9, 0x31000), (10, len * 2 ^ 51 ||| 0x0000134000000000 ||| (cin <<< 34)), (11, 0x0000010000000000)]

/-- EngineCommandsIssue, VECTOR: a block that passes, one of length 0, one that wants a rail it has not joined; an offset that is
aligned, one that is not, one past the end. -/
theorem test_meets_EngineCommandsIssue_vector :
    let g := kgrp 2 t5 (scnK 0 4)
    let d (ks : List (Nat × DWord)) := scnDesc ((kgrp 2 t5 ks).kblock 0 8 4)
    g.lr.role 0 = 2 ∧ (stand g).queueFull g 1 0 2 = false ∧ scnCheck (d (scnK 0 4)) 524288 false = none ∧ (d (scnK 0 4)).cin ≠ 2 ∧
    (d (scnK 0 4)).cout = false ∧ scnCheck (d (scnK 0 0)) 524288 false = some (0x01, 0) ∧ scnCheck (d (scnK 2 4)) 524288 false = some (0x0F, 0) ∧
    ((ts.rd 24).toNat % 2 ^ 19 % 8 = 0 ∧ 2048 * g.lr.scrg < (ts.rd 24).toNat % 2 ^ 19 + 40) ∧ (ts.rd 22).toNat % 8 ≠ 0 ∧
    (ts.rd 21).toNat % 2 ^ 19 + 40 ≤ 2048 * g.lr.scrg := by decide

/-- A state whose operation 9 is `o`, at the head of its queues. -/
def working (g : Group) (o : Op) : State :=
  { ((world g).modCore 0 0 (fun c => { c with copyQ := [9], matQ := [9], scanQ := [9] })) with items := [(9, .op o)] }
/-- An operation of a kind of the group's thread, running. -/
def running (kd : OpKind) (g : Group) (t : Thread) (n : Nat) : Op := { newOpOf k0 g t kd (g.kblock 0 8 n) 0 with st := .running }

/-- Handles: a handle that is EMPTY, one of an operation under way, one that is DONE, one that has not started; offsets aligned or
not, in the share and past it; a registry with a free entry. -/
theorem test_meets_Handles :
    let q : Op := { newOpOf k0 (grp 0 t5) t5 .cpt [] 0 with st := .queued }
    let s := working (grp 0 t5) q
    s.opDone 0 = true ∧ s.opDone 9 = false ∧ (working (grp 0 t5) { q with st := .done }).opDone 9 = true ∧
    s.op? 9 = some q ∧ q.formed = false ∧ q.cancelled = false ∧ q.kind ≠ .cpr ∧ q.thr = k0 ∧
    (ts.rd 22).toNat % 4 ≠ 0 ∧ (ts.rd 24).toNat % 4 = 0 ∧ 2048 * (grp 0 t5).lr.scrg < (524284 : Nat) + 4 + 4 ∧
    (ts.rd 21).toNat + 4 ≤ 2048 * (grp 0 t5).lr.scrg ∧ s.accOf k0 = [] ∧ (s.share? 1 0).isSome = true ∧ (s.pkgD 0).mbox = [] ∧
    (grp 0 t5).entryOf 0 9 = none ∧ t5.exited = false ∧
    ((grp 0 t5).shares[0]?.bind (fun h => (freeEntry h.registry).map (SMap.get h.regGens 0))) = some 0 ∧ ((grp 0 t5).shares[0]?.bind (fun h => freeEntry h.registry)).isSome = true ∧
    ({ t5 with handles := [(3, 9)] } : Thread).rdH 3 = 9 := by decide +kernel

/-- HST and HLD carry a handle through scratchpad: the token names the operation, and is not 0 (R345, R346). -/
theorem test_token :
    let t := { ts with handles := [(3, 9)] }
    let q : Op := { newOpOf k0 (grp 0 t) t .cpt [] 0 with st := .queued }
    let u := nextOf (exec (.hst 3 21) (working (grp 0 t) q))
    let u := nextOf (exec (.hld 4 21) { u with cur := some k0 })
    (thrOf u k0).rdH 4 = 9 ∧ 2 ^ 31 ≤ u.snat 1 0 8 4 := by decide +kernel

/-- A share whose sync word at 16 has TARGET T, ARRIVED A, GEN G. -/
def syncing (t : Thread) (T A G : Nat) : State := (stand (grp 1 t)).sput 1 0 16 (leBytes 8 (T * 2 ^ 40 + A * 2 ^ 16 + G))
/-- A thread with the offset 16 in v20, 5 in v21, 0x10001 in v22, the offset 20 in v23, the last word's end in v24. -/
def ty : Thread := thr [(20, 16), (21, 5), (22, 0x10001), (23, 20), (24, 524288)]

/-- SyncWords: an aligned word inside the share, misaligned, outside; targets of 0 and not; arrivals of 0 and not; a condition that
blocks and one that does not. -/
theorem test_meets_SyncWords :
    (syncing ty 4 3 1).snat 1 0 21 3 = 4 ∧ (syncing ty 4 3 1).snat 1 0 18 3 = 3 ∧ (syncing ty 4 3 1).snat 1 0 16 2 = 1 ∧
    (syncing ty 0 3 1).snat 1 0 21 3 = 0 ∧ (ty.rd 20).toNat % 8 = 0 ∧ (ty.rd 23).toNat % 8 ≠ 0 ∧
    ((ty.rd 24).toNat % 8 = 0 ∧ 2048 * (grp 1 ty).lr.scrg < (ty.rd 24).toNat + 8) ∧ (ty.rd 21).toNat % 2 ^ 24 ≠ 0 ∧ (ty.rd 7).toNat % 2 ^ 24 = 0 ∧
    ((ty.rd 22).toNat / 2 ^ 16 % 2 = 1 ∧ 1 % 2 = (ty.rd 22).toNat % 2) ∧ (grp 1 ty).shares.length ≤ 1 ∧
    ((syncing ty 4 3 1).share? 1 0).isSome = true ∧ (syncing ty 4 3 1).accOf k0 = [] ∧ ops (grp 1 ty) ty [(20, 1), (21, 1)] = true := by
  decide +kernel

/-- Five bytes at a word of TARGET 4 that has 3: two generations, 0 left (R225). -/
theorem test_sync_arrival :
    let g := grp 1 ty
    let s := { syncing ty 4 3 1 with cur := some k0 }
    let u := nextOf (exec (.swadd 20 21) s)
    g.lr.scrg = 256 ∧ (u.snat 1 0 16 2, u.snat 1 0 18 3, u.snat 1 0 21 3) = (3, 0, 4) := by decide +kernel

/-- Position 0 of chain 5, of `n` positions. -/
def mem0 (n : Nat) : RailMem := ⟨5, 0, n⟩
/-- A thread with the value that names it for one position, two positions, no position, in v20, v21, v22. -/
def tr : Thread := thr [(20, 0x10005), (21, 0x20005), (22, 5)]
/-- The group as a member, with its chain, its thread in a wait. -/
def joinedBy (w : Wait) (n gen : Nat) (inbox : SMap (List Carry)) (formed : Bool) : State :=
  let g := grp 2 { tr with wait := w }
  (stand { g with shares := g.shares.map (fun h => { h with rail := some (mem0 n) }) }).modPkg 0 (fun p =>
    { p with chains := [{ launch := 0, id := 5, count := n, members := [(0, 1, 0)], formed := formed, inbox := inbox, hub := [], gen := gen }] })
def joined (n gen : Nat) (inbox : SMap (List Carry)) (formed : Bool) : State := joinedBy (.rsync 3) n gen inbox formed
/-- A carry for position 0. -/
def carry0 : Carry := { pkg := 0, launch := 0, chain := 5, pos := 0, n := 1, ch := 1, vals := [7] }

/-- RailMembership: values that name a position and that do not; a share that is no member, a member of this and of another chain;
a completed generation and one under way; an empty inbox; a carry of a chain that is formed and of one that is not. -/
theorem test_meets_RailMembership :
    let g := grp 2 tr
    let bad (v : Nat) : Bool := decide (v / 2 ^ 14 % 4 ≠ 0 ∨ v / 2 ^ 23 ≠ 0 ∨ v / 2 ^ 16 % 128 = 0 ∨ 64 < v / 2 ^ 16 % 128 ∨ v / 2 ^ 16 % 128 ≤ v / 256 % 64)
    let s := { joined 1 3 [] true with items := [(9, .carry carry0)] }
    bad (tr.rd 20).toNat = false ∧ bad (tr.rd 21).toNat = false ∧ bad (tr.rd 22).toNat = true ∧ g.shares[0]?.map (·.rail) = some none ∧
    ((stand g).pkg? 0).isSome = true ∧ (stand g).chain? 0 0 5 = none ∧ mem0 1 ≠ mem0 2 ∧ (stand g).logEmpty k0 tr = true ∧
    ((joined 1 3 [] true).chain? 0 0 5).map (fun c => (c.gen, SMap.get c.inbox [] 0)) = some (3, []) ∧
    ((joined 1 4 [] true).chain? 0 0 5).map (·.gen) = some 4 ∧ (joined 1 3 [] true).carryWaiter 0 0 1 0 = none ∧
    (joined 1 3 [] true).railBusy 1 0 = false ∧ s.item? 9 = some (.carry carry0) ∧
    ((s.chain? 0 0 5).bind (fun c => s.memberHere c 0)).isSome = true ∧
    ((joined 2 3 [] false).chain? 0 0 5).map (·.formed) = some false ∧ s.carryBehind 9 carry0 = false ∧
    { s with items := (3, .carry carry0) :: s.items }.carryBehind 9 carry0 = true ∧
    (SMap.get [(0, [carry0, carry0, carry0, carry0])] [] 0).length = 4 := by decide +kernel

/-- A state in which chain 5 of two positions has a member of its second one only. -/
def half : State := (stand (grp 2 tr)).modPkg 0 (fun p =>
  { p with chains := [{ launch := 0, id := 5, count := 2, members := [(1, 7, 0)], formed := false, inbox := [], hub := [], gen := 0 }] })

/-- After an instruction: PC, the members of chain 5 and its generation, the position of the membership; the wait of a thread that has
closed its phase. -/
def railAfter (i : Instr) (s : State) : List Nat :=
  let u := nextOf (exec i s)
  let c := (u.chain? 0 0 5).map (fun c => (c.members.map (·.1), c.gen, c.formed))
  (thrOf u k0).pc.toNat :: (match c with | some (m, g, true) => g :: m | some (m, _, false) => m | none => [99]) ++
    (match (u.share? 1 0).bind (·.rail) with | some m => [m.count] | none => [])
def phaseClosed : Wait := .fence 9 false true true (some 0)

/-- RailMembership: an RJOIN that makes its chain, one that joins a chain with its position free, one of a member; an RSYNC that
closes a phase, one that has closed it as the last to arrive; an RLEAVE. Each does what the statement says. -/
theorem test_meets_RailMembership_completes :
    railAfter (.rjoin 20) (stand (grp 2 tr)) = [0x10004, 0, 0, 1] ∧
    (half.chain? 0 0 5).map (fun c => (c.count, SMap.find? c.members 0, c.hub)) = some (2, none, []) ∧
    railAfter (.rjoin 21) half = [0x10004, 0, 0, 1, 2] ∧
    railAfter (.rjoin 20) (joinedBy .none 1 3 [] true) = [0x10004, 3, 0, 1] ∧
    ((joinedBy .none 1 3 [] true).closePhase 0 0).2.isSome = true ∧ (joinedBy .none 1 3 [] true).accOf k0 = [] ∧
    (grp 2 tr).phase = .running ∧ (grp 2 { tr with wait := phaseClosed }).lets 0 = true ∧ tr.iterates = none ∧ (joinedBy phaseClosed 1 3 [] true).ops = [] ∧
    railAfter .rsync (joinedBy phaseClosed 1 3 [] true) = [0x10004, 4, 0, 1] ∧
    railAfter .rleave (joinedBy .none 1 3 [] true) = [0x10004, 99] := by decide +kernel

/-- CopyEngine: a CPT at its first piece of 64 bytes of memory that is translated and here, of which the grain grants all or two words. -/
def copying (grain : List Nat) : State := { working (kgrp 0 t5 (copyK 0)) (running .cpt (kgrp 0 t5 (copyK 0)) t5 4) with grain := grain }
theorem test_meets_CopyEngine :
    let o := running .cpt (kgrp 0 t5 (copyK 0)) t5 4
    let moves (grain : List Nat) : Bool :=
      let s := copying grain
      let src := (o.takeRow (grain.headD 0 / 64)).desc.ga + (o.takeRow (grain.headD 0 / 64)).cur * o.desc.gstr
      let n := pieceRead (grain.headD 0 % 64) 0 src 64
      let q := { s with grain := grain.drop 1 }.opRuns 9 (o.takeRow (grain.headD 0 / 64)) (fun m => decide (m ≠ 5)) true (piecesOf 0 [(src, n)])
      let r := q.1.opRead (o.takeRow (grain.headD 0 / 64)) src n
      decide (q.2 = .ready) && decide (r.1.groups = s.groups) && decide (r.2.length = if grain.headD 0 % 64 = 0 then 64 else 8)
    moves [] = true ∧ moves [2] = true ∧ moves [64] = true ∧ (copying []).op? 9 = some o ∧ o.row < o.desc.rows ∧ o.desc.syncen = false ∧
      ((copying []).share? 1 0).isSome = true := by decide +kernel

/-- CopyEngine: a copy from a host page whose translation stands in the TLB, one whose rows have moved; threads with a failed operation
and with a failed KLD. -/
theorem test_meets_CopyEngine_more :
    let o := running .cpt (kgrp 0 t5 (copyK 0)) t5 4
    let host := (copying []).modPkg 0 (fun p => p.modCore 0 (fun k => { k with tlb := [(1, { pageTrans 3 with mtype := 4 })] }))
    let failed (f : EngFail) : Thread := { t5 with engFail := [f] }
    host.op? 9 = some o ∧ 0x30000 % 128 + 64 ≤ 128 ∧ (host.pkg? 0).isSome = true ∧ (host.share? 1 0).isSome = true ∧ host.pageCmp = [] ∧
    (host.tlbFind 0 0 (host.tenantId 0 0x1000) 0x30000).map (fun t => (t.mtype, t.side)) = some (4, false) ∧
    { o with row := 2 }.desc.rows ≤ { o with row := 2 }.row ∧ (failed ⟨true, 0x0D, 0x30000, none⟩).engFail.length = 1 ∧
    (failed ⟨false, 0x0D, 0x30000, some 0x10000⟩).engFail.length = 1 ∧ (kgrp 0 t5 (copyK 0)).issues = true ∧
    (copying []).effTrapvec 0 0x1000 ≠ 0 ∧ ((copying []).effDbg 0 0x1000).getLsbD 7 = false := by decide +kernel

/-- ENGINE_FAILURE_TRAP: the thread enters its handler with ENGINE = 1 (R85). -/
theorem test_engine_trap :
    let t := thrOf (nextOf (exec (.engineFailureTrap 1 0) (stand (grp 0 { t5 with engFail := [⟨true, 0x0D, 0x30000, none⟩] })))) k0
    t.trapc = 0x100D ∧ t.trapva = 0x30000 ∧ t.trappc = t5.pc ∧ t.depth = 1 ∧ t.pc = 0x10100 ∧ t.engFail = [] := by decide +kernel

/-- The piece stands in the scratchpad, and the next row is due (R219, R225). -/
theorem test_copy_piece :
    let g := kgrp 0 t5 (copyK 0)
    let o := running .cpt g t5 4
    let u := nextOf (exec (.copyArrival 9) { working g o with gmem := memWrite [] 0x30003 [0x5A] })
    u.sbytes 1 0 0x43 1 = [0x5A] ∧ (u.op? 9).map (fun o => (o.row, o.off)) = some (1, 0) := by decide +kernel

/-- ScanEngine: an SCN at the head of its queue that needs no carry, takes INIT, waits for its inbox, finds a carry there; an SCOP. -/
theorem test_meets_ScanEngine :
    let g := kgrp 2 t5 (scnK 0 4)
    let o (cin : DWord) : Op := { newOpOf k0 g t5 .scn ((kgrp 2 t5 (scnK cin 4)).kblock 0 8 4) 0 with st := .queued }
    let s := working g (o 0)
    let scop : Op := { newOpOf k0 g t5 .scop [] 8 with st := .queued }
    let rec_ : List Byte := leBytes 8 0x11 ++ leBytes 4 0x10000040 ++ leBytes 28 0
    s.op? 9 = some (o 0) ∧ s.scanHead 9 (o 0) = true ∧ s.withheld 0 = false ∧ s.opMayStart 9 (o 0) = true ∧
    (s.scnProg (o 0)).map (·.n) = some 2 ∧ (o 0).scn.outm < 2 ^ 2 ∧ scnExtent (o 0).scn 2 524288 = none ∧ (o 0).scn.cin = 0 ∧ (o 1).scn.cin = 1 ∧
    (o 2).scn.cin = 2 ∧ scnExtent (o 1).scn 2 524288 = none ∧ scnExtent (o 2).scn 2 524288 = none ∧
    ((joined 1 3 [(0, [carry0])] true).chain? 0 0 5).map (fun c => SMap.get c.inbox [] 0) = some [carry0] ∧
    (working g scop).scanHead 9 scop = true ∧ (working g scop).opMayStart 9 scop = true ∧ (opProgOf rec_).isSome = true ∧
    (((working g scop).sput 1 0 8 rec_).sbytes 1 0 8 40) = rec_ := by decide +kernel

/-- ScanEngine: an SCN whose inputs are read; the state its reads leave; one that has sent its carry, whose output translates; one
whose carry its successor's full inbox holds back. -/
theorem test_meets_ScanEngine_steps :
    let g := kgrp 2 t5 (scnK 0 4)
    let o : Op := { newOpOf k0 g t5 .scn (g.kblock 0 8 4) 0 with st := .queued }
    let s := working g o
    let n := o.scn.len * o.scn.ch * 2 * o.scn.esize
    let ready := s.opRuns 9 o mmaType true (piecesOf 0 [(o.scn.inp, n)])
    let read := ready.1.opRead o o.scn.inp n
    let done : Op := { o with st := .running, sent := true, started := true, held := leBytes 16 5 }
    let wrote := (working g done).opRuns 9 done mmaType true (piecesOf 1 [(done.scn.out, 16)])
    let sends : Op := { newOpOf k0 g t5 .scn ((g.kblock 0 8 4).map (· ||| 0x200000000)) 0 with st := .running, started := true }
    let full := (joined 2 3 [] true).modChain 0 0 5 (fun c => { c with
      members := [(0, 1, 0), (1, 7, 0)], inbox := [(1, [carry0, carry0, carry0, carry0])] })
    o.started = false ∧ s.grain.headD 0 % 64 = 0 ∧ o.held = [] ∧ o.off = 0 ∧ done.off = 0 ∧ ready.2 = .ready ∧ read.1.op? 9 = some o ∧
    ((nextOf (exec (.scanStart 9) s)).op? 9).map (fun q => (q.st, q.started, q.held.length)) = some (.running, true, n) ∧
    wrote.2 = .ready ∧ (wrote.1.opWrite done done.scn.out done.held).op? 9 = some done ∧ (working g done).scanRoom done = true ∧
    ((nextOf (exec (.scanComplete 9) (working g done))).op? 9).map (·.st) = some .done ∧ sends.scn.cout = true ∧
    full.scanRoom sends = false := by decide +kernel

/-- ScanOrder: an operator that is associative. -/
theorem test_meets_ScanOrder : ([1, 2] : List Word).length < 4096 ∧ ∀ a b c : Word, a + b + c = a + (b + c) :=
  ⟨by decide, fun a b c => BitVec.add_assoc a b c⟩

/-- MatrixEngine: the MZ and the MMA at the head of their queue; an MMA whose blocks are performed; a kind of each code. -/
theorem test_meets_MatrixEngine :
    let g := kgrp 1 t5 (mmaK 0)
    let o := running .mma g t5 8
    let s := working g o
    s.op? 9 = some o ∧ s.matHead 9 o = true ∧ s.withheld 0 = false ∧ s.grain.headD 0 % 64 = 0 ∧ o.held = [] ∧ o.off = 0 ∧ o.row < (mmaDesc o.blk).nkb ∧ mmaKind (mmaDesc o.blk).akind = some .e4m3 ∧
    mmaKind (mmaDesc o.blk).bkind = some .e4m3 ∧ (mmaDesc o.blk).spa = false ∧
    (s.opRuns 9 o mmaType true (piecesOf 0 (mmaRuns (mmaDesc o.blk) 8 8 0))).2 = .ready ∧
    ((s.opRuns 9 o mmaType true (piecesOf 0 (mmaRuns (mmaDesc o.blk) 8 8 0))).1.thread? k0).isSome = true ∧
    (let runs := mmaRuns (mmaDesc o.blk) 8 8 0
     let r := runs.foldl (fun ((u, bs) : State × List Byte) ((va, n) : Nat × Nat) => ((State.opRead u o va n).1, bs ++ (State.opRead u o va n).2))
       ((s.opRuns 9 o mmaType true (piecesOf 0 runs)).1, [])
     r.1.op? 9 = some o ∧ (r.1.pkg? 0).isSome = true) ∧ (s.pkg? 0).isSome = true ∧
    (mmaDesc { o with row := 1 }.blk).nkb ≤ { o with row := 1 }.row ∧ s.matHead 9 (running .mz g t5 0) = true := by decide +kernel

/-- A PUB of v12 that may start at once: its release phase is closed; and one of an untagged pair. -/
def tp : Thread := { tm with wait := .fence 9 false true true (some 0) }

/-- The walk of the object at 0x20000 of 48 bytes, entered, all its words visited. -/
def walkOp : Op :=
  { newOpOf k0 (grp 1 tm) tm .pub [] 0 with
    st := .running, formed := true, ga := 0x20000, scope := .pkg, stamp := 1, stack := [(0x20000, 6)], entered := [0x20000] }

/-- The machine with that walk, changed, and the header of its object as it entered it. -/
def walking (f : Op → Op) : State :=
  let p := working (grp 1 tm) (f walkOp)
  { p with gmem := memWrite p.gmem 0x20000 (leBytes 8 (48 * 2 ^ 32 + 2 ^ 16 + 2 ^ 14 + 2 * 2 ^ 11)) }

/-- Publication, PUB: tagged and untagged pairs, an empty log, idle scribes and none, a release phase that closes and one that is closed;
a queue of one walk. -/
theorem test_meets_Publication :
    let s := world (grp 1 tp)
    let busy := s.modDie 0 0 (fun d => { d with scribes := (List.range 8).map (fun w => (w, w + 100)) })
    let q : Op := { newOpOf k0 (grp 1 tm) tm .pub [] 0 with st := .queued }
    tp.tag 12 = true ∧ tp.tag 8 = false ∧ s.logEmpty k0 tp = true ∧ tp.log = [] ∧ s.accOf k0 = [] ∧ tp.cnt .store < 63 ∧ s.idleScribe 0 0 = some 0 ∧
    busy.idleScribe 0 0 = none ∧ ((s.pkgD 0).die 0).pubQ = [] ∧ (s.closePhase 0 0).2.isSome = true ∧ ops (grp 1 tp) tp [(12, 2)] = true ∧
    (working (grp 1 tm) q).op? 9 = some q ∧ (((working (grp 1 tm) q).modDie 0 0 (fun d => { d with pubQ := [9] })).pkgD 0 |>.die 0).pubQ = [9] ∧
    (q.pkg, dieOf q.core) = (0, 0) := by decide +kernel

/-- Publication, the walk: an object whose body has been read; one whose lines take their VIS, and one whose lines have; a walk with
nothing left. -/
theorem test_meets_Publication_walk :
    let p := walking id
    let e := p.walkAddr 9 walkOp 0x20000 2
    let at_ (i : Nat) (o : Op) : Op := { o with marking := some (i, 64) }
    p.op? 9 = some walkOp ∧ p.alive 0 = true ∧ walkOp.stack = [(0x20000, 6)] ∧ walkOp.row = 0 ∧ walkOp.off = 0 ∧ walkOp.marking = none ∧
    (match e.2 with
      | .ready r _ => let v := e.1.walkHeader walkOp r 0x20000
                      hdrValid v.2.1 v.2.2 && decide (hdrLen v.2.1 / 8 ≤ 6) && decide (v.1.op? 9 = some walkOp) && bare v.1
      | _ => false) = true ∧
    (nextOf (exec (.objectMark 9) p)).gnat 0x20000 8 / 2 ^ 14 % 4 = 2 ∧
    (match (walking (at_ 0)).walkPlace 9 (at_ 0 walkOp) 0x20000 0 with
      | (s', .ready _ _) => decide (s'.op? 9 = some (at_ 0 walkOp)) | _ => false) = true ∧
    0x20000 + 64 ≤ 0x20000 / 128 * 128 + 128 * 1 ∧ ((nextOf (exec (.objectMark 9) (walking (at_ 1)))).op? 9).map (·.stack) = some [] ∧
    ((nextOf (exec (.walkComplete 9) (walking (fun o => { o with stack := [], entered := [] })))).op? 9).map (·.st) = some .done := by decide +kernel
/-! ## Hypotheses met: bundles, launches, placement -/

/-- BundlingRounds: a core with a ready group and one without; a thread of 64 rounds without issue, one whose demotion goes on. -/
theorem test_meets_BundlingRounds : (stand (grp 1 t5)).roundGroup 0 0 = some (0, 1) ∧ (stand (grp 1 t5)).roundGroup 0 5 = none ∧
    ((stand (grp 1 t5)).pkg? 0).isSome = true ∧ (stand (grp 1 t5)).ready k0 = true ∧ 64 ≤ { t5 with idle := 64 }.idle ∧ t5.idle < 64 ∧
    { t5 with demLeft := 3 }.demLeft ≠ 0 ∧ t5.demLeft = 0 ∧
    ((nextOf (exec (.bundlingRound 0 0) (stand (crew t5 (fun n =>
      { t5 with place := ⟨0, n, 0⟩, prio := BitVec.ofNat 3 n, pc := 0x10000 + 4 * BitVec.ofNat 64 (n / 16) }))))).coreOf 0 0).bundles.map (fun b => (b.pc, b.threads.length)) =
      [(0x10000, 16), (0x10004, 16)] := by decide +kernel

/-- The 128 bytes of a record: 0x10000, a grid of x × 1 × 1, one crew, REGS8 16, the first dependence word and the word at 0x20. -/
def recBytes (x dep w20 : Nat) : List Byte :=
  leBytes 8 0x10000 ++ leBytes 8 (2 ^ 48 + 2 ^ 32 + x) ++ leBytes 8 (2 ^ 44 + 2 ^ 27 * 16) ++ leBytes 8 0 ++ leBytes 8 w20 ++ leBytes 8 dep ++
    leBytes 24 0 ++ leBytes 8 9 ++ leBytes 8 0 ++ leBytes 8 (2 ^ 63 + 0x9000) ++ leBytes 32 0

/-- The loaded machine with queue 0: its control word, TAIL, a record at slot 0 and a block that gives room. -/
def queued (ctl tail : Nat) (r : List Byte) : State :=
  let s := (stand (grp 1 t5)).modPkg 0 (fun p => { p with
    served := [0x10000]
    blocks := [(0x1000, { loadBlock with lfmax := 4, grpmax := 4, cormax := 4, scrmax := 1024 })] })
  { s with gmem := memWrite (memWrite s.gmem 0x1100 (leBytes 8 ctl ++ leBytes 8 (tail * 2 ^ 16))) 0x40000 r }
/-- An enabled ring of 16 records at 0x40000, fed by the host or by the device. -/
def ringCtl (devfed : Nat) : Nat := 2 ^ 61 + devfed * 2 ^ 62 + 0x40000

/-- LaunchRecords, the queue: enabled and not, broken, empty, a record that is good, one with a bad field, one that asks for more
than the budget, one that stalls; a LAUNCH that finds the queue open, full and stopped. -/
theorem test_meets_LaunchRecords :
    let s := queued (ringCtl 0) 1 (recBytes 1 0 0)
    let d := (s.readQueue 0 0x1000 0).2
    let r := decodeRecord (s.recRead 0 (d.slot (d.head % d.size)) 128).2
    let dev := (queued (ringCtl 1) 1 []).readQueue 0 0x1000 0
    (s.block? 0 0x1000).map (fun b => (b.leaf, b.state)) = some (true, 1) ∧ pathOk (s.path 0 0x1000) = true ∧ (s.path 0 0x1000).map (·.1) = [0x1000] ∧
    (d.en, d.broken, d.qerr, d.tail, d.head % d.size) = (true, false, false, 1, 0) ∧ s.inFlight 0 0x1000 < 4 ∧
    recordOk r 0 = true ∧ r.groups = 1 ∧ s.overBudget 0 0x1000 r = false ∧ r.deps = [0, 0, 0, 0] ∧ 2 ^ 63 ≤ r.compl.toNat ∧
    ((queued 0x40000 1 []).readQueue 0 0x1000 0).2.en = false ∧ ((queued (ringCtl 0 + 2 ^ 60) 1 []).readQueue 0 0x1000 0).2.broken = true ∧
    ((queued (ringCtl 0) 0 []).readQueue 0 0x1000 0).2.tail = 0 ∧
    (let c := ((queued 0x40000 16 []).readQueue 0 0x1000 0).2; (c.en, c.broken) = (false, true)) ∧ s.served 0 0x1000 = true ∧
    s.stopped 0x10000 = false ∧ recordOk (decodeRecord (recBytes 1 0 (2 ^ 40))) 0 = false ∧
    s.overBudget 0 0x1000 { r with scrg := 256, crewm := 1000 } = true ∧
    ((queued (ringCtl 0) 1 (recBytes 1 0 9)).depStatus 0 [0x40021]).2 = [9] ∧ (s.depStatus 0 [0x50001]).2 = [0] ∧ (dev.2.devfed, dev.2.en) = (true, true) ∧
    ((queued (ringCtl 1) 15 []).readQueue 0 0x1000 0).2.size = 16 := by decide +kernel

/-- LaunchRecords, LAUNCH: its access has reached the queue, and its number was given out. -/
theorem test_meets_LaunchEnqueue :
    let s := queued (ringCtl 1) 1 []
    let a := { s.newAccess k0 (grp 1 t5) t5 (.launch 0) 128 0x30000 with stage := .performed, line := 5 }
    let s := { s with items := [(0, .access a)] }
    bare s = true ∧ s.access? 0 = some a ∧ 0 < s.nextId ∧ s.stopped (a.leaf * 16) = false ∧
    ((nextOf (exec (.launchEnqueue 0) s)).readQueue 0 0x1000 0).2.tail = 2 := by decide +kernel

/-- Uncached, which many statements assume: the states of these tests have no L1 line, no write-back, no page with line codes. -/
theorem test_meets_Uncached : (queued (ringCtl 0) 1 (recBytes 1 0 0)).Uncached ∧ (world (grp 1 tm)).Uncached :=
  ⟨uncached_of (by decide +kernel), uncached_of (by decide +kernel)⟩

/-- The record is taken: HEAD is 1, and the launch stands in the sequencer (R50, R57). -/
theorem test_record_take :
    let u := nextOf (exec (.recordTake 0 0x1000 0) (queued (ringCtl 0) 1 (recBytes 1 0 0)))
    (u.readQueue 0 0x1000 0).2.head = 1 ∧ (u.pkgD 0).launches.map (fun e => (e.2.waiting, e.2.total, e.2.lr.launchid)) = [(false, 1, 9)] := by
  decide +kernel

/-- The launch of that record, fully handed out or not. -/
def launch0 (out : Bool) : Launch :=
  { Launch.take 0x1000 1 (decodeRecord (recBytes 2 0 0)) with waiting := false, eligible := true, handedOut := out }
/-- A machine with that launch, and no group. -/
def launched (out : Bool) : State :=
  { (queued (ringCtl 0) 0 []).modPkg 0 (fun p => { p with launches := [(7, launch0 out)], clusters := [(0, { Cluster.init with fused := false })] })
    with groups := [] }

/-- LaunchRecords, GroupsPlaced: a launch that waits, one that is eligible and fits die 0, one fully handed out; 47 clusters that have
reported; a group handed to a die, cores for it. -/
theorem test_meets_GroupsPlaced :
    let s := launched false
    let h : Handed := ⟨7, 0, none, none⟩
    let t := s.modDie 0 0 (fun d => { d with handed := [h] })
    (launched true).launch? 0 7 = some (launch0 true) ∧ (launch0 true).handedOut = true ∧ SMap.get (launch0 true).placed 0 3 = SMap.get (launch0 true).finished 0 3 ∧
    (insertNat (List.range 47) 47).length = 48 ∧ s.eligible 0 (launch0 false) = true ∧ s.offer 0 7 (launch0 false) = some 0 ∧
    ((launch0 false).nextGroup s).isSome = true ∧ (s.pkgD 0).dies = [] ∧ ((t.pkgD 0).die 0).handed = [h] ∧
    t.findCores 0 0 7 none = some [0] ∧ ((t.pkgD 0).cluster 0).fused = (launch0 false).lr.fusel1 ∧
    (t.modPkg 0 (fun p => { p with blocks := [(0x1000, { loadBlock with grpmax := 0 })] })).findCores 0 0 7 none = none ∧
    { launch0 false with waiting := true }.total ≠ 0 ∧ ((s.pkgD 0).cluster 0).fused ≠ true ∧ s.resident 0 = [] ∧ s.wbs = [] := by
  decide +kernel

/-- The thread of the placed group starts at ENTRY (R54). -/
theorem test_place :
    let u := nextOf (exec (.groupPlace 0 0) ((launched false).modDie 0 0 (fun d => { d with handed := [⟨7, 0, none, none⟩] })))
    (u.groups.map (fun e => (e.2.threads.length, e.2.shares.map (·.core)))) = [(32, [0])] ∧ (thrOf u ⟨(launched false).nextId, 3⟩).pc = 0x10000 := by
  decide +kernel

/-- GroupsPlaced, the end: a group that drains with nothing and with a store under way, a saving group that has settled and one
that has not. -/
theorem test_meets_drain_save :
    let s := stand { grp 1 t5 with phase := .draining }
    let a := (world (grp 1 tm)).newAccess k0 (grp 1 tm) tm .st 8 (tm.rd64 8)
    s.drainBusy 1 = false ∧ { s with items := [(9, .access a)] }.drainBusy 1 = true ∧ (stand { grp 1 t5 with phase := .saving }).settled 1 = true ∧
    { stand { grp 1 t5 with phase := .saving } with items := [(9, .access a)] }.settled 1 = false ∧
    (s.group? 1).map (fun g => (g.phase, g.frozen)) = some (.draining, false) ∧
    ((launched true).launch? 0 7).isSome = true ∧ s.writtenLines (grp 1 t5) = [] ∧ s.writesUnderWay (grp 1 t5) = false ∧
    (s.modCore 0 0 (fun k => { k with l1 := [{ emptyL1 0x30000 0 false 1 with dirty := 1, by_ := [(0, 1)] }] })).writtenLines (grp 1 t5) ≠ [] ∧
    { s with items := [(9, .wb { wb0 with core := 0, tags := [(0, 1)] })] }.writesUnderWay (grp 1 t5) = true := by decide +kernel

/-! ## Hypotheses met: faults, translations, pages -/

/-- A fault of the loaded tenant that waits, posted or not. -/
def pf (id : Nat) (posted : Bool) : PFault :=
  { id := id, tenant := 1, regid := 1, kind := 0, acc := 0, cause := 0, va := 0x30000, lid := 1, gidx := 0, tidx := 0, time := 0, die := 0,
    count := 1, waited := false, posted := posted, open_ := true }
/-- The world with a page table for page 4: the attribute entry at 0x20000 names a table at 0x30000, whose entries lead to a leaf. -/
def walked (leaf : Nat) : State :=
  let s := world (grp 1 tm)
  let m := memWrite s.gmem 0x20000 (leBytes 8 (2 ^ 58 + 0x30000))
  let m := memWrite m 0x30000 (leBytes 8 0x30001)
  { s with gmem := memWrite m 0x30020 (leBytes 8 leaf) }
/-- A PREF's walk of an address. -/
def walk0 (va : Nat) (redo : Bool) : Walk :=
  { pkg := 0, core := 0, tenant := 1, leaf := 0x1000, va := va, acc := 0, kind := 3, dir := 0, force := false, thr := k0, redo := redo, fault := 0, failed := 0 }

/-- FaultQueue: a ring with room and one that is full; an index at its end; heads that are written within W and past it. -/
theorem test_meets_FaultQueue :
    let s := (stand (grp 1 t5)).modPkg 0 (fun p => { p with faults := [pf 1 false], ctl := [(0, { Ctl.init with fqregid := 1 })] })
    let q : FQ := { FQ.init with w := 63 }
    (s.tenantBlock 0 1).map (·.1) = some 0x1000 ∧ s.fqOf 0 0x1000 = (0, 64) ∧ (q.w - q.head).toNat < 64 ∧ q.w.toNat % 64 + 1 = 64 ∧
    64 ≤ ({ q with w := 64 }.w - q.head).toNat ∧ s.barOpen 0 = true ∧ (s.pkgD 0).actsOn 0 = some 1 ∧
    ((5 : BitVec 32) - q.head).toNat ≤ (q.w - q.head).toNat ∧ ¬ ((64 : BitVec 32) - q.head).toNat ≤ (q.w - q.head).toNat := by decide +kernel

/-- The entry is written and the lap parity flips at the ring's end (R258). -/
theorem test_fault_post :
    let s := (stand (grp 1 t5)).modPkg 0 (fun p => { p with faults := [pf 1 false], fqs := [(1, { FQ.init with w := 63 })] })
    let u := nextOf (exec (.faultPost 0 1) s)
    (SMap.get (u.pkgD 0).fqs FQ.init 1).w = 64 ∧ (SMap.get (u.pkgD 0).fqs FQ.init 1).lap = false ∧ u.hbytes 0 (64 * 63) 64 = (pf 1 false).bytes true := by
  decide +kernel

/-- A thread whose log holds access 9 for fault 1 in a state, with a cause. -/
def logged (ls cause : Nat) : State :=
  let e : LogEntry := ⟨0, 1, ls, 4, 0, 0, 0, 0, 0, 0x30010, 0xFF, 0, 9, cause⟩
  let s := flying (.ld .s32) 4 .logged id
  { s with groups := [(1, grp 1 { tm with log := [e] })] }

/-- ResolutionAndReplay: an open fault of the tenant; log entries unresolved, resolved and failed, in a group that may issue and in
one that may not; walks that succeed, fault, and are walked again. -/
theorem test_meets_ResolutionAndReplay :
    let s := (logged 1 0).modPkg 0 (fun p => { p with faults := [pf 1 true], ctl := [(0, { Ctl.init with fqregid := 1 })] })
    let a := (logged 2 0).access? 9
    s.barOpen 0 = true ∧ (s.pkgD 0).actsOn 0 = some 1 ∧ (s.pkgD 0).faults.find? (fun f => decide (f.id = 1) && f.open_) = some (pf 1 true) ∧
    (s.pkgD 0).faults.find? (fun f => decide (f.id = 2) && f.open_) = none ∧
    a.map (·.stage) = some .logged ∧ ((logged 3 0x0D).group? 1).map (·.issues) = some true ∧ { grp 1 tm with stop := some ⟨1, [], 0, none, []⟩ }.issues = false ∧
    { grp 1 tm with stop := some ⟨1, [], 0, none, []⟩ }.stepT = none ∧ ((logged 2 0).group? 1).map (·.phase) = some .running ∧
    ((logged 2 0x0B).thread? k0).map (·.log.map (fun e => (e.lstate, e.cause))) = some [(2, 0x0B)] ∧ { grp 1 tm with phase := .saved }.issues = false ∧
    (let w := { walked 0 with items := [(9, .walk (walk0 0x40010 false))] }; w.walkWaits 9 (walk0 0x40010 false) = false) ∧
    (match a with | some a => (match (((logged 2 0).setItem 9 (.access { a with stage := .translate, replay := true, trans := [] })).xlateAccess
      { a with stage := .translate, replay := true, trans := [] }).2.2 with | .done => true | _ => false) | none => false) = true ∧
    (walked 0).walkHit (walk0 0x40010 false) = none ∧ ((walked 0).walkHit (walk0 0x30010 false)).isSome = true ∧
    (match (walked 0).walkHit (walk0 0x30010 false) with | some t => (walked 0).pageReady 0 t.mtype t.peer (t.addr 0x30010 / 65536) false | _ => false) = true ∧
    (match ({ walked 0x8000000000030001 with items := [] }.walk 0 0 0x1000 0x40010 0).2 with
      | .ok t => t.covers 0x40010 && (walked 0x8000000000030001).pageReady 0 t.mtype t.peer (t.addr 0x40010 / 65536) false | _ => false) = true ∧
    ({ walked 0 with items := [(9, .walk (walk0 0x40010 false))] }.walk 0 0 0x1000 0x40010 0).2 = .fault ∧
    ((walked 0).postFault 0 0x1000 3 0 0 0x40010 ((walked 0).walkName (walk0 0x40010 false)) 0).2 = some 1 := by decide +kernel

/-- The control page of function 0 holds arguments. -/
def armed (a0 a1 : DWord) (s : State) : State :=
  s.modPkg 0 (fun p => { p with ctl := [(0, { Ctl.init with arg0 := a0, arg1 := a1 })] })

/-- Invalidation: good arguments for the tenant, a reserved bit, 16 in flight; an invalidate that is over and one whose accesses are not. -/
theorem test_meets_Invalidation :
    let s := armed (2 ^ 48 + 1) 0x30000 (stand (grp 1 t5))
    let i : Inval := { fn := 0, tenant := 1, all := false, va := 0x30000, count := 1, users := [9] }
    s.barOpen 0 = true ∧ ((s.pkgD 0).ctlOf 0).busy = false ∧ (s.pkgD 0).owns 0 1 = true ∧ (s.pkgD 0).invals.length < 16 ∧
    (2 ^ 48 + 1) / 2 ^ 33 % 2 ^ 15 = 0 ∧ (2 ^ 33) / 2 ^ 33 % 2 ^ 15 ≠ 0 ∧ s.invalOver 0 i = true ∧
    (flying .st 8 .ready id).invalOver 0 i = false := by decide +kernel

/-- A package that is READY. -/
def peer1 : Pkg := { Pkg.init with boot := { Boot.init with powered := true, phase := 3 } }
/-- A request of package 0. -/
def req (page st : Nat) (write : Bool) : PageReq :=
  { pkg := 0, who := 8, page := page, va := page * 65536, write := write, dir := bitOf write, leaf := 0x1000, tenant := 1, mtype := 0, peer := 0, cmp := 0,
    side := false, stage := st, frame := 0, from_ := 0, force := false, missed := false, climbed := 0,
    counted := false, waitAt := none }
/-- The world with a second package, and a request of package 0 for a page. -/
def paging (page st : Nat) (write : Bool) : State :=
  let s := { world (grp 1 tm) with pkgs := (world (grp 1 tm)).pkgs ++ [(1, peer1)] }
  { s with items := [(8, .walk (walk0 0x40010 false)), (9, .page (req page st write))] }

/-- PageMovement: a page that is here, one in transition, one that no package holds, one that must be upgraded by its master; each
page at most once in a set. -/
theorem test_meets_PageMovement :
    (paging 3 0 true).pageReady 0 0 0 3 true = true ∧ (paging 5 0 true).pageReady 0 0 0 5 true = false ∧ ((paging 5 0 true).pkgD 0).pageState 5 = 0 ∧
    ((paging 5 0 true).item? 8).isSome = true ∧ (paging 5 0 true).alive 0 = true ∧
    (match ((paging 5 0 true).climb 9 0 5 3 0).2.1 with | .nothing => true | _ => false) = true ∧ ((paging 5 0 true).effTouch 0 0x1000).1 = true ∧
    (((paging 5 0 true).countClimb 9 0 (req 5 0 true) 3).firstTouch 9 0 5 1 0x1000 0 false false false).2 = true ∧
    (let s := (paging 3 2 true).modTag 0 3 (fun t => { t with state := fsShared })
     s.pageReady 0 0 0 3 true = false ∧ s.firstMaster 3 = some 0 ∧ s.holdersOf 3 = [0] ∧ (s.tagOf 0 3).state ≠ 6 ∧
     isMasterState ((s.pkgD 0).pageState 3) = true ∧ s.injs = [] ∧ s.busyNode 9 3 (s.upgradeNodes 0 3) = none ∧
     ((((s.relist 3 0 false 1).getD s).lockNodes 8 3 1 (s.upgradeNodes 0 3)).busyNode 9 3 (s.upgradeNodes 0 3)).isSome = true) ∧
    ((paging 3 0 true).modTag 0 3 (fun t => { t with state := fsFilling })).pageReady 0 0 0 3 true = false ∧
    (let s := (paging 3 3 true).modTag 0 3 (fun t => { t with state := fsFilling })
     (s.pkgD 0).frameOf 3 = some (pageSet 3 * 16) ∧ (s.modTag 0 3 (fun t => { t with state := fsReplica }) |>.relist 3 0 false 1).isSome = true) := by decide +kernel

theorem find_absent {V : Type} {m : SMap V} {j : Nat} (h : m.all (fun e => decide (e.1 ≠ j)) = true) : SMap.find? m j = none := by
  induction m with
  | nil => rfl
  | cons e m ih =>
    simp only [List.all_cons, Bool.and_eq_true, decide_eq_true_eq] at h
    simp [SMap.find?, Ne.symm h.1, ih h.2]

/-- PageMovement, `once`: each page stands in at most one frame of its set, in every package. -/
theorem test_meets_once : ∀ q f f', f ∈ pageFrames 3 → f' ∈ pageFrames 3 → (((paging 3 2 true).pkgD q).frame f).state ≠ 0 →
    (((paging 3 2 true).pkgD q).frame f').state ≠ 0 → (((paging 3 2 true).pkgD q).frame f).gpn = 3 →
    (((paging 3 2 true).pkgD q).frame f').gpn = 3 → f = f' := by
  have h (q : Nat) : ∀ f ∈ pageFrames 3, (((paging 3 2 true).pkgD q).frame f).state ≠ 0 → f = pageSet 3 * 16 := by
    match q with
    | 0 => decide +kernel
    | 1 => decide +kernel
    | n + 2 =>
      have hp : ((paging 3 2 true).pkgD (n + 2)) = Pkg.init := by
        have hk : (paging 3 2 true).pkgs.map (·.1) = [0, 1] := by decide +kernel
        simp only [State.pkgD, State.pkg?]
        rw [find_absent]
        · rfl
        · simp only [List.all_eq_true, decide_eq_true_eq]
          intro e he
          have := List.mem_map_of_mem (f := (·.1)) he
          rw [hk] at this
          simp at this
          omega
      rw [hp]
      decide +kernel
  intro q f f' hf hf' h1 h2 _ _
  rw [h q f hf h1, h q f' hf' h2]

/-- Package 0 asks for a page whose sole master is package 1, which its node lists. -/
def remote : State :=
  let s := (paging 7 0 false).modPkg 1 (fun p => p.setFrame (pageSet 7 * 16) { FrameTag.init with gpn := 7, state := fsSole, owner := 1 })
  (s.relist 7 0 false 1).getD s
/-- The read miss turns at the bay node to package 1, and a frame fills (R145). -/
theorem test_meets_remote_page :
    (match (remote.climb 9 0 7 3 0).2.1 with | .turn 0 1 => true | _ => false) = true ∧ remote.holderBelow 0 7 0 1 = some 1 ∧
    remote.busyNode 9 7 (pathNodes 0 [1]) = none ∧ (remote.takeFrame 0 7 1 0x1000 9 1).2.isSome = true ∧ remote.pageReady 0 0 0 7 false = false ∧
    ((nextOf (exec (.climbingMiss 9) remote)).pkgD 0).pageState 7 = 4 ∧
    (let s := nextOf (exec (.climbingMiss 9) remote)
     let t := s.tagOf 1 7
     (s.pkgD 0).frameOf 7 ≠ none ∧ (((s.freeCopy 1 7).modTag 0 7 (fun u => { u with state := fsSole })).relist 7 0 t.mirror t.owner).isSome = true) :=
  by decide +kernel

/-- PageMovement: package 0 wants to write the page while an injection fills its frame, and the master serves it in memory-side mode. -/
theorem test_meets_filling :
    let s := (remote.modTag 1 7 (fun t => { t with mode := 1 })).modPkg 0 (fun p =>
      p.setFrame (pageSet 7 * 16) { FrameTag.init with gpn := 7, state := fsFilling, owner := 1 })
    let s := s.setItem 9 (.page (req 7 2 true))
    s.pageReady 0 0 0 7 true = false ∧ (s.pkgD 0).pageState 7 = 4 ∧ s.firstMaster 7 = some 1 ∧ s.busyNode 9 7 (s.upgradeWay 0 7) = none ∧
    (s.tagOf 1 7).state = 2 ∧ (s.tagOf 1 7).rwr < 32 ∧ (s.tagOf 1 7).mode = 1 ∧ s.injs = [] ∧ s.alive 0 = true ∧ (s.item? 8).isSome = true := by
  decide +kernel

/-- InjectionAndWindows: an INJECTING frame, a candidate with room, none left, the last level with no backing area; a report to a host
of a node that exists. -/
theorem test_meets_InjectionAndWindows :
    let s := remote.modTag 1 7 (fun t => { t with state := fsInjecting })
    let f := pageSet 7 * 16
    let j : Injection := ⟨1, f, 7, [0], 0, true, none, 0, false, 0, [], none⟩
    ((s.pkgD 1).frame f).state = 7 ∧ ((s.pkgD 1).frame f).gpn = 7 ∧ s.mayAccept j 0 = true ∧ s.takesMark j 0 = false ∧ (s.pkgD 0).pageState 7 = 0 ∧
    (s.modPkg 0 (fun p => { p with injected := 256 })).mayAccept j 0 = false ∧
    (s.offerFrame 0 7).2.isSome = true ∧ ((s.offerFrame 0 7).1.pkg? 0).isSome = true ∧ s.backing 7 1 = none ∧
    (let u := nextOf (exec (.injectionOffer 9) { s with items := [(9, .inj j)] })
     (u.item? 9).map (fun i => match i with | .inj v => v.target.isSome | _ => false) = some true ∧ (u.moveMark 9 1 0 7).isSome = true) ∧
    (s.nodeHost 7 0 0).isSome = true ∧ ((s.pkgD 0).frame (pageSet 3 * 16)).state ≠ 0 := by decide +kernel

/-! ## Hypotheses met: links, the host, debug, boot, steps -/

/-- A flit of channel 0 whose CRC is the one its bits need. -/
def flit0 : Flit := sealFlit ⟨0, 0, 5, 0, 0, 0⟩
/-- A port that is up, with one flit to replay. -/
def port0 : Port := { Port.init with up := true, trained := true, txNext := 6, txAck := 5, replay := [flit0], sinceAudit := 4096 }
/-- A read request without data, for package 1. -/
def msg0 : LinkMsg := { vc := 0, kind := 1, dest := 1, addr := 0x30000, base := 0, data := 0, sent := 0, body := [] }

/-- LinksAndRouters: the flit passes its check, and one with another CRC does not, whatever the CRC is. -/
theorem test_meets_flit : crcPasses flit0 = true ∧ crcPasses { flit0 with crc := flit0.crc + 1 } = false ∧ flit0.seq = 5 := by
  have h : controlOf { flit0 with crc := flit0.crc + 1 } = controlOf flit0 := rfl
  refine ⟨by simp [crcPasses, flit0, sealFlit, controlOf], ?_, rfl⟩
  simp only [crcPasses, h, Bool.and_eq_false_iff, decide_eq_false_iff_not]
  exact .inr (fun e => absurd e (by simp [flit0, sealFlit, controlOf]))

/-- LinksAndRouters: a flit that is no control flit, and an audit. -/
theorem test_meets_flitSays : flitSays { flit0 with vc := 1 } 0 2 = none ∧ ∃ i, flitSays { flit0 with kind := MsgKind.audit.wire } 0 2 = some i := by
  simp [flitSays, controlKind, flit0, sealFlit]

/-- LinksAndRouters: a port that is up; a sequence number in its replay buffer, one that is not, the next; a router whose wake waits. -/
theorem test_meets_LinksAndRouters :
    let s := (stand (grp 1 t5)).modPkg 0 (fun p => { p with ports := [(2, port0)] })
    s.portUp 0 2 = true ∧ (s.pkg? 0).isSome = true ∧ 5 ≠ port0.txNext ∧ port0.replay.findIdx? (fun f => decide (f.seq = 5)) = some 0 ∧
    port0.replay.findIdx? (fun f => decide (f.seq = 4)) = none ∧ port0.replaying = false ∧ port0.lost = [] ∧
    seqAhead port0.txAck 6 ≤ seqAhead port0.txAck port0.txNext ∧ port0.queue = [] ∧ msg0.control = false ∧ port0.sinceAudit = 4096 ∧ Port.init.sinceAudit < 4096 ∧
    ({ port0 with queue := [msg0] }.queue = [msg0] ∧ msg0.data ≤ msg0.sent ∧ port0.txAck < 65536 ∧ 0 < [1, 0, 0, 0].getD msg0.vc 0 ∧
      seqAhead port0.txAck port0.txNext < 512 ∧ 512 ≤ seqAhead port0.txAck { port0 with txNext := 517 }.txNext) ∧ Instr.routerWake 0 70 ∈ { s with agenda := [.routerWake 0 70] }.agenda ∧
    Instr.routerWake 0 70 ∉ s.agenda ∧ Instr.routerWake 0 70 ∉ s.inbox := by decide +kernel

/-- ControlCommands: a control page that is open, busy, closed; addresses that are aligned and not; a block in memory that is good; a
domain root; another package. -/
theorem test_meets_ControlCommands :
    let s := armed 0x1000 0 (stand (grp 1 t5))
    let busy := (stand (grp 1 t5)).modPkg 0 (fun p => { p with ctl := [(0, { Ctl.init with busy := true })] })
    let m := memWrite s.gmem 0x40200 (leBytes 8 (2 ^ 48 + 2 ^ 32))
    let b := readBlock { s with gmem := m } 0x40200 none
    s.barOpen 0 = true ∧ ((s.pkgD 0).ctlOf 0).busy = false ∧ ((busy.pkgD 0).ctlOf 0).busy = true ∧ State.reset.barOpen 0 = false ∧
    0 ∈ s.upPkgs ∧ 0x1000 % 512 = 0 ∧ (0x1001 % 512 ≠ 0) ∧ s.block? 0 0x40200 = none ∧ (b.level, b.parent, b.child, b.sibling) = (0, 0, 0, 0) ∧
    (s.pkgD 0).owns 0 b.regid = true ∧ s.domainRoot 0 0x1000 = 0x1000 ∧ (s.block? 0 0x1000).map (·.state) = some 1 ∧ (paging 3 0 true).alive 1 = true := by
  decide +kernel

/-- HostAccess: a doorbell of the loaded leaf, malformed ones, a device-fed queue; a page with a master and one without; a series that
runs; a trace ring. -/
theorem test_meets_HostAccess :
    let s := queued (ringCtl 0) 0 []
    s.leafOf 0 1 = some 0x1000 ∧ s.leafOf 0 2 = none ∧ 8 % 8 = 0 ∧ 4 % 8 ≠ 0 ∧ (s.pkgD 0).owns 0 (s.tenantId 0 0x1000) = true ∧
    (s.pkgD 0).owns 3 (s.tenantId 0 0x1000) = false ∧ (s.readQueue 0 0x1000 0).2.devfed = false ∧
    ((queued (ringCtl 1) 0 []).readQueue 0 0x1000 0).2.devfed = true ∧ s.windowAddr 0 0 0x10010 = 0x10010 ∧ s.masterOf 1 = some 0 ∧
    s.trrdBuffer 0x10010 8 = none ∧ (s.pkgD 0).hostQ = [] ∧ (s.pkgD 0).hostSeen = [] ∧ bare s = true ∧
    ((s.modPkg 0 (fun k => { k with hostQ := [(3, .doorbell 0 8 0)] })).pkgD 0).hostQ ≠ [] ∧ s.masterOf 9 = none ∧
    (let l : Latch := ⟨1, 10, 1, 0, [5]⟩
     { Series.init with k := 10, size := 4096, latches := [l] }.latches = [l] ∧ l.bytes.length < 4096 ∧ 8 ≤ l.bytes.length) ∧
    (s.modPkg 0 (fun p => { p with blocks := [(0x1000, { loadBlock with trbase := 0x60000, trblocks := 3 })] })).effTrace 0 0x1000 = (0x60000, 3) := by
  decide +kernel

/-- A mailbox that names the loaded group, with every permission. -/
def debug0 (f : Machine.Group → Machine.Group) : State :=
  (stand (f (grp 1 t5))).modPkg 0 (fun p => { p with
    blocks := [(0x1000, { loadBlock with dbgperm := 0x7F })]
    mbox := [(0, { Mbox.init with launchid := 1, regid := 1, dmbase := 0x40000, dmblocks := 1000, gpn := 9 })] })
/-- The group halted. -/
def halted (g : Machine.Group) : Machine.Group := { g with stop := some ⟨1, [], 0, some 0, [0]⟩, stopped := true }

/-- DebugCommands: outside READY, BUSY and neither; a target, and none; permissions, and none; a running, a halted and a draining
group; a dump area that is large enough. -/
theorem test_meets_DebugCommands :
    let s := debug0 id
    let m := (s.pkgD 0).mboxOf 0
    let h := debug0 halted
    (s.pkg? 0).isSome = true ∧ (s.pkgD 0).lost = false ∧ (s.pkgD 0).boot.phase = 3 ∧ (State.reset.pkgD 0).boot.phase ≠ 3 ∧ m.busy = false ∧
    (s.target 0 m).map (·.1) = some 1 ∧ s.target 0 { m with gidx := 4 } = none ∧ (s.regBlock 0 1).map (·.1) = some 0x1000 ∧ s.regBlock 0 2 = none ∧
    m.att = false ∧ (∀ i, i < 7 → (s.effDbg 0 0x1000).getLsbD i = true) ∧ ((stand (grp 1 t5)).effDbg 0 0x1000).getLsbD 0 = false ∧
    (h.group? 1).map (fun g => (g.stopped, g.frozen, g.stepT)) = some (true, false, none) ∧
    (s.group? 1).map (fun g => (g.stopped, g.stop)) = some (false, none) ∧ (t5.park, t5.wait, t5.log) = (none, .none, []) ∧
    h.dumpAllowed 0 0 4176 m = true ∧ 4176 ≤ m.dmblocks * 4096 ∧ (grp 1 t5).itemBytes ≤ m.dmblocks * 4096 ∧ h.masterOf 9 = none ∧
    ((s.modPkg 0 (fun p => { p with blocks := [(0x1000, { loadBlock with dbgperm := 0x7F, held := true })] })).regBlock 0 1).map (·.2.held) = some true ∧
    ((s.pkgD 0).mboxOf mctpFn).busy = false ∧ (h.group? 1).bind (fun g => g.stop.bind (·.fn)) ≠ some (0 + contFn) ∧
    s.pageOwner 9 = none ∧ bare h = true := by decide +kernel

/-- DebugCommands, HALT REGION: a region whose one leaf grants it, and one whose leaf has its own permissions, with bit 0 clear. -/
theorem test_meets_HaltRegion :
    let tree (perm : BitVec 8) : State := (debug0 id).modPkg 0 (fun p => { p with
      blocks := [(0x1000, { loadBlock with parent := 0x2000, level := 1, ovr := 0x100, dbgperm := perm, domroot := false }),
        (0x2000, { loadBlock with leaf := false, child := 0x1000, dbgperm := 0x7F })] })
    let regions (perm : BitVec 8) : List (Bool × Bool) :=
      ((tree perm).resident 0).map (fun e => ((tree perm).inSubtree 0 e.2.leaf 0x2000, ((tree perm).effDbg 0 e.2.leaf).getLsbD 0))
    regions 0x7F = [(true, true)] ∧ regions 0x7E = [(true, false)] ∧ ((tree 0x7E).effDbg 0 0x2000).getLsbD 0 = true ∧
    ((tree 0x7F).block? 0 0x2000).map (·.held) = some false := by decide +kernel

/-- StopsReported: a group asked to halt that stands at a boundary; slots of a package that is READY. -/
theorem test_meets_StopsReported :
    let s := debug0 (fun g => { g with stop := some ⟨1, [], 0, some 0, [0]⟩ })
    let w := debug0 (fun g => { g with stop := some ⟨1, [], 0, some 0, [0]⟩, stepWait := true })
    (s.group? 1).map (fun g => (g.stop, g.stopped)) = some (some ⟨1, [], 0, some 0, [0]⟩, false) ∧ ((s.pkgD 0).mboxOf 0).shown = none ∧
    (s.effDbg 0 0x1000).getLsbD 7 = false ∧ ((s.modCore 0 0 (fun c => { c with open_ := false })).coreOf 0 0).open_ = false ∧
    w.groups.length = 1 ∧ ((s.pkgD 0).mboxOf 0).dop ≠ 2 ∧ (grp 1 t5).threads.map (·.exited) = [false] ∧ (s.pkgD 0).ready = true ∧ s.slotFits 0 true 1 = true ∧
    ((s.modPkg 0 (fun p => { p with mbox := [(0, { Mbox.init with bp := (List.range 8).flatMap (fun i => [(2 * i, 2 ^ 63), (2 * i + 1, 2 ^ 48)]) })] })).slotFits 0 true 1 = false) := by
  decide +kernel

/-- SHA3-256 of the three bytes "abc", as its standard's published example gives it. -/
theorem test_sha3_abc : sha3 [0x61, 0x62, 0x63] = 0x3215431145E2BF465B529D3E6E085F85BD90D36B2D175C04B225E24FA75D983A#256 := by decide +kernel

/-- BootPhases: a package without power, and one in each phase; an attestation request that waits. -/
theorem test_meets_BootPhases :
    let at_ (n : Nat) : State := State.reset.modPkg 0 (fun p => { p with boot := { p.boot with powered := true, phase := n } })
    (State.reset.pkgD 0).boot.powered = false ∧ (at_ 0).inPhase 0 0 = true ∧ (at_ 1).inPhase 0 1 = true ∧ (at_ 2).inPhase 0 2 = true ∧
    ((at_ 1).pkgD 0).boot.powered = true ∧ ((at_ 1).pkgD 0).boot.phase ≠ 0 ∧ (0 : Nat) < 4096 ∧
    UnitFail.inPart ⟨2, 1, 3⟩ = true ∧ [(⟨3, 1, 3⟩ : UnitFail)].all UnitFail.ofSelftest = true := by decide

/-- Power on, image, repair and self-test: READY (R286). -/
theorem test_boot :
    let s := nextOf (exec (.powerGood 0) State.reset)
    let s := nextOf (exec (.imagePhaseEnd 0 true true 3 4 [1] [2]) s)
    let s := nextOf (exec (.repairPhaseEnd 0 none ⟨[], [⟨1, 3, 5⟩], []⟩) s)
    let s := nextOf (exec (.selftestEnd 0 []) s)
    (s.pkgD 0).boot.phase = 3 ∧ (s.pkgD 0).boot.imgver = 4 ∧ s.barOpen 0 = true := by decide

/-- PowerTimeAndErrors: readings above and below the limits, a low time of 100 µs; holdover and not; a line of a page that is here with
a code of 4; a live thread. -/
theorem test_meets_PowerTimeAndErrors :
    let s := stand (grp 1 t5)
    3600 < 3601 ∧ ¬ (3600 < 3400) ∧ (0 : Nat) / 10000 < 10000 / 10000 ∧ ¬ (10000 : Nat) / 10000 < 19999 / 10000 ∧ (1 ≤ 1 ∧ 2 ≤ 2) ∧ (0 : Nat) + 100000 ≤ 100000 ∧ (s.pkg? 0).isSome = true ∧ (s.pkgD 0).boot.powered = true ∧
    (s.pkgD 0).holdover = false ∧ (s.pkgD 0).pageState (512 / 512) ≠ 0 ∧ 4 ≤ ((s.modMeta 0x10000 (fun m => { m with cmp := 4 })).lineMeta (128 * 512)).cmp ∧
    (s.pkgD 0).frac < 256 ∧ (s.pkgD 0).timebase + 2 * 5 + 2 < 2 ^ 64 ∧ (s.thread? k0).map (·.exited) = some false := by decide +kernel

/-- DecodeAndEncodeAgree: an instruction word that is well formed. RoundingAndSpecialValues: a grid of more than one step, a significand
that is not zero, a tie. ListedWords and ResetAndStart have no hypothesis. -/
theorem test_meets_DecodeAndEncodeAgree : (Instr.iadd 5 6 7).wf = true ∧ isStep (.iadd 5 6 7) = false ∧
    roundGrid false 6 0 false 2 0 0 = (2, true) ∧ roundGrid false 7 0 false 2 0 0 = (2, true) ∧ roundGrid false 7 0 false 2 1 0 = (1, true) ∧ (7 : Nat) ≠ 0 := by decide

/-- StepRunsInstruction: the loaded machine's plan is to let the thread issue its word, which decodes; EveryStepKeepsMemory: its memory has
the canonical form. -/
theorem test_meets_StepRunsInstruction :
    let s := State.reset.withFetchWord 32 iaddW.toNat
    s.turn = .issue ∧ s.issuer = some (0, 0) ∧ (s.coreOf 0 0).bundles = [⟨0x10000, [⟨1, 0⟩], none⟩] ∧ (s.coreOf 0 0).open_ = true ∧
    (match s.plan with | .issue i .. => decide (i = .iadd 5 6 7) | _ => false) = true ∧
    (∃ u, step s = .next u) ∧ State.reset.MemWf := by
  refine ⟨by decide, by decide +kernel, by decide +kernel, by decide +kernel, by decide +kernel, next_of (by decide +kernel), ⟨rfl, rfl, rfl⟩⟩


end Sys2Proof.Tests
end

section
/-! SUPPORT. The accesses that the part makes of memory for itself (R162): what they leave alone in every state, and what they do where
no cache stands between the part and its memory (`State.Uncached`): reads answer memory's bytes, writes store theirs. -/

namespace Sys2Proof.Machine

/-! ## Folds, maps, packages -/

theorem foldl_keeps {σ α β : Type} (g : σ → β) {f : σ → α → σ} (h : ∀ q x, g (f q x) = g q) (l : List α) (q : σ) :
    g (l.foldl f q) = g q := by
  induction l generalizing q with
  | nil => rfl
  | cons x l ih => rw [List.foldl_cons, ih, h]

theorem SMap.mem_of_find? {V : Type} {m : SMap V} {j : Nat} {v : V} (h : SMap.find? m j = some v) : (j, v) ∈ m := by
  induction m with
  | nil => cases h
  | cons x m ih =>
    obtain ⟨k, w⟩ := x
    simp only [SMap.find?] at h
    split at h
    · subst_vars; cases h; exact .head _
    · exact .tail _ (ih h)

theorem SMap.mem_put {V : Type} {m : SMap V} {j : Nat} {v : V} {x : Nat × V} (h : x ∈ SMap.put m j v) : x = (j, v) ∨ x ∈ m := by
  induction m with
  | nil => simpa [SMap.put] using h
  | cons y m ih =>
    obtain ⟨k, w⟩ := y
    simp only [SMap.put] at h
    split at h
    · rcases List.mem_cons.1 h with h | h
      · exact .inl h
      · exact .inr (.tail _ h)
    · split at h
      · exact List.mem_cons.1 h
      · rcases List.mem_cons.1 h with rfl | h
        · exact .inr (.head _)
        · exact (ih h).imp_right (.tail _)

theorem SMap.mem_modify {V : Type} {m : SMap V} {j : Nat} {f : V → V} {x : Nat × V} (h : x ∈ SMap.modify m j f) :
    x ∈ m ∨ ∃ v, (j, v) ∈ m ∧ x = (j, f v) := by
  induction m with
  | nil => cases h
  | cons y m ih =>
    obtain ⟨k, w⟩ := y
    simp only [SMap.modify] at h
    split at h
    · subst_vars
      rcases List.mem_cons.1 h with rfl | h
      · exact .inr ⟨w, .head _, rfl⟩
      · exact .inl (.tail _ h)
    · rcases List.mem_cons.1 h with rfl | h
      · exact .inl (.head _)
      · exact (ih h).imp (.tail _) (fun ⟨v, hv, e⟩ => ⟨v, .tail _ hv, e⟩)

theorem State.known_modPkg (s : State) (p : Nat) (f : Pkg → Pkg) (x : Nat) : ((s.modPkg p f).pkg? x).isSome = (s.pkg? x).isSome := by
  rw [State.pkg?_modPkg]
  split
  · subst_vars; simp
  · rfl

/-- What a change of a package keeps of it, it keeps of every package. -/
theorem State.pkgD_modPkg_keeps {α : Type} (g : Pkg → α) {f : Pkg → Pkg} (h : ∀ q, g (f q) = g q) (s : State) (p x : Nat) :
    g ((s.modPkg p f).pkgD x) = g (s.pkgD x) := by
  simp only [State.pkgD, State.pkg?_modPkg]
  split
  · subst_vars; cases s.pkg? x <;> simp [h]
  · rfl

theorem State.pkgD_modPkg_known {s : State} {p : Nat} (h : (s.pkg? p).isSome = true) (f : Pkg → Pkg) :
    (s.modPkg p f).pkgD p = f (s.pkgD p) := by
  obtain ⟨q, hq⟩ := Option.isSome_iff_exists.1 h
  simp [State.pkgD, State.pkg?_modPkg, hq]

theorem State.mem_agenda_laterOnce (s : State) (e i : Instr) : i ∈ (s.laterOnce e).agenda ↔ i = e ∨ i ∈ s.agenda := by
  unfold State.laterOnce
  split
  · exact ⟨.inr, fun h => h.elim (fun e => e ▸ ‹_›) id⟩
  · simp [State.later, or_comm]

/-! ## What an access leaves alone -/

/-- A package without what an access of memory may change of it: caches, frame tags, link ports, counters. -/
def Pkg.steady (q : Pkg) : Pkg := { q with cores := [], slices := [], frames := [], ports := [], counters := [] }

/-- Groups, host memory and the packages, but for what `Pkg.steady` leaves out, are as before. -/
structure State.Aside (s u : State) : Prop where
  groups : u.groups = s.groups
  hmem : u.hmem = s.hmem
  known : ∀ p, (u.pkg? p).isSome = (s.pkg? p).isSome
  steady : ∀ p, (u.pkgD p).steady = (s.pkgD p).steady

theorem State.Aside.refl (s : State) : s.Aside s := ⟨rfl, rfl, fun _ => rfl, fun _ => rfl⟩

theorem State.Aside.trans {s u w : State} (h : s.Aside u) (k : u.Aside w) : s.Aside w :=
  ⟨k.groups.trans h.groups, k.hmem.trans h.hmem, fun p => (k.known p).trans (h.known p), fun p => (k.steady p).trans (h.steady p)⟩

theorem State.Aside.of_parts {s u : State} (hg : u.groups = s.groups) (hh : u.hmem = s.hmem) (hp : u.pkgs = s.pkgs) : s.Aside u := by
  refine ⟨hg, hh, fun p => ?_, fun p => ?_⟩ <;> simp only [State.pkgD, State.pkg?, hp]

theorem State.Aside.modPkg (s : State) (p : Nat) {f : Pkg → Pkg} (h : ∀ q, (f q).steady = q.steady) : s.Aside (s.modPkg p f) :=
  ⟨rfl, rfl, s.known_modPkg p f, s.pkgD_modPkg_keeps Pkg.steady h p⟩

theorem State.Aside.foldl {α : Type} {f : State → α → State} (h : ∀ (s : State) x, s.Aside (f s x)) (l : List α) (s : State) :
    s.Aside (l.foldl f s) := by
  induction l generalizing s with
  | nil => exact .refl s
  | cons x l ih => exact (h s x).trans (ih _)

/-- A field of a package that `Pkg.steady` holds. -/
theorem State.Aside.keeps {α : Type} (g : Pkg → α) {s u : State} (h : s.Aside u) (p : Nat) (hg : ∀ q, g q.steady = g q := by intro; rfl) :
    g (u.pkgD p) = g (s.pkgD p) := by
  rw [← hg, h.steady, hg]

/-! ## States without cached data -/

theorem State.Uncached.of_parts {s u : State} (h : s.Uncached) (hp : u.pkgs = s.pkgs) (hi : s.wbs = [] → u.wbs = [])
    (hc : u.pageCmp = s.pageCmp) : u.Uncached := by
  obtain ⟨holders, wbs, codes, proxies⟩ := h
  exact ⟨fun m p d ga => by rw [← holders m p d ga]; simp only [State.holders, hp], hi wbs,
    fun g c hg => codes g c (hc ▸ hg), fun q k hq => proxies q k (hp ▸ hq)⟩

/-- A change of a package that leaves its L1s alone and puts no line into a proxy. -/
theorem State.Uncached.modPkg {s : State} (h : s.Uncached) (p : Nat) {f : Pkg → Pkg} (hc : ∀ q, (f q).cores = q.cores)
    (hs : ∀ q l, l ∈ (f q).slices → l.kind = 1 → l ∈ q.slices) : (s.modPkg p f).Uncached := by
  obtain ⟨holders, wbs, codes, proxies⟩ := h
  refine ⟨fun m e d ga => ?_, wbs, codes, fun q k hq l hl hk => ?_⟩
  · have hs := holders m e d ga
    simp only [State.holders, List.flatMap_eq_nil_iff] at hs ⊢
    intro x hx
    rcases SMap.mem_modify hx with hx | ⟨w, hw, rfl⟩
    · exact hs x hx
    · simpa only [hc] using hs _ hw
  · rcases SMap.mem_modify hq with hq | ⟨w, hw, e⟩
    · exact proxies q k hq l hl hk
    · cases e
      exact proxies p w hw l (hs w l hl hk) hk

theorem State.Uncached.clean {s : State} (h : s.Uncached) {p : Nat} {l : SliceLine} (hl : l ∈ (s.pkgD p).slices) (hk : l.kind = 1) :
    l.dirty = 0 := by
  obtain ⟨-, -, -, proxies⟩ := h
  cases hp : s.pkg? p with
  | none => rw [State.pkgD, hp] at hl; cases hl
  | some q => rw [State.pkgD, hp] at hl; exact proxies p q (SMap.mem_of_find? hp) l hl hk

/-- Of memory and its tags nothing changes, and caches stay empty. -/
structure State.Quiet (s u : State) : Prop extends State.Aside s u where
  gmem : u.gmem = s.gmem
  tags : ∀ a, u.tagAt a = s.tagAt a
  calm : s.Uncached → u.Uncached

theorem State.Quiet.refl (s : State) : s.Quiet s := ⟨.refl s, rfl, fun _ => rfl, id⟩

theorem State.Quiet.trans {s u w : State} (h : s.Quiet u) (k : u.Quiet w) : s.Quiet w :=
  ⟨h.toAside.trans k.toAside, k.gmem.trans h.gmem, fun a => (k.tags a).trans (h.tags a), fun c => k.calm (h.calm c)⟩

theorem State.Quiet.modPkg (s : State) (p : Nat) {f : Pkg → Pkg} (hst : ∀ q, (f q).steady = q.steady) (hc : ∀ q, (f q).cores = q.cores)
    (hs : ∀ q l, l ∈ (f q).slices → l.kind = 1 → l ∈ q.slices) : s.Quiet (s.modPkg p f) :=
  ⟨.modPkg s p hst, rfl, fun _ => rfl, fun h => h.modPkg p hc hs⟩

theorem State.Quiet.count (s : State) (p : Nat) (c : Ctr) (inst n : Nat) : s.Quiet (s.count p c inst n) :=
  .modPkg s p (fun _ => rfl) (fun _ => rfl) (fun _ _ h _ => h)

theorem State.Quiet.later (s : State) (e : Instr) : s.Quiet (s.later e) :=
  ⟨.of_parts rfl rfl rfl, rfl, fun _ => rfl, fun h => h.of_parts rfl id rfl⟩

theorem State.Quiet.laterOnce (s : State) (e : Instr) : s.Quiet (s.laterOnce e) := by
  unfold State.laterOnce
  split
  · exact .refl s
  · exact .later s e

theorem State.Quiet.foldl {α : Type} {f : State → α → State} (h : ∀ (s : State) x, s.Quiet (f s x)) (l : List α) (s : State) :
    s.Quiet (l.foldl f s) := by
  induction l generalizing s with
  | nil => exact .refl s
  | cons x l ih => exact (h s x).trans (ih _)

theorem State.Quiet.sameBytes {s u : State} (h : s.Quiet u) : SameBytes s u := by
  refine ⟨fun a => ?_, fun a => by rw [h.hmem], fun x j o => ?_⟩
  · simp only [State.gbyte, h.gmem]
  · simp only [State.sbytes, State.share?, State.group?, h.groups]

/-! ## Messages over the links -/

theorem State.Quiet.modPort (s : State) (p n : Nat) (f : Port → Port) : s.Quiet (s.modPort p n f) :=
  .modPkg s p (fun _ => rfl) (fun _ => rfl) (fun _ _ h _ => h)

theorem State.Quiet.pumpFor (n p port : Nat) (s : State) : s.Quiet (State.pumpFor n p port s) := by
  induction n generalizing s with
  | zero => exact .refl s
  | succ n ih =>
    simp only [State.pumpFor]
    split
    · exact .refl s
    · split
      · exact .refl s
      · exact (Quiet.modPort s p port _).trans (ih _)

theorem State.Quiet.pump (s : State) (p port : Nat) : s.Quiet (s.pump p port) := by
  unfold State.pump
  split
  · exact .refl s
  · simp only
    split
    · exact (Quiet.pumpFor 512 p port s).trans (.laterOnce _ _)
    · exact .pumpFor 512 p port s

theorem State.Quiet.sendMsg (s : State) (p dest vc : Nat) (kind : MsgKind) (addr base data : Nat) :
    s.Quiet (s.sendMsg p dest vc kind addr base data) := by
  unfold State.sendMsg
  split
  · exact .refl s
  · exact (Quiet.modPort s p _ _).trans (.pump _ _ _)

theorem State.Quiet.sendLine (s : State) (p q ga : Nat) (write : Bool) : s.Quiet (s.sendLine p q ga write) := by
  unfold State.sendLine
  split <;> exact (Quiet.sendMsg s p q _ _ _ _ _).trans (.sendMsg _ _ _ _ _ _ _ _)

theorem State.Quiet.mirrorWrite (s : State) (ga : Nat) : s.Quiet (s.mirrorWrite ga) := by
  unfold State.mirrorWrite
  split
  · exact .sendMsg s _ _ _ _ _ _ _
  · exact .refl s

/-! ## Frame tags (R139, R140) -/

/-- What a change of a frame keeps of a package, the ageing of its set keeps. -/
theorem Pkg.recent_keeps {α : Type} (g : Pkg → α) (h : ∀ p n t, g (Pkg.setFrame p n t) = g p) (p : Pkg) (f n : Nat) :
    g (p.recent f n) = g p := by
  unfold Pkg.recent Pkg.modFrame
  rw [h]
  refine foldl_keeps g (fun q w => ?_) _ p
  simp only
  split
  · exact h _ _ _
  · rfl

theorem State.Quiet.recent (s : State) (p f n : Nat) : s.Quiet (s.modPkg p (fun q => q.recent f n)) :=
  .modPkg s p (fun q => q.recent_keeps Pkg.steady (fun _ _ _ => rfl) f n) (fun q => q.recent_keeps Pkg.cores (fun _ _ _ => rfl) f n)
    (fun q _ hl _ => q.recent_keeps Pkg.slices (fun _ _ _ => rfl) f n ▸ hl)

theorem State.Quiet.modFrame (s : State) (p n : Nat) (f : FrameTag → FrameTag) : s.Quiet (s.modPkg p (fun q => q.modFrame n f)) :=
  .modPkg s p (fun _ => rfl) (fun _ => rfl) (fun _ _ h _ => h)

theorem State.Quiet.touchPage (s : State) (p q die g : Nat) (write late : Bool) : s.Quiet (s.touchPage p q die g write late) := by
  have used (t : State) (h : s.Quiet t) : s.Quiet (match (t.pkgD q).frameOf g with
      | none => t
      | some f => t.modPkg q (fun k => k.recent f g)) := by
    split
    · exact h
    · exact h.trans (.recent t q _ g)
  unfold State.touchPage
  cases (s.pkgD p).frameOf g with
  | none => exact used s (.refl s)
  | some f => exact used _ (.modFrame s p f _)

theorem State.Quiet.newItem (s : State) (i : Item) (h : ∀ w, i ≠ .wb w) : s.Quiet (s.newItem i).1 := by
  refine ⟨.of_parts rfl rfl rfl, rfl, fun _ => rfl, fun c => c.of_parts rfl (fun none => ?_) rfl⟩
  simp only [State.newItem, State.wbs, List.filterMap_eq_nil_iff] at none ⊢
  intro x hx
  rcases SMap.mem_put hx with rfl | hx
  · cases i <;> simp_all
  · exact none x hx

theorem State.Quiet.switchDue (s : State) (m g : Nat) : s.Quiet (s.switchDue m g) := by
  unfold State.switchDue
  split
  · exact .refl s
  · simp only
    split
    · exact .refl s
    · exact (Quiet.newItem s _ (fun _ h => by cases h)).trans (.later _ _)

theorem State.Quiet.pkgTouch (s : State) (p die ga : Nat) (write : Bool) : s.Quiet (s.pkgTouch p die ga write) := by
  simp only [State.pkgTouch]
  generalize (if (s.pkgD p).pageState (ga / 65536) = 0 then _ else _) = q
  have touched : s.Quiet (s.touchPage q p die (ga / 65536) write false) := .touchPage s q p die _ write false
  split
  · exact touched
  · refine (touched.trans ?_).trans (.sendLine _ _ _ _ _)
    split
    · exact .switchDue _ _ _
    · exact .refl _

/-! ## Line metadata -/

theorem State.lineMeta_modMeta (s : State) (a : Nat) (f : LineMeta → LineMeta) (x : Nat) :
    (s.modMeta a f).lineMeta x = if x / 128 = a / 128 then f (s.lineMeta a) else s.lineMeta x :=
  SMap.get_set s.lmeta LineMeta.init (x / 128) (a / 128) _

theorem State.Aside.modMeta (s : State) (a : Nat) (f : LineMeta → LineMeta) : s.Aside (s.modMeta a f) := .of_parts rfl rfl rfl

/-- A change of a line's metadata that leaves its TAG bits alone. -/
theorem State.Quiet.modMeta (s : State) (a : Nat) {f : LineMeta → LineMeta} (h : ∀ m, (f m).tag = m.tag) : s.Quiet (s.modMeta a f) := by
  refine ⟨.modMeta s a f, rfl, fun x => ?_, fun c => c.of_parts rfl id rfl⟩
  simp only [State.tagAt, State.lineMeta_modMeta]
  split
  · rw [h, State.lineMeta, State.lineMeta, ‹x / 128 = _›]
  · rfl

theorem State.tagAt_congr (s : State) {a b : Nat} (h : a / 8 = b / 8) : s.tagAt a = s.tagAt b := by
  have line : a / 128 = b / 128 := by omega
  simp only [State.tagAt, State.lineMeta, line, h]

theorem State.tagAt_setTag_false (s : State) (ga a : Nat) : (s.setTag ga false).tagAt a = (s.tagAt a && !decide (a / 8 = ga / 8)) := by
  simp only [State.tagAt, State.setTag, State.lineMeta_modMeta]
  by_cases line : a / 128 = ga / 128
  · have lt : a / 8 % 16 < 16 := Nat.mod_lt _ (by omega)
    have word : a / 8 = ga / 8 ↔ a / 8 % 16 = ga / 8 % 16 := by omega
    have same : s.lineMeta a = s.lineMeta ga := by simp only [State.lineMeta, line]
    simp only [if_pos line, same, word]
    generalize a / 8 % 16 = i at lt
    generalize ga / 8 % 16 = j
    simp only [Bool.false_eq_true, if_false, BitVec.getLsbD_and, BitVec.getLsbD_not, BitVec.getLsbD_shiftLeft, BitVec.getLsbD_one, lt, decide_true,
      Bool.true_and]
    congr 2
    by_cases e : i = j
    · subst e; simp
    · simp [e]; omega
  · have word : ¬ a / 8 = ga / 8 := by omega
    simp [if_neg line, word]

/-- Clearing the tags of a run of bytes (R201): of the words that it touches, and of no other. -/
theorem State.tagAt_clearTags (s : State) (ga n a : Nat) :
    (s.clearTags ga n).tagAt a = (s.tagAt a && !decide (ga / 8 ≤ a / 8 ∧ a / 8 < ga / 8 + (ga % 8 + n + 7) / 8)) := by
  unfold State.clearTags
  induction (ga % 8 + n + 7) / 8 with
  | zero =>
    have none : ¬ (ga / 8 ≤ a / 8 ∧ a / 8 < ga / 8 + 0) := by omega
    rw [decide_eq_false none]
    exact (Bool.and_true _).symm
  | succ k ih =>
    rw [List.range_succ, List.foldl_append, List.foldl_cons, List.foldl_nil]
    generalize (List.range k).foldl _ s = t at ih
    have step : (if t.tagAt (ga + 8 * k) then t.setTag (ga + 8 * k) false else t).tagAt a =
        (t.tagAt a && !decide (a / 8 = (ga + 8 * k) / 8)) := by
      split
      · exact t.tagAt_setTag_false _ _
      · by_cases e : a / 8 = (ga + 8 * k) / 8
        · simp [t.tagAt_congr e, *]
        · simp [e]
    rw [step, ih, Bool.and_assoc, ← Bool.not_or, ← Bool.decide_or]
    congr 3
    apply propext
    omega

/-- Of a state, clearing tags changes nothing but line metadata. -/
theorem State.clearTags_keeps {α : Type} (g : State → α) (h : ∀ t a f, g (State.modMeta t a f) = g t) (s : State) (ga n : Nat) :
    g (s.clearTags ga n) = g s := by
  unfold State.clearTags
  refine foldl_keeps g (fun t i => ?_) _ s
  split
  · exact h _ _ _
  · rfl

/-! ## Homes and slices, in every state -/

theorem State.Aside.gpatch (s : State) (ga : Nat) (d : Line) (mask : BitVec 128) : s.Aside (s.gpatch ga d mask) := by
  unfold State.gpatch
  split <;> exact .of_parts rfl rfl rfl

theorem State.Aside.putNibble (s : State) (c : PageCmp) (ga code : Nat) : s.Aside (s.putNibble c ga code) := by
  unfold State.putNibble
  split <;> exact .of_parts rfl rfl rfl

theorem State.Aside.recode (s : State) (ga : Nat) : s.Aside (s.recode ga) := by
  simp only [State.recode, State.putCode]
  split
  · exact .trans (.putNibble _ _ _ _) (.modMeta _ _ _)
  · split
    · exact .refl s
    · exact .modMeta _ _ _

theorem State.Aside.homeStore (s : State) (ga : Nat) (d : Line) (mask : BitVec 128) : s.Aside (s.homeStore ga d mask) :=
  (Aside.gpatch s ga d mask).trans ((Aside.recode _ ga).trans (Quiet.mirrorWrite _ ga).toAside)

theorem State.Aside.sliceRoom (s : State) (p slice ga : Nat) : s.Aside (s.sliceRoom p slice ga) := by
  simp only [State.sliceRoom]
  split
  · exact .refl s
  · split
    · exact .refl s
    · refine .trans ?_ (.modPkg _ p (fun _ => rfl))
      split
      · exact .homeStore _ _ _ _
      · exact .refl s

theorem State.Aside.slicePut (s : State) (p : Nat) (l : SliceLine) (stream : Bool) : s.Aside (s.slicePut p l stream) := by
  unfold State.slicePut
  split
  · exact .modPkg s p (fun _ => rfl)
  · exact .trans (.sliceRoom s p _ _) (.modPkg _ p (fun _ => rfl))

theorem State.Aside.decodeLine (s : State) (ga : Nat) : s.Aside (s.decodeLine ga) := by
  simp only [State.decodeLine]
  split
  · exact .refl s
  · split
    · exact .refl s
    · exact .trans (.gpatch _ _ _ _) (.modMeta _ _ _)

theorem State.Aside.slicePass (s : State) (q ga chain : Nat) (stream : Bool) : s.Aside (s.slicePass q ga chain stream) := by
  simp only [State.slicePass]
  refine .trans ?_ (.slicePut _ q _ stream)
  split
  · exact .refl s
  · exact .trans (.decodeLine s ga) (.modMeta _ _ _)

theorem State.Aside.homePass (s : State) (ga chain : Nat) : s.Aside (s.homePass ga chain) := by
  unfold State.homePass
  split
  · exact .slicePass _ _ _ _ _
  · exact .decodeLine s ga

theorem State.Aside.homeMerge (s : State) (h : HomeAt) (ga : Nat) (d : Line) (mask : BitVec 128) (chain : Nat) :
    s.Aside (s.homeMerge h ga d mask chain) := by
  cases h with
  | mem => exact .trans (.homePass s ga chain) (.homeStore _ ga d mask)
  | proxy p e => exact .slicePut s p _ false

/-! ## Recalls, in every state -/

theorem State.Aside.l1Recall (s : State) (p c : Nat) (l : L1Line) (words : BitVec 32) (inval : Bool) :
    s.Aside (s.l1Recall p c l words inval) := by
  simp only [State.l1Recall]
  refine .trans ?_ (.modPkg _ p (fun _ => rfl))
  split
  · exact .refl s
  · exact .trans (.homeMerge _ _ _ _ _ _) (.of_parts rfl rfl rfl)

theorem State.Aside.wbMerge (s : State) (x : Nat) (w : WriteBack) (words : BitVec 32) : s.Aside (s.wbMerge x w words) := by
  have applied (words : BitVec 32) : s.Aside (s.wbApply w words) := by
    unfold State.wbApply
    split
    · exact .refl s
    · exact .homeMerge _ _ _ _ _ _
  simp only [State.wbMerge]
  split
  · exact .refl s
  · exact (applied _).trans (.of_parts rfl rfl rfl)

theorem State.Aside.wbPass (s : State) (x : Nat) (w : WriteBack) (words : BitVec 32) : s.Aside (s.wbPass x w words) := by
  unfold State.wbPass
  split
  · exact .refl s
  · exact (Aside.wbMerge s x w words).trans (Quiet.count _ _ _ _ _).toAside

/-- The victim replicas of a line leave the slices (R172): no proxy is touched. -/
theorem State.Quiet.dropReplicas (s : State) (p ga : Nat) : s.Quiet (s.dropReplicas p ga) := by
  simp only [State.dropReplicas]
  split
  · exact .refl s
  · refine .trans ?_ (.count _ _ _ _ _)
    exact .modPkg s p (fun _ => rfl) (fun _ => rfl) (fun _ _ h _ => (List.mem_filter.1 h).1)

theorem State.Quiet.dropAllReplicas (s : State) (ga : Nat) : s.Quiet (s.dropAllReplicas ga) :=
  .foldl (fun _ _ => .dropReplicas _ _ _) _ s

theorem State.Aside.recall (s : State) (mtype p d ga : Nat) (words : BitVec 32) (inval : Bool) (keep : Option (Nat × Nat)) :
    s.Aside (s.recall mtype p d ga words inval keep) := by
  simp only [State.recall]
  refine .trans (.trans ?_ (.foldl (fun _ _ => .wbPass _ _ _ _) _ _)) (.foldl (fun _ _ => ?_) _ _)
  · split
    · exact (Quiet.dropAllReplicas s ga).toAside
    · exact .refl s
  · split <;> exact .l1Recall _ _ _ _ _ _

theorem State.Aside.homeWrite (s : State) (ga : Nat) (bs : List Byte) : s.Aside (s.homeWrite ga bs) := by
  have recalled : s.Aside (s.recallAll 0 0 0 ga (wordsOf (ga % 128) bs.length)) :=
    .trans (.recall s _ _ _ _ _ _ _) (.of_parts rfl rfl rfl)
  have stored (t : State) : t.Aside ((t.gput ga bs).clearTags ga bs.length) := by
    refine .of_parts ?_ ?_ ?_ <;> exact State.clearTags_keeps _ (fun _ _ _ => rfl) _ _ _
  exact recalled.trans ((Aside.homePass _ ga 0).trans ((stored _).trans ((Aside.recode _ ga).trans (Quiet.mirrorWrite _ ga).toAside)))

/-- A write of a run of bytes, piece by piece: the state, and the bytes that are left. -/
def State.writePiece (p : Nat) (x : State × List Byte) (c : Nat × Nat) : State × List Byte :=
  ((x.1.pkgTouch p (homeDie c.1) c.1 true).homeWrite c.1 (x.2.take c.2), x.2.drop c.2)

theorem State.partWrite_eq (s : State) (p ga : Nat) (bs : List Byte) :
    s.partWrite p ga bs = ((linePieces (bs.length / 128 + 2) ga bs.length).foldl (State.writePiece p) (s, bs)).1 := rfl

theorem State.Aside.partWrite (s : State) (p ga : Nat) (bs : List Byte) : s.Aside (s.partWrite p ga bs) := by
  rw [State.partWrite_eq]
  generalize linePieces _ _ _ = cs
  induction cs generalizing s bs with
  | nil => exact .refl s
  | cons c cs ih => exact ((Quiet.pkgTouch s p _ _ true).toAside.trans (.homeWrite _ _ _)).trans (ih _ _)

theorem State.Quiet.wbKill (s : State) (mtype p d ga : Nat) (words : BitVec 32) (before : Nat) :
    s.Quiet (s.wbKill mtype p d ga words before) := by
  refine ⟨.of_parts rfl rfl rfl, rfl, fun _ => rfl, fun c => c.of_parts rfl (fun none => ?_) rfl⟩
  simp only [State.wbs, State.wbKill, List.filterMap_eq_nil_iff, List.mem_map] at none ⊢
  rintro _ ⟨⟨x, i⟩, hx, rfl⟩
  have := none (x, i) hx
  cases i <;> simp_all

/-! ## The same where nothing is cached -/

namespace State.Uncached

variable {s : State}

theorem decodeLine_eq (h : s.Uncached) (ga : Nat) : s.decodeLine ga = s := by
  obtain ⟨-, -, codes, -⟩ := h
  simp only [State.decodeLine]
  split
  · rfl
  · simp [codes _ _ ‹_›]

theorem quiet_sliceRoom (h : s.Uncached) (p slice ga : Nat) : s.Quiet (s.sliceRoom p slice ga) := by
  simp only [State.sliceRoom]
  split
  · exact .refl s
  · split
    · exact .refl s
    · rename_i v hv
      have clean : ¬ ((decide (v.kind = 1) && decide (v.dirty ≠ 0)) = true) := by
        have := h.clean (List.mem_filter.1 (List.mem_of_getLast? hv)).1
        simpa using this
      rw [if_neg clean]
      exact .modPkg s p (fun _ => rfl) (fun _ => rfl) (fun _ _ hl _ => (List.mem_filter.1 hl).1)

/-- A home line, which is no proxy's, comes into a slice. -/
theorem quiet_slicePut (h : s.Uncached) (p : Nat) {l : SliceLine} (hl : l.kind = 0) (stream : Bool) : s.Quiet (s.slicePut p l stream) := by
  unfold State.slicePut
  split
  · refine .modPkg s p (fun _ => rfl) (fun _ => rfl) (fun q x hx hk => ?_)
    rcases List.mem_cons.1 hx with rfl | hx
    · exact absurd (hk.symm.trans hl) (by decide)
    · exact (List.mem_filter.1 hx).1
  · refine (h.quiet_sliceRoom p _ _).trans (.modPkg _ p (fun _ => rfl) (fun _ => rfl) (fun q x hx hk => ?_))
    have other : x ≠ l := fun e => absurd (hk.symm.trans (e ▸ hl)) (by decide)
    cases stream <;> simpa [other] using hx

theorem quiet_slicePass (h : s.Uncached) (q ga chain : Nat) (stream : Bool) : s.Quiet (s.slicePass q ga chain stream) := by
  simp only [State.slicePass, h.decodeLine_eq]
  have filled : s.Quiet (if ((s.pkgD q).sliceLine (homeSlice ga) ga 0).isSome = true then s
      else s.modMeta ga (fun m => { m with act := min 15 (m.act + 1) })) := by
    split
    · exact .refl s
    · exact .modMeta s ga (fun _ => rfl)
  exact filled.trans ((filled.calm h).quiet_slicePut q rfl stream)

theorem quiet_homePass (h : s.Uncached) (ga chain : Nat) : s.Quiet (s.homePass ga chain) := by
  unfold State.homePass
  split
  · exact h.quiet_slicePass _ _ _ _
  · rw [h.decodeLine_eq]; exact .refl s

theorem recall_eq (h : s.Uncached) (mtype p d ga : Nat) (words : BitVec 32) (inval : Bool) (keep : Option (Nat × Nat)) :
    s.recall mtype p d ga words inval keep = if inval then s.dropAllReplicas ga else s := by
  obtain ⟨holders, wbs, -, -⟩ := h
  simp [State.recall, holders, wbs]

theorem quiet_recallAll (h : s.Uncached) (mtype p d ga : Nat) (words : BitVec 32) : s.Quiet (s.recallAll mtype p d ga words) := by
  unfold State.recallAll
  rw [h.recall_eq]
  exact .trans (.dropAllReplicas s ga) (.wbKill _ _ _ _ _ _ _)

theorem quiet_recode (h : s.Uncached) (ga : Nat) : s.Quiet (s.recode ga) := by
  have inline : (s.mappingOf ga).side = false := by
    obtain ⟨-, -, codes, -⟩ := h
    unfold State.mappingOf
    cases e : SMap.find? s.pageCmp (ga / 65536) with
    | none => rfl
    | some c => exact codes _ c e
  simp only [State.recode, State.putCode, inline, Bool.false_eq_true, if_false]
  split
  · exact .refl s
  · exact .modMeta s ga (fun _ => rfl)

/-! ## Runs of bytes -/

theorem homeRead_bytes (h : s.Uncached) (ga n : Nat) : s.Quiet (s.homeRead ga n).1 ∧ (s.homeRead ga n).2 = s.gbytes ga n := by
  have passed := h.quiet_homePass ga 0
  simp only [State.homeRead, h.recall_eq, Bool.false_eq_true, if_false]
  exact ⟨passed, by simp only [State.gbytes, passed.gmem]⟩

end State.Uncached

/-- Bytes have been stored from an address on: memory holds them, their tags are clear, and no tag has been set. -/
structure State.Stored (s : State) (ga : Nat) (bs : List Byte) (u : State) : Prop extends State.Aside s u where
  gmem : u.gmem = memWrite s.gmem ga bs
  cleared : ∀ i, i < bs.length → u.tagAt (ga + i) = false
  kept : ∀ a, u.tagAt a = true → s.tagAt a = true
  calm : u.Uncached

theorem State.Stored.nil {s : State} (h : s.Uncached) (ga : Nat) : s.Stored ga [] s :=
  ⟨.refl s, rfl, fun _ hi => absurd hi (Nat.not_lt_zero _), fun _ => id, h⟩

theorem State.Quiet.stored {s t u : State} {ga : Nat} {bs : List Byte} (q : s.Quiet t) (h : t.Stored ga bs u) : s.Stored ga bs u :=
  ⟨q.toAside.trans h.toAside, q.gmem ▸ h.gmem, h.cleared, fun a ha => q.tags a ▸ h.kept a ha, h.calm⟩

theorem State.Stored.quiet {s t u : State} {ga : Nat} {bs : List Byte} (h : s.Stored ga bs t) (q : t.Quiet u) : s.Stored ga bs u :=
  ⟨h.toAside.trans q.toAside, q.gmem.trans h.gmem, fun i hi => (q.tags _).trans (h.cleared i hi), fun a ha => h.kept a (q.tags a ▸ ha),
    q.calm h.calm⟩

theorem memWrite_append (m : SMap Byte) (a : Nat) (bs cs : List Byte) :
    memWrite m a (bs ++ cs) = memWrite (memWrite m a bs) (a + bs.length) cs := by
  induction bs generalizing m a with
  | nil => rfl
  | cons b bs ih => simp only [List.cons_append, memWrite, ih, List.length_cons, Nat.add_assoc, Nat.add_comm 1]

theorem State.Stored.append {s t u : State} {ga : Nat} {bs cs : List Byte} (h : s.Stored ga bs t) (k : t.Stored (ga + bs.length) cs u) :
    s.Stored ga (bs ++ cs) u := by
  refine ⟨h.toAside.trans k.toAside, by rw [memWrite_append, ← h.gmem, k.gmem], fun i hi => ?_, fun a ha => h.kept a (k.kept a ha), k.calm⟩
  rw [List.length_append] at hi
  by_cases first : i < bs.length
  · exact Bool.eq_false_iff.2 (fun on => absurd (k.kept _ on) (by simp [h.cleared i first]))
  · have := k.cleared (i - bs.length) (by omega)
    rwa [show ga + bs.length + (i - bs.length) = ga + i by omega] at this

/-- Bytes put into memory, with the tags of their words cleared. -/
theorem State.Uncached.put_stored {s : State} (h : s.Uncached) (ga : Nat) (bs : List Byte) :
    s.Stored ga bs ((s.gput ga bs).clearTags ga bs.length) := by
  have keeps {α : Type} (g : State → α) (hg : ∀ t a f, g (State.modMeta t a f) = g t) :
      g ((s.gput ga bs).clearTags ga bs.length) = g (s.gput ga bs) := State.clearTags_keeps g hg _ _ _
  refine ⟨.of_parts (keeps State.groups fun _ _ _ => rfl) (keeps State.hmem fun _ _ _ => rfl) (keeps State.pkgs fun _ _ _ => rfl),
    keeps State.gmem fun _ _ _ => rfl, fun i hi => ?_, fun a ha => ?_,
    h.of_parts (keeps State.pkgs fun _ _ _ => rfl) (fun w => (keeps State.wbs fun _ _ _ => rfl).trans w) (keeps State.pageCmp fun _ _ _ => rfl)⟩
  · have inRun : ga / 8 ≤ (ga + i) / 8 ∧ (ga + i) / 8 < ga / 8 + (ga % 8 + bs.length + 7) / 8 := by omega
    simp [State.tagAt_clearTags, inRun]
  · rw [State.tagAt_clearTags, Bool.and_eq_true] at ha
    exact ha.1

theorem State.Uncached.homeWrite_stored {s : State} (h : s.Uncached) (ga : Nat) (bs : List Byte) : s.Stored ga bs (s.homeWrite ga bs) := by
  have recalled := h.quiet_recallAll 0 0 0 ga (wordsOf (ga % 128) bs.length)
  have passed := recalled.trans ((recalled.calm h).quiet_homePass ga 0)
  have stored := passed.stored ((passed.calm h).put_stored ga bs)
  exact stored.quiet ((stored.calm.quiet_recode ga).trans (.mirrorWrite _ ga))

theorem memBytes_add (m : SMap Byte) (a n k : Nat) : memBytes m a (n + k) = memBytes m a n ++ memBytes m (a + n) k := by
  induction n generalizing a with
  | zero => simp [memBytes]
  | succ n ih => rw [Nat.succ_add, memBytes, memBytes, ih, List.cons_append, Nat.add_assoc, Nat.add_comm 1]

/-- A read of a run of bytes, piece by piece: the state, and the bytes so far. -/
def State.readPiece (p : Nat) (x : State × List Byte) (c : Nat × Nat) : State × List Byte :=
  (((x.1.pkgTouch p (homeDie c.1) c.1 false).homeRead c.1 c.2).1, x.2 ++ ((x.1.pkgTouch p (homeDie c.1) c.1 false).homeRead c.1 c.2).2)

theorem State.partRead_eq (s : State) (p ga n : Nat) :
    s.partRead p ga n = (linePieces (n / 128 + 2) ga n).foldl (State.readPiece p) (s, []) := by
  unfold State.partRead
  refine congrArg (fun f => List.foldl f (s, []) (linePieces (n / 128 + 2) ga n)) ?_
  funext x c
  simp only [State.readPiece]

theorem State.Uncached.readPieces {s : State} (h : s.Uncached) (p f ga n : Nat) (hf : n = 0 ∨ ga % 128 + n ≤ 128 * f) (bs : List Byte) :
    s.Quiet ((linePieces f ga n).foldl (State.readPiece p) (s, bs)).1 ∧
      ((linePieces f ga n).foldl (State.readPiece p) (s, bs)).2 = bs ++ s.gbytes ga n := by
  induction f generalizing s ga n bs with
  | zero =>
    obtain rfl : n = 0 := by omega
    exact ⟨.refl s, (List.append_nil bs).symm⟩
  | succ f ih =>
    unfold linePieces
    split
    · subst_vars; exact ⟨.refl s, (List.append_nil bs).symm⟩
    · simp only [List.foldl_cons]
      have first : n = min n (128 - ga % 128) + (n - min n (128 - ga % 128)) := by omega
      have rest : n - min n (128 - ga % 128) = 0 ∨ (ga + min n (128 - ga % 128)) % 128 + (n - min n (128 - ga % 128)) ≤ 128 * f := by omega
      generalize min n (128 - ga % 128) = k at first rest
      have touched := State.Quiet.pkgTouch s p (homeDie ga) ga false
      obtain ⟨read, bytes⟩ := (touched.calm h).homeRead_bytes ga k
      have piece := touched.trans read
      obtain ⟨quiet, all⟩ := ih (piece.calm h) _ _ rest (bs ++ s.gbytes ga k)
      have step : State.readPiece p (s, bs) (ga, k) = (((s.pkgTouch p (homeDie ga) ga false).homeRead ga k).1, bs ++ s.gbytes ga k) := by
        simp only [State.readPiece, bytes, State.gbytes, touched.gmem]
      rw [step]
      refine ⟨piece.trans quiet, all.trans ?_⟩
      rw [List.append_assoc]
      congr 1
      rw [State.gbytes, State.gbytes, State.gbytes, piece.gmem, ← memBytes_add, ← first]

/-- The part reads what memory holds. -/
theorem State.Uncached.partRead_bytes {s : State} (h : s.Uncached) (p ga n : Nat) :
    s.Quiet (s.partRead p ga n).1 ∧ (s.partRead p ga n).2 = s.gbytes ga n := by
  rw [State.partRead_eq]
  exact h.readPieces p _ ga n (.inr (by omega)) []

theorem State.Uncached.writePieces {s : State} (h : s.Uncached) (p f ga : Nat) (bs : List Byte)
    (hf : bs.length = 0 ∨ ga % 128 + bs.length ≤ 128 * f) :
    s.Stored ga bs ((linePieces f ga bs.length).foldl (State.writePiece p) (s, bs)).1 := by
  induction f generalizing s ga bs with
  | zero =>
    obtain rfl : bs = [] := List.eq_nil_of_length_eq_zero (by omega)
    exact .nil h ga
  | succ f ih =>
    unfold linePieces
    split
    · obtain rfl : bs = [] := List.eq_nil_of_length_eq_zero ‹_›
      exact .nil h ga
    · simp only [List.foldl_cons]
      have inRun : min bs.length (128 - ga % 128) ≤ bs.length := Nat.min_le_left _ _
      have rest : bs.length - min bs.length (128 - ga % 128) = 0 ∨
          (ga + min bs.length (128 - ga % 128)) % 128 + (bs.length - min bs.length (128 - ga % 128)) ≤ 128 * f := by omega
      generalize min bs.length (128 - ga % 128) = k at inRun rest
      have touched := State.Quiet.pkgTouch s p (homeDie ga) ga true
      have piece := touched.stored ((touched.calm h).homeWrite_stored ga (bs.take k))
      have size : (bs.take k).length = k := by simp [inRun]
      rw [← List.length_drop] at rest ⊢
      have others := ih piece.calm (ga + k) (bs.drop k) rest
      simpa only [List.take_append_drop] using piece.append (cs := bs.drop k) (by rw [size]; exact others)

/-- The part writes into memory. -/
theorem State.Uncached.partWrite_stored {s : State} (h : s.Uncached) (p ga : Nat) (bs : List Byte) :
    s.Stored ga bs (s.partWrite p ga bs) := by
  rw [State.partWrite_eq]
  exact h.writePieces p _ ga bs (.inr (by omega))

/-! ## Bytes in memory -/

theorem memBytes_drop (m : SMap Byte) (a n k : Nat) : (memBytes m a n).drop k = memBytes m (a + k) (n - k) := by
  by_cases h : k ≤ n
  · conv => lhs; rw [show n = k + (n - k) by omega, memBytes_add]
    exact List.drop_left' (memBytes_length m a k)
  · rw [List.drop_eq_nil_of_le (by rw [memBytes_length]; omega), show n - k = 0 by omega, memBytes]

theorem memBytes_take (m : SMap Byte) (a : Nat) {n k : Nat} (h : k ≤ n) : (memBytes m a n).take k = memBytes m a k := by
  rw [show n = k + (n - k) by omega, memBytes_add]
  exact List.take_left' (memBytes_length m a k)

theorem leNat_append (bs cs : List Byte) : leNat (bs ++ cs) = leNat bs + 256 ^ bs.length * leNat cs := by
  induction bs with
  | nil => simp [leNat]
  | cons b bs ih =>
    rw [List.cons_append, leNat, leNat, ih, List.length_cons, Nat.mul_add, ← Nat.add_assoc, Nat.pow_succ', Nat.mul_assoc]

theorem leNat_lt (bs : List Byte) : leNat bs < 256 ^ bs.length := by
  induction bs with
  | nil => exact Nat.one_pos
  | cons b bs ih =>
    have := b.isLt
    rw [leNat, List.length_cons, Nat.pow_succ]
    omega

section
variable {s u : State} {ga : Nat} {bs : List Byte} (h : s.Stored ga bs u)
include h

theorem State.Stored.gbytes_same : u.gbytes ga bs.length = bs := by
  rw [State.gbytes, h.gmem, memBytes_memWrite]

theorem State.Stored.gbyte_ne {a : Nat} (ha : a < ga ∨ ga + bs.length ≤ a) : u.gbyte a = s.gbyte a := by
  rw [State.gbyte, h.gmem, get_memWrite, if_neg (by omega)]
  rfl

end

/-! ## Queues (R50, R51) -/

/-- TAIL of the descriptor that stands in memory. -/
theorem decodeQueue_tail (m : SMap Byte) (a : Nat) : (decodeQueue (memBytes m a 16)).tail = leNat (memBytes m (a + 10) 2) := by
  have word : memBytes m (a + 8) 8 = memBytes m (a + 8) 2 ++ (memBytes m (a + 10) 2 ++ memBytes m (a + 12) 4) := by
    rw [show 8 = 2 + (2 + 4) from rfl, memBytes_add, memBytes_add]
  have low := leNat_lt (memBytes m (a + 8) 2)
  have tail := leNat_lt (memBytes m (a + 10) 2)
  simp only [decodeQueue, memBytes_drop]
  rw [memBytes_take m (a + 8) (k := 8) (by omega), word, leNat_append, leNat_append]
  simp only [memBytes_length, bitsOf] at low tail ⊢
  omega

theorem State.Uncached.readQueue_eq {s : State} (h : s.Uncached) (p blk q : Nat) :
    s.Quiet (s.readQueue p blk q).1 ∧ (s.readQueue p blk q).2 = decodeQueue (s.gbytes (qdescAt blk q) 16) := by
  obtain ⟨quiet, bytes⟩ := h.partRead_bytes p (qdescAt blk q) 16
  simp only [State.readQueue, bytes, and_true]
  exact quiet

theorem State.tailWrite_devfed {s : State} {p blk q : Nat} (h : (s.readQueue p blk q).2.devfed = true) (tail : Nat) :
    s.tailWrite p blk q tail = (s.readQueue p blk q).1.tally p 35 := if_pos h

/-- A queue joins those that a package looks at. -/
def Pkg.serve (x : Nat) (q : Pkg) : Pkg := { q with served := insertNat q.served x }

theorem State.tailWrite_hostfed {s : State} {p blk q : Nat} (h : (s.readQueue p blk q).2.devfed = false) (tail : Nat) :
    s.tailWrite p blk q tail =
      ((((s.readQueue p blk q).1.partWrite p (qdescAt blk q + 10) (leBytes 2 tail)).modPkg p (Pkg.serve (blk * 16 + q))).laterOnce
        (.recordTake p blk q)).laterOnce (.dependenceRecheck p) := by
  simp only [State.tailWrite, h, Bool.false_eq_true, if_false]
  rfl

/-- A tail write (R51): the descriptor in memory takes TAIL, and the queue is looked at. -/
theorem State.Uncached.tailWrite_stores {s : State} (h : s.Uncached) {p : Nat} (hp : (s.pkg? p).isSome = true) {blk q : Nat}
    (hd : (s.readQueue p blk q).2.devfed = false) {tail : Nat} (ht : tail < 2 ^ 16) :
    ((s.tailWrite p blk q tail).readQueue p blk q).2.tail = tail ∧ blk * 16 + q ∈ ((s.tailWrite p blk q tail).pkgD p).served ∧
      Instr.recordTake p blk q ∈ (s.tailWrite p blk q tail).agenda := by
  obtain ⟨quiet, -⟩ := h.readQueue_eq p blk q
  have stored := quiet.stored ((quiet.calm h).partWrite_stored p (qdescAt blk q + 10) (leBytes 2 tail))
  rw [State.tailWrite_hostfed hd]
  generalize (s.readQueue p blk q).1.partWrite p (qdescAt blk q + 10) (leBytes 2 tail) = t at stored
  have calm : (t.modPkg p (Pkg.serve (blk * 16 + q))).Uncached := stored.calm.modPkg p (fun _ => rfl) (fun _ _ hl _ => hl)
  have looked := (State.Quiet.laterOnce (t.modPkg p (Pkg.serve (blk * 16 + q))) (.recordTake p blk q)).trans
    (.laterOnce _ (.dependenceRecheck p))
  refine ⟨?_, ?_, by simp [State.mem_agenda_laterOnce]⟩
  · have bytes := stored.gbytes_same
    rw [leBytes_length, State.gbytes] at bytes
    rw [((looked.calm calm).readQueue_eq p blk q).2, State.gbytes, decodeQueue_tail, looked.gmem, State.modPkg_gmem, bytes, leNat_leBytes]
    exact Nat.mod_eq_of_lt ht
  · rw [looked.keeps Pkg.served, State.pkgD_modPkg_known ((stored.known p).trans hp)]
    simp [Pkg.serve]

/-! ## The host's accesses in order (R195, R257, R259) -/

theorem State.barOpen_known {s : State} {p : Nat} (h : s.barOpen p = true) : (s.pkg? p).isSome = true := by
  unfold State.barOpen at h
  split at h
  · simp [*]
  · cases h

theorem State.hostAccess_behind {s : State} {p : Nat} (h : (s.pkgD p).hostQ ≠ []) (fn : Nat) (i : HostAccess) :
    s.hostAccess p fn i = s.modPkg p (fun q => { q with hostQ := q.hostQ ++ [(fn, i)] }) := by
  simp [State.hostAccess, h]

/-- With no access before it, one that is done leaves what it does, its climb forgotten. -/
theorem State.hostAccess_done {s u : State} {p fn : Nat} {i : HostAccess} (hq : (s.pkgD p).hostQ = [])
    (h : s.hostPerform p fn i = (u, true)) (hs : (u.pkgD p).hostSeen = []) : s.hostAccess p fn i = u := by
  simp only [State.hostAccess, hq, h, List.isEmpty_nil, if_true]
  cases i <;> simp [State.hostDone, hs]

theorem State.hostAccess_doorbell {s : State} {p : Nat} (hq : (s.pkgD p).hostQ = []) (fn off size : Nat) (v : DWord) :
    s.hostAccess p fn (.doorbell off size v) = s.doorbell p fn off size v := by
  simp [State.hostAccess, hq, State.hostPerform, State.hostDone]

theorem exec_queueTailDoorbell (p fn off size : Nat) (v : DWord) (s : State) :
    exec (.queueTailDoorbell p fn off size v) s = .next (s.hostAccess p fn (.doorbell off size v)) := rfl

theorem exec_windowWrite (p fn off size : Nat) (v : DWord) (s : State) :
    exec (.windowWrite p fn off size v) s = .next (s.hostAccess p fn (.write off size v)) := rfl

theorem exec_windowRead {size : Nat} (h : size ≠ 0) (p fn off : Nat) (s : State) :
    exec (.windowRead p fn off size) s = .next (s.hostAccess p fn (.read off size)) := by
  show Host.Outcome.next (if size = 0 then _ else _) = _
  rw [if_neg h]

/-! ## Doorbells (R51, R257) -/

/-- The fields of a doorbell write: reserved bits, REGID, queue, TAIL. -/
theorem doorbell_fields (v : DWord) : bitsOf v.toNat 47 20 = v.toNat / 2 ^ 20 % 2 ^ 28 ∧ bitsOf v.toNat 63 48 = v.toNat / 2 ^ 48 ∧
    bitsOf v.toNat 19 16 = v.toNat / 2 ^ 16 % 16 ∧ bitsOf v.toNat 15 0 = v.toNat % 2 ^ 16 := by
  have top : v.toNat / 2 ^ 48 < 2 ^ 16 := by have := v.isLt; omega
  exact ⟨rfl, Nat.mod_eq_of_lt top, rfl, by rw [bitsOf, Nat.pow_zero, Nat.div_one]⟩

theorem State.doorbell_malformed {s : State} {p off : Nat} {v : DWord} (ho : s.barOpen p = true) (fn : Nat)
    (h : off % 8 ≠ 0 ∨ v.toNat / 2 ^ 20 % 2 ^ 28 ≠ 0 ∨ s.leafOf p (v.toNat / 2 ^ 48) = none) : s.doorbell p fn off 8 v = s.tally p 34 := by
  obtain ⟨rsv, regid, -, -⟩ := doorbell_fields v
  rw [← rsv, ← regid] at h
  rcases h with h | h | h <;> simp [State.doorbell, ho, h]

/-- A well-formed doorbell of a leaf: its function must own the leaf's tenant (R254). -/
theorem State.doorbell_named {s : State} {p off a : Nat} {v : DWord} (ho : s.barOpen p = true) (fn : Nat) (h8 : off % 8 = 0)
    (hr : v.toNat / 2 ^ 20 % 2 ^ 28 = 0) (ha : s.leafOf p (v.toNat / 2 ^ 48) = some a) :
    s.doorbell p fn off 8 v =
      if (s.pkgD p).owns fn (if (s.block? p a).isSome = true then s.tenantId p a else s.tenantInMem 8 a) = true
      then s.tailWrite p a (v.toNat / 2 ^ 16 % 16) (v.toNat % 2 ^ 16) else s.refuseHost p fn := by
  obtain ⟨rsv, regid, queue, tail⟩ := doorbell_fields v
  rw [← regid] at ha
  rw [← rsv] at hr
  rw [← queue, ← tail]
  cases own : (s.pkgD p).owns fn (if (s.block? p a).isSome = true then s.tenantId p a else s.tenantInMem 8 a) <;>
    simp [State.doorbell, ho, h8, hr, ha, own]

/-! ## The window (R259) -/

theorem State.windowPages_one {s : State} {p fn ga size : Nat} (h : (ga + size - 1) / 65536 = ga / 65536) :
    s.windowPages p fn ga size = s.windowPage p fn (ga / 65536) := by
  simp [State.windowPages, h]

theorem State.windowPage_ok {s : State} {p fn g m : Nat} (hm : s.masterOf g = some m)
    (hf : fn = 0 ∨ (s.pkgD p).boundTenant fn = some (s.tagOf m g).owner) : s.windowPage p fn g = (s, .ok) := by
  rcases hf with rfl | hf
  · simp [State.windowPage, hm, Pkg.boundTenant]
  · simp [State.windowPage, hm, hf]

theorem State.windowPage_miss {s : State} (p : Nat) {g : Nat} (hm : s.masterOf g = none) : s.windowPage p 0 g = (s, .miss) := by
  simp [State.windowPage, hm, Pkg.boundTenant]

theorem State.storable_length (s : State) (ga : Nat) (bs : List Byte) : (s.storable ga bs).length = bs.length := by
  unfold State.storable
  refine foldl_keeps List.length (fun bs x => foldl_keeps List.length (fun bs y => ?_) _ bs) _ bs
  dsimp only
  split
  · simp
  · rfl

theorem exec_windowRead_done {s u : State} {p fn off size : Nat} (w : windowHolds fn off size = true) (hq : (s.pkgD p).hostQ = [])
    (h : s.windowRead p fn off size = (u, true)) (hs : (u.pkgD p).hostSeen = []) : exec (.windowRead p fn off size) s = .next u := by
  have nonzero : size ≠ 0 := by rintro rfl; simp [windowHolds] at w
  have performed : s.hostPerform p fn (.read off size) = (u, true) := (if_pos w).trans h
  rw [exec_windowRead nonzero, State.hostAccess_done hq performed hs]

theorem exec_windowWrite_done {s u : State} {p fn off size : Nat} {v : DWord} (w : windowHolds fn off size = true)
    (hq : (s.pkgD p).hostQ = []) (h : s.windowWrite p fn off size v = (u, true)) (hs : (u.pkgD p).hostSeen = []) :
    exec (.windowWrite p fn off size v) s = .next u := by
  have performed : s.hostPerform p fn (.write off size v) = (u, true) := (if_pos w).trans h
  rw [exec_windowWrite, State.hostAccess_done hq performed hs]

/-- What a read answers where no page is (R259). -/
def onesReply (fn size : Nat) : Signal := .read fn (BitVec.ofNat 64 (2 ^ (8 * size) - 1))

theorem State.windowRead_closed {s : State} {p : Nat} (h : s.barOpen p = false) (fn off size : Nat) :
    s.windowRead p fn off size = (s.signal p (onesReply fn size), true) := by
  simp [State.windowRead, h, onesReply]

theorem State.windowWrite_closed {s : State} {p : Nat} (h : s.barOpen p = false) (fn off size : Nat) (v : DWord) :
    s.windowWrite p fn off size v = (s, true) := by
  simp [State.windowWrite, h]

theorem State.windowRead_miss {s : State} {p fn off size : Nat} (ho : s.barOpen p = true)
    (h : s.windowPages p fn (s.windowAddr p fn off) size = (s, .miss)) :
    s.windowRead p fn off size = ((s.tally p 31).signal p (onesReply fn size), true) := by
  simp [State.windowRead, ho, h, onesReply]

theorem State.windowWrite_miss {s : State} {p fn off size : Nat} (ho : s.barOpen p = true) (v : DWord)
    (h : s.windowPages p fn (s.windowAddr p fn off) size = (s, .miss)) : s.windowWrite p fn off size v = (s.tally p 31, true) := by
  simp [State.windowWrite, ho, h]

section
variable {s : State} {p fn off size : Nat} (unc : s.Uncached) (ho : s.barOpen p = true)
  (h : s.windowPages p fn (s.windowAddr p fn off) size = (s, .ok))
include unc ho h

theorem State.windowRead_held : ∃ t, s.Quiet t ∧
    s.windowRead p fn off size = (t.signal p (.read fn (BitVec.ofNat 64 (s.gnat (s.windowAddr p fn off) size))), true) := by
  obtain ⟨quiet, bytes⟩ := unc.partRead_bytes p (s.windowAddr p fn off) size
  refine ⟨_, quiet, ?_⟩
  simp only [State.windowRead, ho, h, bytes]
  rfl

/-- A window write that touches no TRRD stores its bytes, but for reserved fields (R4). -/
theorem State.windowWrite_held (v : DWord) (ht : s.trrdBuffer (s.windowAddr p fn off) size = none) :
    ∃ t, s.Stored (s.windowAddr p fn off) (s.storable (s.windowAddr p fn off) (leBytes size v.toNat)) t ∧
      s.windowWrite p fn off size v = (t, true) := by
  refine ⟨_, unc.partWrite_stored p _ _, ?_⟩
  have bare : s.trrdStore p (s.windowAddr p fn off) (s.storable (s.windowAddr p fn off) (leBytes size v.toNat)) = none := by
    rw [State.trrdStore, State.storable_length, leBytes_length, ht]; rfl
  simp only [State.windowWrite, ho, h, bare]
  rfl

end

theorem State.signals_signal {s : State} {p : Nat} (h : (s.pkg? p).isSome = true) (x : Signal) :
    ((s.signal p x).pkgD p).signals = (s.pkgD p).signals ++ [x] := by
  rw [State.signal, State.pkgD_modPkg_known h]

/-- No change of packages changes a byte. -/
theorem SameBytes.of_modPkg {s t : State} (h : SameBytes s t) (p : Nat) (f : Pkg → Pkg) : SameBytes s (t.modPkg p f) := h

theorem State.hostSeen_modPkg {s : State} {p : Nat} (h : (s.pkgD p).hostSeen = []) {f : Pkg → Pkg} (hf : ∀ q, (f q).hostSeen = q.hostSeen) :
    ((s.modPkg p f).pkgD p).hostSeen = [] := by
  rw [State.pkgD_modPkg_keeps Pkg.hostSeen hf, h]

/-! ## The time series (R273) -/

/-- The room in the ring. -/
def Series.space (r : Series) : Nat := if r.wr = r.rd then r.size else (r.rd + r.size - r.wr) % r.size

/-- The oldest latched snapshot is taken. -/
def State.popLatch (s : State) (p : Nat) (rest : List Latch) : State :=
  s.modPkg p (fun q => { q with series := { q.series with latches := rest } })

section
variable {s : State} {p : Nat} {l : Latch} {rest : List Latch}

theorem State.popLatch_series (hp : (s.pkg? p).isSome = true) :
    ((s.popLatch p rest).pkgD p).series = { (s.pkgD p).series with latches := rest } := by
  rw [State.popLatch, State.pkgD_modPkg_known hp]

theorem State.popLatch_counters (hp : (s.pkg? p).isSome = true) : ((s.popLatch p rest).pkgD p).counters = (s.pkgD p).counters := by
  rw [State.popLatch, State.pkgD_modPkg_known hp]

theorem timeseriesTick_skips (hl : (s.pkgD p).series.latches = l :: rest)
    (h : (s.pkgD p).series.space ≤ l.bytes.length ∨ (s.pkgD p).series.size ≤ (s.pkgD p).series.wr) :
    exec (.timeseriesTick p) s = .next ((s.popLatch p rest).tally p 36) := by
  show execTimeseriesTick p s = _
  simp only [execTimeseriesTick, hl]
  rw [if_pos (by simpa [Series.space] using h)]
  rfl

theorem timeseriesTick_appends (hl : (s.pkgD p).series.latches = l :: rest)
    (h : ¬ ((s.pkgD p).series.space ≤ l.bytes.length ∨ (s.pkgD p).series.size ≤ (s.pkgD p).series.wr)) :
    exec (.timeseriesTick p) s = .next (((s.popLatch p rest).ringWrite p (s.pkgD p).series.base (s.pkgD p).series.size
      (s.pkgD p).series.wr l.bytes).modPkg p (fun q => { q with series := { q.series with
        wr := ((s.pkgD p).series.wr + l.bytes.length) % (s.pkgD p).series.size } })) := by
  show execTimeseriesTick p s = _
  simp only [execTimeseriesTick, hl]
  rw [if_neg (by simpa [Series.space] using h)]
  rfl

end

theorem State.Aside.ringWrite (s : State) (p base size at_ : Nat) (bs : List Byte) : s.Aside (s.ringWrite p base size at_ bs) := by
  simp only [State.ringWrite]
  split
  · exact .trans (.partWrite _ _ _ _) (.partWrite _ _ _ _)
  · exact .partWrite _ _ _ _

/-- Bytes that do not reach the ring's end stand together. -/
theorem State.ringWrite_eq (s : State) (p base : Nat) {size at_ : Nat} {bs : List Byte} (h : bs.length ≤ size - at_) :
    s.ringWrite p base size at_ bs = s.partWrite p (base + at_) bs := by
  simp only [State.ringWrite]
  rw [if_neg (by omega), List.take_of_length_le h]

theorem State.counters_tally {s : State} {p : Nat} (h : (s.pkg? p).isSome = true) (c : Nat) :
    SMap.get ((s.tally p c).pkgD p).counters 0 (ctrKey (5, c) 0) = SMap.get (s.pkgD p).counters 0 (ctrKey (5, c) 0) + 1 := by
  rw [State.tally, State.count, State.pkgD_modPkg_known h]
  exact (SMap.get_set _ _ _ _ _).trans (if_pos rfl)

/-- TSK: K in bits 4:0, BANKS in bits 13:8. -/
theorem tsk_fields (v : DWord) : bitsOf v.toNat 4 0 = v.toNat % 32 ∧ bitsOf v.toNat 13 8 = v.toNat / 256 % 64 := by
  simp [bitsOf]

/-! ## The consumer's end of a trace buffer (R268) -/

/-- A value of TRRD lies within the written part of the ring. -/
def State.trrdGood (s : State) (base n : Nat) (v : Word) : Prop :=
  1 ≤ v.toNat ∧ v.toNat < n ∧
    ((v.toNat : Int) - (s.gnat (base + 16) 4 : Nat)) % ((n : Int) - 1) ≤ ((s.gnat (base + 12) 4 : Nat) - (s.gnat (base + 16) 4 : Nat) : Int) % ((n : Int) - 1)

section
variable {s : State} (h : s.Uncached) (p : Nat) {base n : Nat} {v : Word}
include h

theorem State.Uncached.trrdAt_good (good : s.trrdGood base n v) : s.Stored (base + 16) (leBytes 4 v.toNat) (s.trrdAt p base n v) := by
  obtain ⟨quiet, bytes⟩ := h.partRead_bytes p base 32
  simp only [State.trrdAt, bytes, State.gbytes, memBytes_drop]
  rw [memBytes_take _ _ (by omega), memBytes_take _ _ (by omega), if_pos (by simpa [State.trrdGood, State.gnat, memNat, and_assoc] using good)]
  exact quiet.stored ((quiet.calm h).partWrite_stored p _ _)

theorem State.Uncached.trrdAt_bad (bad : ¬ s.trrdGood base n v) : s.Quiet (s.trrdAt p base n v) := by
  obtain ⟨quiet, bytes⟩ := h.partRead_bytes p base 32
  simp only [State.trrdAt, bytes, State.gbytes, memBytes_drop]
  rw [memBytes_take _ _ (by omega), memBytes_take _ _ (by omega),
    if_neg (by simpa [State.trrdGood, State.gnat, memNat, and_assoc] using bad)]
  exact quiet

end

theorem exec_trrdWrite {s : State} {p blk base n : Nat} (ht : s.effTrace p blk = (base, n)) (hn : 3 ≤ n) (v : Word) :
    exec (.trrdWrite p blk v) s = .next (s.trrdAt p base n v) := by
  show execTrrdWrite p blk v s = _
  simp only [execTrrdWrite, ht]
  rw [if_neg (by omega)]

/-! ## The clauses of HostAccess -/

/-- A doorbell of a leaf that the function owns (R51): a device-fed queue discards it, another takes it. -/
theorem doorbell_clause {s : State} {p fn off : Nat} {v : DWord} (unc : s.Uncached) (ho : s.barOpen p = true)
    (hq : (s.pkgD p).hostQ = []) {a : Nat} (h8 : off % 8 = 0) (hr : v.toNat / 2 ^ 20 % 2 ^ 28 = 0)
    (ha : s.leafOf p (v.toNat / 2 ^ 48) = some a)
    (own : (s.pkgD p).owns fn (if (s.block? p a).isSome = true then s.tenantId p a else s.tenantInMem 8 a) = true) :
    let q := v.toNat / 2 ^ 16 % 16
    ((s.readQueue p a q).2.devfed = true → SameBytes s (s.readQueue p a q).1 ∧
      exec (.queueTailDoorbell p fn off 8 v) s = .next ((s.readQueue p a q).1.tally p 35)) ∧
    ((s.readQueue p a q).2.devfed = false → ∃ u, exec (.queueTailDoorbell p fn off 8 v) s = .next u ∧
      (u.readQueue p a q).2.tail = v.toNat % 2 ^ 16 ∧ a * 16 + q ∈ (u.pkgD p).served ∧ Instr.recordTake p a q ∈ u.agenda) := by
  intro q
  have written : exec (.queueTailDoorbell p fn off 8 v) s = .next (s.tailWrite p a q (v.toNat % 2 ^ 16)) := by
    rw [exec_queueTailDoorbell, State.hostAccess_doorbell hq, State.doorbell_named ho fn h8 hr ha, if_pos own]
  refine ⟨fun devfed => ?_, fun hostfed => ?_⟩
  · exact ⟨(unc.readQueue_eq p a q).1.sameBytes, by rw [written, State.tailWrite_devfed devfed]⟩
  · exact ⟨_, written, unc.tailWrite_stores (State.barOpen_known ho) hostfed (Nat.mod_lt _ (by omega))⟩

/-- The window's accesses of a page that a package holds, and of one that none holds. -/
theorem window_clause {s : State} {p fn off size : Nat} {v : DWord} (unc : s.Uncached) (w : windowHolds fn off size = true)
    (hq : (s.pkgD p).hostQ = []) (hs : (s.pkgD p).hostSeen = []) (ho : s.barOpen p = true) {ga : Nat} (hga : s.windowAddr p fn off = ga)
    (one : (ga + size - 1) / 65536 = ga / 65536) :
    (∀ m, s.masterOf (ga / 65536) = some m → fn = 0 ∨ (s.pkgD p).boundTenant fn = some (s.tagOf m (ga / 65536)).owner →
      (∃ u, exec (.windowRead p fn off size) s = .next u ∧ SameBytes s u ∧
        (u.pkgD p).signals = (s.pkgD p).signals ++ [.read fn (BitVec.ofNat 64 (s.gnat ga size))]) ∧
      (s.trrdBuffer ga size = none → ∃ u, exec (.windowWrite p fn off size v) s = .next u ∧ u.gbytes ga size = s.storable ga (leBytes size v.toNat) ∧
        (∀ i, i < size → u.tagAt (ga + i) = false) ∧ ∀ a, a < ga ∨ ga + size ≤ a → u.gbyte a = s.gbyte a)) ∧
    (s.masterOf (ga / 65536) = none → fn = 0 → exec (.windowRead p fn off size) s = .next ((s.tally p 31).signal p (onesReply fn size)) ∧
      exec (.windowWrite p fn off size v) s = .next (s.tally p 31)) := by
  subst hga
  have pages := State.windowPages_one (s := s) (p := p) (fn := fn) one
  refine ⟨fun m hm hf => ?_, fun hm hf => ?_⟩
  · rw [State.windowPage_ok hm hf] at pages
    refine ⟨?_, fun ht => ?_⟩
    · obtain ⟨t, quiet, read⟩ := State.windowRead_held unc ho pages
      have seen : (t.pkgD p).hostSeen = [] := (quiet.keeps Pkg.hostSeen p).trans hs
      refine ⟨_, exec_windowRead_done w hq read (State.hostSeen_modPkg seen fun _ => rfl), quiet.sameBytes.of_modPkg p _, ?_⟩
      rw [State.signals_signal ((quiet.known p).trans (State.barOpen_known ho)), quiet.keeps Pkg.signals p]
    · obtain ⟨t, stored, write⟩ := State.windowWrite_held unc ho pages v ht
      have seen : (t.pkgD p).hostSeen = [] := (stored.keeps Pkg.hostSeen p).trans hs
      have length (ga : Nat) : (s.storable ga (leBytes size v.toNat)).length = size := by rw [State.storable_length, leBytes_length]
      refine ⟨t, exec_windowWrite_done w hq write seen, ?_, ?_, fun a ha => stored.gbyte_ne (by rwa [length])⟩
      · simpa only [length] using stored.gbytes_same
      · simpa only [length] using stored.cleared
  · subst hf
    rw [State.windowPage_miss p hm] at pages
    have seen : ((s.tally p 31).pkgD p).hostSeen = [] := State.hostSeen_modPkg hs fun _ => rfl
    exact ⟨exec_windowRead_done w hq (State.windowRead_miss ho pages) (State.hostSeen_modPkg seen fun _ => rfl),
      exec_windowWrite_done w hq (State.windowWrite_miss ho v pages) seen⟩

/-- The oldest latched snapshot (R273): skipped and counted where the ring has no room for it, appended where it has. -/
theorem timeseries_clause {s : State} {p : Nat} (hp : (s.pkg? p).isSome = true) {l : Latch} {rest : List Latch}
    (hl : (s.pkgD p).series.latches = l :: rest) :
    let r := (s.pkgD p).series
    let n := l.bytes.length
    ∃ u, exec (.timeseriesTick p) s = .next u ∧ (u.pkgD p).series.latches = rest ∧
      (r.space ≤ n ∨ r.size ≤ r.wr → (u.pkgD p).series.wr = r.wr ∧ SameBytes s u ∧
        SMap.get (u.pkgD p).counters 0 (ctrKey (5, 36) 0) = SMap.get (s.pkgD p).counters 0 (ctrKey (5, 36) 0) + 1) ∧
      (n < r.space → r.wr < r.size → (u.pkgD p).series.wr = (r.wr + n) % r.size ∧
        (s.Uncached → r.wr + n ≤ r.size → u.gbytes (r.base + r.wr) n = l.bytes)) := by
  intro r n
  have popped : ((s.popLatch p rest).pkg? p).isSome = true := (s.known_modPkg p _ p).trans hp
  by_cases fits : r.space ≤ n ∨ r.size ≤ r.wr
  · have series : (((s.popLatch p rest).tally p 36).pkgD p).series = { r with latches := rest } :=
      ((State.Quiet.count _ p (5, 36) 0 1).keeps Pkg.series p).trans (State.popLatch_series hp)
    refine ⟨_, timeseriesTick_skips hl fits, by rw [series], fun _ => ⟨by rw [series], ?_, ?_⟩, fun _ _ => by omega⟩
    · exact ⟨fun _ => rfl, fun _ => rfl, fun _ _ _ => rfl⟩
    · rw [State.counters_tally popped, State.popLatch_counters hp]
  · have aside := State.Aside.ringWrite (s.popLatch p rest) p r.base r.size r.wr l.bytes
    have series := (aside.keeps Pkg.series p).trans (State.popLatch_series hp)
    refine ⟨_, timeseriesTick_appends hl fits, ?_, fun skip => absurd skip fits, fun _ _ => ⟨?_, fun unc whole => ?_⟩⟩
    · rw [State.pkgD_modPkg_known ((aside.known p).trans popped), series]
    · rw [State.pkgD_modPkg_known ((aside.known p).trans popped)]
    · rw [State.ringWrite_eq _ _ _ (Nat.le_sub_of_add_le' whole)]
      have calm : (s.popLatch p rest).Uncached := unc.modPkg p (fun _ => rfl) (fun _ _ h _ => h)
      rw [State.gbytes, State.modPkg_gmem, ← State.gbytes]
      exact (calm.partWrite_stored p (r.base + r.wr) l.bytes).gbytes_same

/-- A write of TSK (R273): K of 1 to 9 and of 25 to 31 is discarded. -/
theorem tsk_clause {s : State} {p : Nat} (ho : s.barOpen p = true) (v : DWord) :
    let r := (s.pkgD p).series
    let k := v.toNat % 32
    (k = 0 ∨ (10 ≤ k ∧ k ≤ 24) → ∃ u, exec (.tskWrite p 0 v) s = .next u ∧
      (u.pkgD p).series = { r with k := k, banks := v.toNat / 256 % 64, seq := 0 } ∧ SameBytes s u) ∧
    ((1 ≤ k ∧ k ≤ 9) ∨ 25 ≤ k → ∃ u, exec (.tskWrite p 0 v) s = .next u ∧ (u.pkgD p).series = r ∧ ((u.pkgD p).mboxOf 0).dstat = 2) := by
  intro r k
  obtain ⟨fk, fb⟩ := tsk_fields v
  have run : exec (.tskWrite p 0 v) s = .next (if (1 ≤ k ∧ k ≤ 9) ∨ 25 ≤ k then s.modMbox p 0 (fun m => { m with dstat := 2 })
      else s.modPkg p (fun q => { q with series := { q.series with k := k, banks := v.toNat / 256 % 64, seq := 0 } })) := by
    show execTskWrite p 0 v s = _
    simp [execTskWrite, ho, fk, fb, k]
  have known := State.barOpen_known ho
  refine ⟨fun good => ?_, fun bad => ?_⟩
  · rw [if_neg (by omega)] at run
    exact ⟨_, run, by rw [State.pkgD_modPkg_known known], fun _ => rfl, fun _ => rfl, fun _ _ _ => rfl⟩
  · rw [if_pos bad] at run
    refine ⟨_, run, ?_, ?_⟩
    · rw [State.modMbox, State.pkgD_modPkg_known known]; rfl
    · rw [State.modMbox, State.pkgD_modPkg_known known]
      simp [Pkg.mboxOf, Pkg.modMbox, SMap.get_set]

/-- A write of TRRD (R268) is taken only within the written part of the ring. -/
theorem trrd_clause {s : State} {p blk base n : Nat} {v : Word} (unc : s.Uncached) (ht : s.effTrace p blk = (base, n)) (hn : 3 ≤ n) :
    (s.trrdGood base n v → ∃ u, exec (.trrdWrite p blk v) s = .next u ∧ u.gnat (base + 16) 4 = v.toNat ∧
      ∀ a, a < base + 16 ∨ base + 20 ≤ a → u.gbyte a = s.gbyte a) ∧
    (¬ s.trrdGood base n v → ∃ u, exec (.trrdWrite p blk v) s = .next u ∧ SameBytes s u) := by
  refine ⟨fun good => ?_, fun bad => ⟨_, exec_trrdWrite ht hn v, (unc.trrdAt_bad p bad).sameBytes⟩⟩
  have stored := unc.trrdAt_good p good
  refine ⟨_, exec_trrdWrite ht hn v, ?_, fun a ha => stored.gbyte_ne (by rwa [leBytes_length])⟩
  have bytes := stored.gbytes_same
  rw [leBytes_length] at bytes
  rw [State.gnat, memNat, ← State.gbytes, bytes, leNat_leBytes]
  exact Nat.mod_eq_of_lt v.isLt

/-- Settles O54: the part's own reads and writes under the doorbell, the window, the ring and TRRD act on memory as it stands, and leave
the rest of the package alone. -/
theorem hostAccess : Obligations.HostAccess := by
  unfold Obligations.HostAccess
  refine ⟨?doorbellBehind, ?doorbell, ?window, ?series, ?trrd⟩
  case doorbellBehind =>
    intro s p fn off v hq
    rw [exec_queueTailDoorbell, State.hostAccess_behind hq]
  case doorbell =>
    intro s p fn off v unc ho hq q
    refine ⟨fun bad => ?_, ?_⟩
    · rw [exec_queueTailDoorbell, State.hostAccess_doorbell hq, State.doorbell_malformed ho fn bad]
    · intro a h8 hr ha tenant
      refine ⟨fun foreign => ?_, doorbell_clause unc ho hq h8 hr ha⟩
      rw [exec_queueTailDoorbell, State.hostAccess_doorbell hq, State.doorbell_named ho fn h8 hr ha, if_neg (Bool.eq_false_iff.1 foreign)]
  case window =>
    intro s p fn off size v unc hfn h1 h8 h32 hq hs ga ones
    have w : windowHolds fn off size = true := by simp only [windowHolds, hostFn, hfn, h1, h8, h32]; rfl
    refine ⟨fun closed => ⟨?_, ?_⟩, fun ho one => window_clause unc w hq hs ho rfl one⟩
    · exact exec_windowRead_done w hq (State.windowRead_closed closed fn off size) (State.hostSeen_modPkg hs fun _ => rfl)
    · exact exec_windowWrite_done w hq (State.windowWrite_closed closed fn off size v) hs
  case series =>
    intro s p ho r space
    refine ⟨fun none => ?_, fun l rest hl => timeseries_clause (State.barOpen_known ho) hl, tsk_clause ho⟩
    have empty : (s.pkgD p).series.latches = [] := none
    show execTimeseriesTick p s = _
    simp only [execTimeseriesTick, empty]
  case trrd =>
    intro s p blk base n v unc ht hn
    exact trrd_clause unc ht hn

end Sys2Proof.Machine
end

section
/-! SUPPORT. What reset and the start of a thread and of a share leave to be read (R11, R54, R126, R141, R286). -/

namespace Sys2Proof.Machine

@[simp] theorem SMap.get_nil {V : Type} (d : V) (j : Nat) : SMap.get ([] : SMap V) d j = d := rfl

/-! ## Reset -/

theorem State.reset_memWf : State.reset.MemWf := ⟨rfl, rfl, rfl⟩

/-- Reset knows one package, at its power-up state, and a number that names none reads as one too. -/
@[simp] theorem State.reset_pkgD (p : Nat) : State.reset.pkgD p = Pkg.init := by
  by_cases h : p = 0 <;> simp [State.pkgD, State.pkg?, State.reset, SMap.find?, h]

/-- Without power a package is not ready (R286). -/
theorem Pkg.init_not_ready : Pkg.init.ready = false := rfl

/-- A package that is not ready answers no access of its BARs (R286). -/
theorem State.barOpen_of_not_ready {s : State} {p : Nat} (h : (s.pkgD p).ready = false) : s.barOpen p = false := by
  unfold State.barOpen
  cases hp : s.pkg? p with
  | none => rfl
  | some q =>
    have hq : q.ready = false := by simpa [State.pkgD, hp] using h
    simp [hq]

theorem State.reset_barOpen (p : Nat) : State.reset.barOpen p = false :=
  State.barOpen_of_not_ready (by rw [State.reset_pkgD, Pkg.init_not_ready])

@[simp] theorem State.reset_gbyte (a : Nat) : State.reset.gbyte a = 0 := SMap.get_nil 0 a
@[simp] theorem State.reset_lineMeta (a : Nat) : State.reset.lineMeta a = LineMeta.init := SMap.get_nil _ (a / 128)

/-! ## The start of a thread and of a share -/

/-- At the start only p0 is set (R54, R302). -/
theorem Thread.start_rdP (e : Nat) (q : Place) (r n : Nat) : (Thread.start e q r).rdP n = if n = 0 then 0xFF else 0 := by
  unfold Thread.rdP Thread.start SMap.get SMap.find?
  by_cases h : n = 0 <;> simp [h]

theorem Thread.start_active (e : Nat) (q : Place) (r : Nat) : (Thread.start e q r).active = true := by
  rw [Thread.active, Thread.start_rdP]; rfl

@[simp] theorem Thread.start_rd (e : Nat) (q : Place) (r i : Nat) : (Thread.start e q r).rd i = 0 := rfl
@[simp] theorem Thread.start_tag (e : Nat) (q : Place) (r i : Nat) : (Thread.start e q r).tag i = false := rfl
@[simp] theorem Thread.start_rdH (e : Nat) (q : Place) (r n : Nat) : (Thread.start e q r).rdH n = 0 := SMap.get_nil 0 n

/-- The uniform registers that a share starts with (R54). -/
theorem startK_get (r : LaunchRec) (n : Nat) :
    SMap.get (startK r) 0 n = if n = 1 then BitVec.ofNat 64 r.launchid else if n = 0 then r.args else 0 := by
  rw [startK, SMap.get_set, SMap.get_set, SMap.get_nil]

/-- Settles O59: each part of the reset state, of a started thread and of a started share, read by its own lemma. -/
theorem resetAndStart : Obligations.ResetAndStart := by
  unfold Obligations.ResetAndStart
  refine ⟨?reset, ?thread, ?share⟩
  case reset =>
    exact ⟨State.reset_memWf, rfl, rfl, rfl, rfl, rfl, by rw [State.reset_pkgD]; rfl, State.reset_barOpen 0,
      State.reset_gbyte, State.reset_lineMeta⟩
  case thread =>
    intro e q r t
    have p0 : t.rdP 0 = 0xFF := Thread.start_rdP e q r 0
    have others : ∀ n, n ≠ 0 → t.rdP n = 0 := fun n hn => by rw [Thread.start_rdP, if_neg hn]
    exact ⟨rfl, rfl, p0, Thread.start_active e q r, others, fun i => ⟨Thread.start_rd e q r i, Thread.start_tag e q r i⟩,
      Thread.start_rdH e q r, rfl, rfl, rfl, rfl, rfl, rfl, rfl, rfl⟩
  case share =>
    intro r
    refine ⟨?_, ?_, fun n hn => ?_⟩
    · rw [startK_get, if_neg (by decide), if_pos rfl]
    · rw [startK_get, if_pos rfl]
    · rw [startK_get, if_neg (by omega), if_neg (by omega)]

end Sys2Proof.Machine
end
